-- ==== Sys2Proof/Word.lean ====
section
/-! DEFINITION. Bytes and words of the links, and the small closed sets of names that commands carry. -/

namespace Sys2Proof

/-- One byte of a master-port frame or of a Panel Link frame (R166, R191). -/
abbrev Byte := BitVec 8

/-- A word of sixteen bits: a CRC-16 (R192), a cause set or a cause mask (R197). -/
abbrev Word := BitVec 16

/-- The three master ports (R191). -/
inductive Port where
  | salesA | salesB | programme
  deriving DecidableEq, Repr

/-- The sampled level of a house line (R138). -/
inductive Level where
  | low | high
  deriving DecidableEq, Repr

/-- What every request frame carries beside its kind and body: the port it arrived on, the master's
tag and the terminal (section 10.1). -/
structure Hdr where
  port : Port
  tag : Byte
  terminal : Byte
  deriving DecidableEq, Repr

/-- The receivers of a 1 s tick (R203). -/
inductive SecReceiver where
  | clock | seat | reel | link
  deriving DecidableEq, Repr

/-- The receivers of a minute boundary (R8, R87). -/
inductive MinReceiver where
  | shows | board | notice | link
  deriving DecidableEq, Repr

/-- The receivers of a 1 ms tick (R203). -/
inductive MsReceiver where
  | house | link | ports | chime
  deriving DecidableEq, Repr

/-- The scope a Post Notice request carries (R121); `unknown` is a scope code that names none. -/
inductive ScopeArg where
  | all
  | groups (mask : Byte)
  | door (aud : Nat)
  | unknown (code : Nat)
  deriving DecidableEq, Repr

/-- The life mode a Post Notice request carries, with its life or interval (R121). -/
inductive LifeArg where
  | once (minutes : Nat)
  | repeats (minutes : Nat)
  | standing
  | unknown (code : Nat)
  deriving DecidableEq, Repr

/-- The view a Set Panel request carries, with that view's parameters (R187). -/
inductive ViewArg where
  | board (page dwell : Nat)
  | door (aud : Nat)
  | spot (reel : Nat)
  | blank
  | unknown (code : Nat)
  deriving DecidableEq, Repr

/-- The items of `all` in the order `given` names them, each once, then those it does not name. -/
def completeOrder {α : Type} [DecidableEq α] : List α → List α → List α
  | [], all => all
  | x :: given, all =>
    if all.contains x then x :: completeOrder given (all.erase x) else completeOrder given all

end Sys2Proof
end

