-- ==== Sys2Proof/Config.lean ====
section
/-! DEFINITION. Fixed sizes of the part, and the byte codes the manual leaves open. -/

namespace Sys2Proof.Config

/-- Slots of the Hold Table (R46). -/
def holdSlots : Nat := 192
/-- Slots of the notice queue (R118). -/
def noticeSlots : Nat := 32
/-- The slot kept for the EVACUATE notice (R118). -/
def evacuateSlot : Nat := 31
/-- Panel addresses 1..24 (R171). -/
def panelCount : Nat := 24
/-- Entries of the Change Journal (R153). -/
def journalSize : Nat := 64
/-- The greatest revision (R152). -/
def maxRevision : Nat := 65535
/-- Records of the pool (R1). -/
def poolSize : Nat := 256
/-- Places on a port's waiting list and answer list (R194). -/
def waitingPlaces : Nat := 4
def answerPlaces : Nat := 8
/-- Live notices a sales port may have (R122). -/
def noticeLimit : Nat := 8

/-- Free values (log 16): R170 gives a notice's class and priority and a reel's state and current item
one byte each in panel records and states no code for them. Each is applied to the position of the
value in the list of its own rule (R118, R96). Nothing can evaluate them. -/
opaque panelClassCode : Nat → Byte
opaque panelPriorityCode : Nat → Byte
opaque panelReelStateCode : Nat → Byte
opaque panelReelItemCode : Nat → Byte
/-- Free value (log 17): the marks byte of a line record, of figure present, plus mark and hint present (R170). -/
opaque panelMarks : Bool → Bool → Bool → Byte

end Sys2Proof.Config
end

