-- ==== Sys2Proof/Syntax.lean ====
section
/-! DEFINITION. The commands of the block: one constructor per row of the table, with the row's operands.
Numbers are as the frame carries them, so they may lie outside the range the rule wants. -/

namespace Sys2Proof

/-- The 88 commands. `h` is the request's header; every other operand is named by the row's rule. -/
inductive Instr where
  /-- R208: RESET asserted or power coming on. -/
  | hardReset
  /-- R208 steps 1 to 4: the first sample of the start lines (bit n is line n), and whether the bytes of the
  setup image hold their check. -/
  | startUp (lines : Word) (imageHolds : Bool)
  /-- R148: the sample of the alert line that completes its debounce time at start-up. -/
  | startUpAlertFound (level : Level)
  /-- R203: the samples of the seventeen lines at the tick, and the order the receivers take it in. -/
  | tick1ms (lines : Word) (alert : Level) (order : List MsReceiver)
  /-- R203: the order the receivers take the tick in, and that of the minute boundary if it brings one. -/
  | tick1s (order : List SecReceiver) (minute : List MinReceiver)
  | minuteBoundary (order : List MinReceiver)
  | holdExpiry (slot : Nat)
  | reelItemEnd (reel : Nat)
  | startLineQualified (line : Nat)
  | alertLineActive
  | alertLineInactive
  | chimeNoteEnd
  | noticeExpiry
  | noticeInterval
  | frameGapTimeout (port : Port)
  /-- R194: the bytes of a complete frame after its sync byte. -/
  | requestFrame (port : Port) (bytes : List Byte)
  | answerSent (port : Port)
  | panelPollDue (addr : Nat)
  | panelProbeDue (addr : Nat)
  | panelGrant
  | beaconSend
  | beaconEnd
  | panelFrameSent
  /-- R169: the nine bytes of the answer. -/
  | panelAnswer (bytes : List Byte)
  | responseTimeout
  | storeEraseDone
  | storeWriteDone
  /-- R206: whether the check computed at the read-back passes. -/
  | storeCheckDone (holds : Bool)
  | storeFault
  | holdSeats (h : Hdr) (key zone count : Nat)
  | confirmHold (h : Hdr) (slot gen : Nat)
  | releaseHold (h : Hdr) (slot gen : Nat)
  | extendHold (h : Hdr) (slot gen : Nat)
  | queryHold (h : Hdr) (slot gen : Nat)
  | sellNow (h : Hdr) (key zone count : Nat)
  | refundSeats (h : Hdr) (key zone count : Nat)
  | queryShow (h : Hdr) (key : Nat)
  | listShows (h : Hdr) (day start : Nat)
  | postNotice (h : Hdr) (cls prio : Nat) (scope : ScopeArg) (text : List Byte) (life : LifeArg)
      (key minutes : Option Nat)
  | withdrawNotice (h : Hdr) (slot gen : Nat)
  | readNotices (h : Hdr)
  | readAlert (h : Hdr)
  | readCauses (h : Hdr)
  | setCauseMask (h : Hdr) (mask : Nat)
  | readPortStatus (h : Hdr) (selector : Nat) (clear : Bool)
  /-- R14; `sold` and `withheld` are the optional initial counts in zone order. -/
  | loadShow (h : Hdr) (key day aud title start run delay : Nat) (caps : Nat × Nat × Nat) (hidden : Bool)
      (sibling : Option Nat) (sold withheld : Option Nat × Option Nat × Option Nat) (openNow : Bool)
  /-- R15; a carried sibling of `some none` removes the sibling key. -/
  | amendShow (h : Hdr) (key : Nat) (start run aud title : Option Nat) (sibling : Option (Option Nat))
      (hidden : Option Bool)
  | openSales (h : Hdr) (key : Nat)
  | cancelShow (h : Hdr) (key : Nat)
  | removeShow (h : Hdr) (key : Nat)
  | readShow (h : Hdr) (key : Nat)
  | defineTitle (h : Hdr) (index : Nat) (text : List Byte) (rating : Nat)
  | rollDay (h : Hdr)
  | dayClear (h : Hdr)
  | setPoolSplit (h : Hdr) (value : Nat)
  | readPool (h : Hdr)
  | setCapacity (h : Hdr) (key zone value : Nat)
  | withhold (h : Hdr) (key zone n : Nat)
  | unwithhold (h : Hdr) (key zone n : Nat)
  | readSeatStatus (h : Hdr) (clear : Bool)
  | readHold (h : Hdr) (slot : Nat)
  | readBoard (h : Hdr) (start : Nat)
  | readDoor (h : Hdr) (aud : Nat)
  | defineSpot (h : Hdr) (key media duration : Nat) (title : Option Nat)
  | removeSpot (h : Hdr) (key : Nat)
  /-- R98; the items are pairs of spot key and weight. -/
  | buildReel (h : Hdr) (reel : Nat) (items : List (Nat × Nat)) (step : Nat)
  | clearReel (h : Hdr) (reel : Nat)
  | stopReel (h : Hdr) (reel : Nat)
  | startReel (h : Hdr) (reel : Nat)
  | readSpot (h : Hdr) (key : Nat)
  | readReel (h : Hdr) (reel : Nat)
  /-- R133; the notes are pairs of divider and length. -/
  | setChimePattern (h : Hdr) (pattern : Nat) (notes : List (Nat × Nat))
  | readChime (h : Hdr)
  | setStartLine (h : Hdr) (line aud edge debounce : Nat)
  | setAlertLine (h : Hdr) (polarity debounce : Nat)
  | clearAlert (h : Hdr)
  | readHouseLines (h : Hdr)
  | readJournal (h : Hdr) (start : Nat)
  | setPanel (h : Hdr) (addr : Nat) (present : Bool) (view : ViewArg) (group : Nat)
  | linkReset (h : Hdr)
  | readPanel (h : Hdr) (addr : Nat) (clear : Bool)
  /-- R207; the settings are pairs of identifier and value. -/
  | setPolicy (h : Hdr) (settings : List (Nat × Nat))
  | readPolicy (h : Hdr)
  | setClock (h : Hdr) (minute second : Nat)
  | readClock (h : Hdr)
  | saveSetup (h : Hdr)
  /-- R191: one byte at a port's receiver, with whether its stop bit was found low. -/
  | portByteReceived (port : Port) (byte : Byte) (stopLow : Bool)
  | panelAnswerStart
  deriving DecidableEq, Repr

end Sys2Proof
end

