-- ==== Sys2Proof/Decode.lean ====
section
/-! DEFINITION. The decoder over the rows of the table that give bits. No row of this block gives any:
its requests are decoded from their frames in Sys2Proof/Machine/RequestForm.lean. -/

namespace Sys2Proof

/-- No row of the table gives a command bits, so no word spells a command. -/
def decodeTableWord (_nbits _w : Nat) : Option Instr := none

end Sys2Proof
end

