-- ==== Sys2Proof/Machine/State.lean ====
section
/-! DEFINITION. The block's state as plain data, one structure per block of the manual, and its value right after
hard reset. -/

namespace Sys2Proof.Machine

/-! ### Shows and the business day (file 01) -/

inductive Zone where
  | standard | premium | access
  deriving DecidableEq, Repr

/-- The seven states of R10. -/
inductive ShowState where
  | loaded | onSale | seating | running | closed | ended | cancelled
  deriving DecidableEq, Repr

/-- The bands of R39; `open_` is the manual's OPEN. -/
inductive Band where
  | open_ | filling | fewLeft | soldOut
  deriving DecidableEq, Repr

inductive StartedBy where
  | clock | contact
  deriving DecidableEq, Repr

/-- The four counts of one zone (R26). -/
structure ZoneCounts where
  cap : Nat
  sold : Nat
  withheld : Nat
  held : Nat
  deriving DecidableEq, Repr

/-- A shown figure with its plus mark (R40). -/
structure Figure where
  n : Nat
  plus : Bool
  deriving DecidableEq, Repr

/-- A show record (R4) and the pool record it occupies (R1). -/
structure Show where
  key : Nat
  record : Nat
  day : Nat
  aud : Nat
  title : Nat
  start : Nat
  run : Nat
  delay : Nat
  std : ZoneCounts
  prm : ZoneCounts
  acc : ZoneCounts
  state : ShowState
  sibling : Option Nat
  hidden : Bool
  latch : Bool
  band : Band
  figure : Figure
  started : Option (StartedBy × Nat)
  deriving DecidableEq, Repr

/-- A title's text and rating (R6). -/
structure Title where
  text : List Byte
  rating : Nat
  deriving DecidableEq, Repr

/-- The show clock (R7). -/
structure Clock where
  valid : Bool
  minute : Nat
  second : Nat
  deriving DecidableEq, Repr

/-- What the Show Table owns. `shows` is kept in ascending key order; `doors` is the auditorium table (R20),
auditorium a at index a - 1. -/
structure ShowTable where
  poolSplit : Nat
  shows : List Show
  titles : List (Option Title)
  doors : List (Option Nat)
  clock : Clock
  deriving DecidableEq, Repr

/-! ### Holds (file 03) -/

inductive EndReason where
  | confirmed | released | expired | voided
  deriving DecidableEq, Repr

/-- The fields a slot keeps of its hold (R46). -/
structure HoldInfo where
  key : Nat
  zone : Zone
  seats : Nat
  port : Port
  terminal : Byte
  extensions : Nat
  deriving DecidableEq, Repr

/-- R46: a FREE slot never used, an ACTIVE slot with its remaining life, a FREE slot with its last hold. -/
inductive HoldUse where
  | never
  | active (info : HoldInfo) (life : Nat)
  | ended (info : HoldInfo) (reason : EndReason)
  deriving DecidableEq, Repr

structure HoldSlot where
  gen : Nat
  use : HoldUse
  deriving DecidableEq, Repr

/-- What the Seat Unit owns beside the counts in the show records (R46, R48, R50, R52). -/
structure SeatUnit where
  slots : List HoldSlot
  free : List Nat
  countA : Nat
  countB : Nat
  highWater : Nat
  deriving DecidableEq, Repr

/-! ### The board (file 04) -/

/-- The status words of R79, in its order. -/
inductive StatusWord where
  | cancelled | started | soldOut | seatingNow | delayed | fewLeft | filling | onSale
  deriving DecidableEq, Repr

/-- A sibling hint: the sibling's effective start and auditorium (R43). -/
structure Hint where
  start : Nat
  aud : Nat
  deriving DecidableEq, Repr

/-- A board line (R78). -/
structure BoardLine where
  key : Nat
  aud : Nat
  title : Nat
  start : Nat
  delay : Option Nat
  word : StatusWord
  figure : Option Figure
  hint : Option Hint
  deriving DecidableEq, Repr

/-- A door line in SHOW form (R80); its auditorium is its place in the list of door images. -/
structure DoorLine where
  key : Nat
  title : Nat
  start : Nat
  word : StatusWord
  figure : Figure
  deriving DecidableEq, Repr

/-- The published images (R82): `lines` in ascending key order; a door image of `none` is NO FURTHER SHOWS. -/
structure BoardBuilder where
  lines : List BoardLine
  doors : List (Option DoorLine)
  titles : List Title
  deriving DecidableEq, Repr

/-! ### Trailer reels (file 05) -/

/-- A spot record (R93) and the pool record it occupies. -/
structure Spot where
  key : Nat
  record : Nat
  media : Nat
  duration : Nat
  title : Option Nat
  deriving DecidableEq, Repr

/-- The current item with the media and cue duration recorded at its cue (R96). -/
inductive ReelItem where
  | spot (media duration : Nat)
  | filler (media duration : Nat)
  | none
  deriving DecidableEq, Repr

inductive ReelState where
  | stopped | playing | filler | held
  deriving DecidableEq, Repr

structure Reel where
  slots : List Nat
  cursor : Nat
  item : ReelItem
  countdown : Nat
  state : ReelState
  plays : Nat
  deriving DecidableEq, Repr

/-- What the Reel Unit owns; `spots` in ascending key order. -/
structure ReelUnit where
  spots : List Spot
  reels : List Reel
  deriving DecidableEq, Repr

/-! ### Notices and the chime (file 06) -/

inductive NoticeClass where
  | evacuate | cancel | delay | desk | info
  deriving DecidableEq, Repr

inductive Priority where
  | high | normal
  deriving DecidableEq, Repr

inductive Origin where
  | sales (port : Port) (terminal : Byte)
  | programme
  | house
  deriving DecidableEq, Repr

inductive Scope where
  | all
  | groups (mask : Byte)
  | door (aud : Nat)
  deriving DecidableEq, Repr

/-- The life mode with what it counts (R118). -/
inductive Life where
  | once (left : Nat)
  | repeats (interval left : Nat)
  | standing
  deriving DecidableEq, Repr

structure Notice where
  origin : Origin
  cls : NoticeClass
  prio : Priority
  scope : Scope
  text : List Byte
  life : Life
  linked : Option Nat
  seq : Nat
  deriving DecidableEq, Repr

/-- A slot is LIVE when it holds a notice (R118). -/
structure NoticeSlot where
  gen : Nat
  notice : Option Notice
  deriving DecidableEq, Repr

structure NoticeQueue where
  slots : List NoticeSlot
  counter : Nat
  liveA : Nat
  liveB : Nat
  deriving DecidableEq, Repr

inductive ChimePattern where
  | attention | reminder | alarm
  deriving DecidableEq, Repr

/-- A note: divider and length in units of 50 ms (R133). -/
structure Note where
  divider : Nat
  length : Nat
  deriving DecidableEq, Repr

/-- PLAYING (R134): the pattern in progress, the copy of its notes taken when the pass began, the position in the
copy of the note in progress, and the milliseconds left of that note. -/
structure Playing where
  pattern : ChimePattern
  copy : List Note
  note : Nat
  left : Nat
  deriving DecidableEq, Repr

/-- What the Chime Unit owns; `playing` of `none` is IDLE. -/
structure ChimeUnit where
  attention : List Note
  reminder : List Note
  alarm : List Note
  playing : Option Playing
  pending : Option ChimePattern
  deriving DecidableEq, Repr

/-! ### House lines (file 07) -/

inductive Edge where
  | rising | falling
  deriving DecidableEq, Repr

inductive Polarity where
  | activeHigh | activeLow
  deriving DecidableEq, Repr

inductive AlertState where
  | normal | alert | held
  deriving DecidableEq, Repr

/-- An entry of the start-line map (R137). -/
structure LineEntry where
  aud : Nat
  edge : Edge
  debounce : Nat
  deriving DecidableEq, Repr

/-- The debounce state of a line (R138). -/
structure LineState where
  stable : Level
  count : Nat
  deriving DecidableEq, Repr

structure AlertEntry where
  polarity : Polarity
  debounce : Nat
  deriving DecidableEq, Repr

structure HouseUnit where
  map : List LineEntry
  lines : List LineState
  alertEntry : AlertEntry
  alertLine : LineState
  alert : AlertState
  deriving DecidableEq, Repr

/-! ### The Change Journal (file 08) -/

/-- What a journal entry says has changed (R153). -/
inductive Target where
  | boardLine (key : Nat)
  | door (aud : Nat)
  | title (index : Nat)
  | reel (r : Nat)
  | notices
  | alert
  deriving DecidableEq, Repr

inductive Form where
  | update | remove
  deriving DecidableEq, Repr

structure Entry where
  rev : Nat
  target : Target
  form : Form
  deriving DecidableEq, Repr

structure Journal where
  cur : Nat
  floor : Nat
  entries : List Entry
  deriving DecidableEq, Repr

/-! ### The Panel Link (file 09) -/

inductive View where
  | board | door | spot | blank
  deriving DecidableEq, Repr

/-- A panel's configuration (R171). -/
structure PanelConfig where
  present : Bool
  view : View
  page : Nat
  dwell : Nat
  aud : Nat
  reel : Nat
  group : Nat
  deriving DecidableEq, Repr

inductive PanelState where
  | absent | unknown | syncing | current | behind | offline
  deriving DecidableEq, Repr

inductive PanelPhase where
  | normal | resync
  deriving DecidableEq, Repr

/-- One notice as a panel is given it (R131, R170). -/
structure NoticeRec where
  slot : Nat
  gen : Nat
  cls : NoticeClass
  prio : Priority
  linked : Option Nat
  text : List Byte
  deriving DecidableEq, Repr

/-- The content of REEL(r) (R107). -/
structure ReelContent where
  state : ReelState
  item : ReelItem
  spot : Option Nat
  countdown : Nat
  plays : Nat
  deriving DecidableEq, Repr

/-- The records of panel frames (R170), with their content as read. -/
inductive Record where
  | view (view : View) (first second group : Nat)
  | alert (active : Bool)
  | notices (list : List NoticeRec)
  | title (index : Nat) (title : Title)
  | line (line : BoardLine)
  | lineRemove (key : Nat)
  | door (aud : Nat) (line : Option DoorLine)
  | reel (r : Nat) (content : ReelContent)
  deriving DecidableEq, Repr

/-- Which frame a batch is: a REFRESH_BEGIN, an UPDATE of R177, or a refresh UPDATE of R179, FINAL or not. -/
inductive BatchKind where
  | refreshBegin
  | update
  | refreshUpdate (final : Bool)
  deriving DecidableEq, Repr

/-- A batch in hand (R172); only an UPDATE of R177 has a batch revision. -/
structure Batch where
  kind : BatchKind
  records : List Record
  rev : Option Nat
  deriving DecidableEq, Repr

/-- A full refresh (R178). -/
structure Refresh where
  snapshot : Nat
  targets : List Target
  position : Nat
  restart : Bool
  deriving DecidableEq, Repr

inductive NakReason where
  | bodyCheck | unknownKind | badLength | overrun
  deriving DecidableEq, Repr

inductive LinkError where
  | timeout
  | answerCheck
  | nak (reason : NakReason)
  deriving DecidableEq, Repr

/-- A panel's error record (R183); the report is its code 1..6 of R169. -/
structure ErrorRecord where
  last : Option LinkError
  recovered : Bool
  timeouts : Nat
  checks : Nat
  naks : Nat
  report : Option Nat
  fault : Option Nat
  deriving DecidableEq, Repr

/-- An entry of the panel table (R171, R172). -/
structure Panel where
  config : PanelConfig
  state : PanelState
  shown : Nat
  phase : PanelPhase
  retry : Nat
  batch : Option Batch
  refresh : Option Refresh
  error : ErrorRecord
  lastAnswer : Option Nat
  idle : Nat
  resync : Bool
  deriving DecidableEq, Repr

inductive FrameKind where
  | poll | probe | refreshBegin | update
  deriving DecidableEq, Repr

/-- The transaction record (R167); `window` is absent until the frame's last byte has been sent. -/
structure Transaction where
  addr : Nat
  kind : FrameKind
  hasBatch : Bool
  window : Option Nat
  begun : Bool
  discard : Bool
  deriving DecidableEq, Repr

/-- The link's condition (R166). -/
inductive LinkCond where
  | idle
  | transaction (t : Transaction)
  | beacon
  deriving DecidableEq, Repr

/-- What the Panel Link Controller owns; panel address a stands at index a - 1. `out` is the frame last driven on
the link, kept as a record of the output. -/
structure PanelLink where
  panels : List Panel
  cond : LinkCond
  lastServed : Nat
  beaconPending : Bool
  out : List Byte
  deriving DecidableEq, Repr

/-! ### Master ports (file 10) -/

/-- The result codes of section 10.4, in code order. -/
inductive Result where
  | ok | busy | unknownRequest | notPermitted | badArgument | noSuchShow | duplicate | notSelling | notEnough
  | notSold | notWithheld | notRefundable | belowCommitted | notAmendable | notDelayable | tableFull | quotaFull
  | quotaSum | unknownHold | holdEnded | notOwner | extendLimit | houseAlert | alertActive | noAlert | noticeFull
  | noticeLimit | reelTooLong | reelEmpty | inUse | storeBusy | clockNotSet
  deriving DecidableEq, Repr

/-- What an owning block answers: code, CLAMPED mark and body. -/
structure Reply where
  code : Result
  clamped : Bool
  body : List Byte
  deriving DecidableEq, Repr

/-- An accepted request frame (section 10.1). -/
structure Frame where
  tag : Byte
  kind : Byte
  terminal : Byte
  body : List Byte
  deriving DecidableEq, Repr

/-- An answer frame (section 10.1). -/
structure Answer where
  tag : Byte
  kind : Byte
  terminal : Byte
  reply : Reply
  deriving DecidableEq, Repr

/-- A port's receiver (R191): HUNTING, or IN_FRAME with the bytes after the sync byte and the gap count of R193. -/
inductive Receiver where
  | hunting
  | inFrame (bytes : List Byte) (gap : Nat)
  deriving DecidableEq, Repr

/-- The causes of R197. -/
inductive Cause where
  | holdLapsed | holdVoided | noticeEnded | showChange | alertChange | strayStart | panelOffline | recovered
  | panelFault | refreshForced | storeDone | storeFailed | storeInvalid
  deriving DecidableEq, Repr

/-- A master port (R191, R194, R197). `held` is an answer made with the answer list full, waiting for a place. -/
structure PortState where
  receiver : Receiver
  execution : Option Frame
  waiting : List Frame
  held : Option Answer
  answers : List Answer
  frameErrors : Nat
  busy : Nat
  unanswered : Nat
  causes : Word
  mask : Word
  deriving DecidableEq, Repr

structure Ports where
  a : PortState
  b : PortState
  p : PortState
  deriving DecidableEq, Repr

/-! ### Setup store (file 11) -/

/-- The policy settings (R207). -/
structure Policy where
  doorsLead : Nat
  startGrace : Nat
  lateSale : Nat
  holdLife : Nat
  holdExtends : Nat
  quotaA : Nat
  quotaB : Nat
  fewLeft : Nat
  fillSixteenths : Nat
  hysteresis : Nat
  pollInterval : Nat
  probeInterval : Nat
  responseWindow : Nat
  fillerMedia : Nat
  fillerDuration : Nat
  chimeEnable : Bool
  dayStart : Nat
  deriving DecidableEq, Repr

inductive StoreState where
  | idle | erasing | writing | checking
  deriving DecidableEq, Repr

/-- The items of the setup image (R205). -/
structure SetupImage where
  policy : Policy
  poolSplit : Nat
  map : List LineEntry
  alertEntry : AlertEntry
  panels : List PanelConfig
  attention : List Note
  reminder : List Note
  alarm : List Note
  spots : List Spot
  reels : List (List Nat)
  deriving DecidableEq, Repr

/-- The store's state and the image; an image of `none` fails its check. -/
structure SetupStore where
  state : StoreState
  image : Option SetupImage
  deriving DecidableEq, Repr

/-- Where the part stands between a hard reset and service (R208): RESET held, start-up steps 1 to 4, serving. -/
inductive Phase where
  | inReset | starting | running
  deriving DecidableEq, Repr

/-! ### The whole state -/

structure State where
  phase : Phase
  /-- STORE_INVALID noted in step 2 of R208 for step 6. -/
  storeInvalid : Bool
  shows : ShowTable
  seat : SeatUnit
  board : BoardBuilder
  reel : ReelUnit
  notice : NoticeQueue
  chime : ChimeUnit
  house : HouseUnit
  journal : Journal
  link : PanelLink
  ports : Ports
  policy : Policy
  store : SetupStore
  pending : List Instr
  deriving DecidableEq, Repr

/-- No rule of the manual stops the part with a fault: the reasons are none. -/
inductive Fault where
  deriving DecidableEq, Repr

/-- Why a command has no meaning. -/
inductive Refusal where
  /-- Raised by an arm of exec for a command not reached yet; safe, since nothing can then be proved of its effect. -/
  | notModelled (mnemonic : String)
  deriving DecidableEq, Repr

/-! ### Reset -/

/-- The default column of R207. -/
def Policy.default : Policy where
  doorsLead := 20
  startGrace := 10
  lateSale := 15
  holdLife := 300
  holdExtends := 2
  quotaA := 96
  quotaB := 96
  fewLeft := 20
  fillSixteenths := 12
  hysteresis := 16
  pollInterval := 2
  probeInterval := 30
  responseWindow := 2
  fillerMedia := 0
  fillerDuration := 30
  chimeEnable := true
  dayStart := 360

def LineEntry.default : LineEntry := ⟨0, .rising, 50⟩
def AlertEntry.default : AlertEntry := ⟨.activeHigh, 100⟩
def PanelConfig.default : PanelConfig := ⟨false, .blank, 8, 10, 1, 0, 0⟩

/-- The items when the image fails its check (R205, R133, R137, R141, R171). -/
def SetupImage.default : SetupImage where
  policy := .default
  poolSplit := 8
  map := List.replicate 16 .default
  alertEntry := .default
  panels := List.replicate 24 .default
  attention := [⟨32, 4⟩, ⟨64, 6⟩]
  reminder := [⟨64, 4⟩]
  alarm := [⟨16, 10⟩, ⟨32, 10⟩]
  spots := []
  reels := List.replicate 4 []

def ErrorRecord.clear : ErrorRecord := ⟨none, false, 0, 0, 0, none, none⟩

/-- A panel right after hard reset (R172). -/
def Panel.ofConfig (c : PanelConfig) : Panel where
  config := c
  state := if c.present then .unknown else .absent
  shown := 0
  phase := .normal
  retry := 0
  batch := none
  refresh := none
  error := .clear
  lastAnswer := none
  idle := 0
  resync := false

/-- A reel right after hard reset (R97). -/
def Reel.ofSlots (slots : List Nat) : Reel := ⟨slots, 0, .none, 0, .stopped, 0⟩

/-- A port right after hard reset (R201). -/
def PortState.reset : PortState := ⟨.hunting, none, [], none, [], 0, 0, 0, 0, 0⟩

/-- The blocks after hard reset with the given items as working values (R208 steps 2 and 3). Each line's stable
level reads LOW until its first sample is taken (log 1). -/
def State.ofImage (img : SetupImage) (image : Option SetupImage) : State where
  phase := .inReset
  storeInvalid := false
  shows :=
    { poolSplit := img.poolSplit, shows := [], titles := List.replicate 64 none,
      doors := List.replicate 16 none, clock := ⟨false, 0, 0⟩ }
  seat :=
    { slots := List.replicate 192 ⟨0, .never⟩, free := List.range 192, countA := 0, countB := 0, highWater := 0 }
  board := { lines := [], doors := List.replicate 16 none, titles := List.replicate 64 ⟨[], 0⟩ }
  reel := { spots := img.spots, reels := img.reels.map Reel.ofSlots }
  notice := { slots := List.replicate 32 ⟨0, none⟩, counter := 0, liveA := 0, liveB := 0 }
  chime := ⟨img.attention, img.reminder, img.alarm, none, none⟩
  house := ⟨img.map, List.replicate 16 ⟨.low, 0⟩, img.alertEntry, ⟨.low, 0⟩, .normal⟩
  journal := ⟨0, 0, []⟩
  link := ⟨img.panels.map Panel.ofConfig, .idle, 0, false, []⟩
  ports := ⟨.reset, .reset, .reset⟩
  policy := img.policy
  store := ⟨.idle, image⟩
  pending := []

/-- Right after hard reset, RESET still held and the setup image failing its check (log 1). -/
def State.reset : State := State.ofImage .default none

end Sys2Proof.Machine
end

