-- ==== Sys2Proof/Machine/Crc.lean ====
section
/-! DEFINITION. The CRC-16 of R192 and the header check of R168. -/

namespace Sys2Proof.Machine

/-- One bit of the division by x^16 + x^12 + x^5 + 1. -/
def crcShift (c : Word) : Word := if c.msb then (c <<< 1) ^^^ 0x1021#16 else c <<< 1

/-- One byte, most significant bit first. -/
def crcByte (c : Word) (b : Byte) : Word :=
  crcShift (crcShift (crcShift (crcShift (crcShift (crcShift (crcShift (crcShift
    (c ^^^ (b.zeroExtend 16 <<< 8)))))))))

/-- The CRC-16 of R192: initial value 0xFFFF, no final inversion. -/
def crc16 (bytes : List Byte) : Word := bytes.foldl crcByte 0xFFFF#16

/-- A word's two bytes, high byte first. -/
def wordBytes (w : Word) : List Byte := [(w >>> 8).truncate 8, w.truncate 8]

/-- The positions 3..46 that are not powers of two, in increasing order (R168). -/
def headerPositions : List Nat :=
  (List.range 47).filter (fun n => decide (3 ≤ n) && !(n == 4 || n == 8 || n == 16 || n == 32))

/-- The forty data bits of offsets 1..5, from the most significant bit of offset 1. -/
def headerBits (bytes : List Byte) : List Bool :=
  bytes.flatMap (fun b => (List.range 8).map (fun i => b.getLsbD (7 - i)))

def xorAll (l : List Bool) : Bool := l.foldl Bool.xor false

/-- Bit k of the header check, k = 0..5 (R168). -/
def headerBit (bits : List Bool) (k : Nat) : Bool :=
  xorAll ((bits.zip headerPositions).map (fun x => x.1 && x.2.testBit k))

/-- The header check over offsets 1..5 (R168). -/
def headerCheck (bytes : List Byte) : Byte :=
  let bits := headerBits bytes
  let low := (List.range 6).map (headerBit bits)
  let all := low ++ [Bool.xor (xorAll bits) (xorAll low)]
  BitVec.ofNat 8 ((all.zip (List.range 7)).foldl (fun n x => n + (if x.1 then 2 ^ x.2 else 0)) 0)

end Sys2Proof.Machine
end

