-- ==== Sys2Proof/Machine/Ops.lean ====
section
/-! DEFINITION. Named reads and updates of the state: one update per block, and the accessors through which shows,
holds, notices, reels, panels and ports are reached. -/

namespace Sys2Proof.Machine

/-- What a command answers. -/
abbrev StepOutcome := Host.Outcome State Fault Refusal

/-! ### One update per block -/

def State.withPhase (s : State) (x : Phase) : State := { s with phase := x }
def State.withStoreInvalid (s : State) (x : Bool) : State := { s with storeInvalid := x }
def State.withShows (s : State) (x : ShowTable) : State := { s with shows := x }
def State.withSeat (s : State) (x : SeatUnit) : State := { s with seat := x }
def State.withBoard (s : State) (x : BoardBuilder) : State := { s with board := x }
def State.withReel (s : State) (x : ReelUnit) : State := { s with reel := x }
def State.withNotice (s : State) (x : NoticeQueue) : State := { s with notice := x }
def State.withChime (s : State) (x : ChimeUnit) : State := { s with chime := x }
def State.withHouse (s : State) (x : HouseUnit) : State := { s with house := x }
def State.withJournal (s : State) (x : Journal) : State := { s with journal := x }
def State.withLink (s : State) (x : PanelLink) : State := { s with link := x }
def State.withPorts (s : State) (x : Ports) : State := { s with ports := x }
def State.withPolicy (s : State) (x : Policy) : State := { s with policy := x }
def State.withStore (s : State) (x : SetupStore) : State := { s with store := x }
def State.withPending (s : State) (x : List Instr) : State := { s with pending := x }

/-! ### Lists in order -/

/-- `x` put before the first item that does not stand before it. -/
def insertBy {α : Type} (before : α → α → Bool) (x : α) : List α → List α
  | [] => [x]
  | y :: l => if before y x then y :: insertBy before x l else x :: y :: l

/-- The items in the order `before` gives. -/
def sortBy {α : Type} (before : α → α → Bool) : List α → List α
  | [] => []
  | x :: l => insertBy before x (sortBy before l)

/-- Board order (R65, R77): by effective start, then auditorium, then key. -/
def boardBefore (a b : Nat × Nat × Nat) : Bool :=
  decide (a.1 < b.1) || (a.1 == b.1 && (decide (a.2.1 < b.2.1) || (a.2.1 == b.2.1 && decide (a.2.2 < b.2.2))))

/-- `n` brought into the range lo..hi (file 00, Settings and clamping). -/
def clampTo (lo hi n : Nat) : Nat := if n < lo then lo else if hi < n then hi else n

/-- A count that stops at 255 (R183, R193, R194). -/
def bump255 (n : Nat) : Nat := if n < 255 then n + 1 else n

/-! ### Zones -/

def Show.zone (sh : Show) : Zone → ZoneCounts
  | .standard => sh.std
  | .premium => sh.prm
  | .access => sh.acc

def Show.withZone (sh : Show) (z : Zone) (c : ZoneCounts) : Show :=
  match z with
  | .standard => { sh with std := c }
  | .premium => { sh with prm := c }
  | .access => { sh with acc := c }

/-- Sold, held and withheld seats of a zone (R26). -/
def ZoneCounts.committed (c : ZoneCounts) : Nat := c.sold + c.held + c.withheld
/-- A_z of R26. -/
def ZoneCounts.available (c : ZoneCounts) : Nat := c.cap - c.committed

/-- K, C and A of R26. -/
def Show.capacity (sh : Show) : Nat := sh.std.cap + sh.prm.cap + sh.acc.cap
def Show.committed (sh : Show) : Nat := sh.std.committed + sh.prm.committed + sh.acc.committed
def Show.available (sh : Show) : Nat := sh.capacity - sh.committed

/-- A show's effective start (R5). -/
def Show.effStart (sh : Show) : Nat := sh.start + sh.delay

/-- The greatest delay of a show with this scheduled start (R5). -/
def delayBound (start : Nat) : Nat := Nat.min 180 (1439 - start)

/-! ### Shows -/

/-- The loaded show with this key. -/
def State.findShow (s : State) (key : Nat) : Option Show := s.shows.shows.find? (fun sh => sh.key == key)

def updateShows (key : Nat) (f : Show → Show) (l : List Show) : List Show :=
  l.map (fun sh => if sh.key = key then f sh else sh)

def State.modifyShow (s : State) (key : Nat) (f : Show → Show) : State :=
  s.withShows { s.shows with shows := updateShows key f s.shows.shows }

/-- The keys of the loaded shows, ascending. -/
def State.showKeys (s : State) : List Nat := s.shows.shows.map (·.key)

def State.withShowList (s : State) (l : List Show) : State := s.withShows { s.shows with shows := l }

def State.withClock (s : State) (c : Clock) : State := s.withShows { s.shows with clock := c }

/-- The records 0..16 × split - 1 (R1). -/
def State.showAreaSize (s : State) : Nat := 16 * s.shows.poolSplit
def State.spotAreaSize (s : State) : Nat := Config.poolSize - s.showAreaSize

/-- The lowest FREE record of the show area (R1). -/
def State.freeShowRecord (s : State) : Option Nat :=
  (List.range s.showAreaSize).find? (fun r => !(s.shows.shows.any (fun sh => sh.record == r)))

/-- The highest FREE record of the spot area (R93). -/
def State.freeSpotRecord (s : State) : Option Nat :=
  ((List.range Config.poolSize).reverse.take s.spotAreaSize).find?
    (fun r => !(s.reel.spots.any (fun sp => sp.record == r)))

/-- The door show of auditorium a, 1..16 (R20). -/
def State.doorShow (s : State) (aud : Nat) : Option Nat := ((s.shows.doors)[aud - 1]?).join

/-! ### Holds -/

def State.holdSlot (s : State) (i : Nat) : HoldSlot := (s.seat.slots)[i]?.getD ⟨0, .never⟩

def State.withHoldSlot (s : State) (i : Nat) (x : HoldSlot) : State :=
  s.withSeat { s.seat with slots := s.seat.slots.set i x }

/-- A slot is ACTIVE (R46). -/
def HoldSlot.isActive (x : HoldSlot) : Bool :=
  match x.use with
  | .active _ _ => true
  | _ => false

def State.activeHolds (s : State) : Nat := s.seat.slots.countP HoldSlot.isActive

/-- A sales port's count of ACTIVE holds (R50). -/
def SeatUnit.portCount (u : SeatUnit) : Port → Nat
  | .salesA => u.countA
  | .salesB => u.countB
  | .programme => 0

def SeatUnit.withPortCount (u : SeatUnit) (p : Port) (n : Nat) : SeatUnit :=
  match p with
  | .salesA => { u with countA := n }
  | .salesB => { u with countB := n }
  | .programme => u

/-- A sales port's quota (R50). -/
def Policy.quota (p : Policy) : Port → Nat
  | .salesA => p.quotaA
  | .salesB => p.quotaB
  | .programme => 0

/-! ### Notices -/

def NoticeQueue.portLive (q : NoticeQueue) : Port → Nat
  | .salesA => q.liveA
  | .salesB => q.liveB
  | .programme => 0

def NoticeQueue.withPortLive (q : NoticeQueue) (p : Port) (n : Nat) : NoticeQueue :=
  match p with
  | .salesA => { q with liveA := n }
  | .salesB => { q with liveB := n }
  | .programme => q

def State.noticeSlot (s : State) (i : Nat) : NoticeSlot := (s.notice.slots)[i]?.getD ⟨0, none⟩

/-! ### Spots and reels -/

def State.findSpot (s : State) (key : Nat) : Option Spot := s.reel.spots.find? (fun sp => sp.key == key)

def State.reelAt (s : State) (r : Nat) : Reel := (s.reel.reels)[r]?.getD (Reel.ofSlots [])

def State.withReelAt (s : State) (r : Nat) (x : Reel) : State :=
  s.withReel { s.reel with reels := s.reel.reels.set r x }

/-! ### Panels -/

def State.panelAt (s : State) (addr : Nat) : Panel := (s.link.panels)[addr - 1]?.getD (Panel.ofConfig .default)

def State.withPanelAt (s : State) (addr : Nat) (x : Panel) : State :=
  s.withLink { s.link with panels := s.link.panels.set (addr - 1) x }

def State.withCond (s : State) (c : LinkCond) : State := s.withLink { s.link with cond := c }

def State.setBeacon (s : State) : State := s.withLink { s.link with beaconPending := true }

/-! ### Ports -/

def Ports.at_ (q : Ports) : Port → PortState
  | .salesA => q.a
  | .salesB => q.b
  | .programme => q.p

def Ports.put (q : Ports) (p : Port) (x : PortState) : Ports :=
  match p with
  | .salesA => { q with a := x }
  | .salesB => { q with b := x }
  | .programme => { q with p := x }

def State.portAt (s : State) (p : Port) : PortState := s.ports.at_ p
def State.withPortAt (s : State) (p : Port) (x : PortState) : State := s.withPorts (s.ports.put p x)

end Sys2Proof.Machine
end

