-- ==== Sys2Proof/Machine/Flags.lean ====
section
/-! DEFINITION. Causes, cause words and attention lines (R197, R198). -/

namespace Sys2Proof.Machine

/-- The bit of a cause in the table of a port (R197); absent when the table does not hold it. -/
def Cause.bit (p : Port) (c : Cause) : Option Nat :=
  match p, c with
  | .programme, .strayStart => some 0
  | .programme, .panelOffline => some 1
  | .programme, .recovered => some 2
  | .programme, .panelFault => some 3
  | .programme, .refreshForced => some 4
  | .programme, .storeDone => some 5
  | .programme, .storeFailed => some 6
  | .programme, .storeInvalid => some 7
  | .programme, .alertChange => some 8
  | .programme, .showChange => some 9
  | .salesA, .holdLapsed | .salesB, .holdLapsed => some 0
  | .salesA, .holdVoided | .salesB, .holdVoided => some 1
  | .salesA, .noticeEnded | .salesB, .noticeEnded => some 2
  | .salesA, .showChange | .salesB, .showChange => some 3
  | .salesA, .alertChange | .salesB, .alertChange => some 4
  | _, _ => none

/-- The causes of a port's table, as a number of bits (R197). -/
def causeBits : Port → Nat
  | .programme => 10
  | _ => 5

/-- A cause word with a bit set. -/
def setBit (w : Word) (n : Nat) : Word := w ||| ((1 : Word) <<< n)

/-- A cause set with `c` raised; a cause already set stays set (R197). -/
def raisedWord (p : Port) (c : Cause) (w : Word) : Word :=
  match c.bit p with
  | some n => setBit w n
  | none => w

/-- Raising a cause in a port's cause set (R197). -/
def raise (p : Port) (c : Cause) (s : State) : State :=
  s.withPortAt p { s.portAt p with causes := raisedWord p c (s.portAt p).causes }

/-- A cause raised on Sales Port A, Sales Port B and the Programme Port. -/
def raiseAll (c : Cause) (s : State) : State := raise .programme c (raise .salesB c (raise .salesA c s))

/-- A cause stands set in a port's set. -/
def causeSet (p : Port) (c : Cause) (s : State) : Bool :=
  match c.bit p with
  | some n => (s.portAt p).causes.getLsbD n
  | none => false

/-- The attention line (R198); while RESET is asserted it is inactive (R208). -/
def attention (p : Port) (s : State) : Bool :=
  s.phase != .inReset && ((s.portAt p).causes &&& ~~~(s.portAt p).mask) != 0

end Sys2Proof.Machine
end

