-- ==== Sys2Proof/Machine/Operands.lean ====
section
/-! DEFINITION. The operand forms of requests and the field forms of answers: named values by their position in the
list of their rule, one or two bytes by range, presence bytes, texts and lists (R192). -/

namespace Sys2Proof.Machine

/-! ### Named values, by position from 0 (R192) -/

def zoneOf : Nat → Option Zone
  | 0 => some .standard
  | 1 => some .premium
  | 2 => some .access
  | _ => none

def classOf : Nat → Option NoticeClass
  | 0 => some .evacuate
  | 1 => some .cancel
  | 2 => some .delay
  | 3 => some .desk
  | 4 => some .info
  | _ => none

def priorityOf : Nat → Option Priority
  | 0 => some .high
  | 1 => some .normal
  | _ => none

def patternOf : Nat → Option ChimePattern
  | 0 => some .attention
  | 1 => some .reminder
  | 2 => some .alarm
  | _ => none

def edgeOf : Nat → Option Edge
  | 0 => some .rising
  | 1 => some .falling
  | _ => none

def polarityOf : Nat → Option Polarity
  | 0 => some .activeHigh
  | 1 => some .activeLow
  | _ => none

def Zone.code : Zone → Nat
  | .standard => 0 | .premium => 1 | .access => 2
def ShowState.code : ShowState → Nat
  | .loaded => 0 | .onSale => 1 | .seating => 2 | .running => 3 | .closed => 4 | .ended => 5 | .cancelled => 6
def Band.code : Band → Nat
  | .open_ => 0 | .filling => 1 | .fewLeft => 2 | .soldOut => 3
def StartedBy.code : StartedBy → Nat
  | .clock => 0 | .contact => 1
def EndReason.code : EndReason → Nat
  | .confirmed => 0 | .released => 1 | .expired => 2 | .voided => 3
def StatusWord.code : StatusWord → Nat
  | .cancelled => 0 | .started => 1 | .soldOut => 2 | .seatingNow => 3 | .delayed => 4 | .fewLeft => 5
  | .filling => 6 | .onSale => 7
def ReelState.code : ReelState → Nat
  | .stopped => 0 | .playing => 1 | .filler => 2 | .held => 3
def ReelItem.code : ReelItem → Nat
  | .spot _ _ => 0 | .filler _ _ => 1 | .none => 2
def NoticeClass.code : NoticeClass → Nat
  | .evacuate => 0 | .cancel => 1 | .delay => 2 | .desk => 3 | .info => 4
def Priority.code : Priority → Nat
  | .high => 0 | .normal => 1
def ChimePattern.code : ChimePattern → Nat
  | .attention => 0 | .reminder => 1 | .alarm => 2
def Edge.code : Edge → Nat
  | .rising => 0 | .falling => 1
def Polarity.code : Polarity → Nat
  | .activeHigh => 0 | .activeLow => 1
def AlertState.code : AlertState → Nat
  | .normal => 0 | .alert => 1 | .held => 2
def levelCode : Level → Nat
  | .low => 0 | .high => 1
def View.code : View → Nat
  | .board => 0 | .door => 1 | .spot => 2 | .blank => 3
def PanelState.code : PanelState → Nat
  | .absent => 0 | .unknown => 1 | .syncing => 2 | .current => 3 | .behind => 4 | .offline => 5
def PanelPhase.code : PanelPhase → Nat
  | .normal => 0 | .resync => 1
def Form.code : Form → Nat
  | .update => 0 | .remove => 1

/-- The kinds of frame by their code of R168. -/
def FrameKind.code : FrameKind → Nat
  | .poll => 1 | .probe => 2 | .refreshBegin => 3 | .update => 4

/-- The result codes of section 10.4. -/
def Result.code : Result → Nat
  | .ok => 0 | .busy => 1 | .unknownRequest => 2 | .notPermitted => 3 | .badArgument => 4 | .noSuchShow => 5
  | .duplicate => 6 | .notSelling => 7 | .notEnough => 8 | .notSold => 9 | .notWithheld => 10
  | .notRefundable => 11 | .belowCommitted => 12 | .notAmendable => 13 | .notDelayable => 14 | .tableFull => 15
  | .quotaFull => 16 | .quotaSum => 17 | .unknownHold => 18 | .holdEnded => 19 | .notOwner => 20
  | .extendLimit => 21 | .houseAlert => 22 | .alertActive => 23 | .noAlert => 24 | .noticeFull => 25
  | .noticeLimit => 26 | .reelTooLong => 27 | .reelEmpty => 28 | .inUse => 29 | .storeBusy => 30
  | .clockNotSet => 31

/-! ### Fields of answers (R192) -/

/-- A field of one byte. -/
def w1 (n : Nat) : List Byte := [BitVec.ofNat 8 n]
/-- A field of two bytes, high byte first. -/
def w2 (n : Nat) : List Byte := [BitVec.ofNat 8 (n / 256), BitVec.ofNat 8 n]
/-- A flag: 1 set, 0 clear (log 12). -/
def wFlag (b : Bool) : List Byte := w1 (if b then 1 else 0)
/-- An optional field: a presence byte, then the field. -/
def wOpt {α : Type} (f : α → List Byte) : Option α → List Byte
  | none => w1 0
  | some x => w1 1 ++ f x
/-- A text: its length, then its characters. -/
def wText (t : List Byte) : List Byte := w1 t.length ++ t
/-- A list: its count, then its items. -/
def wList {α : Type} (f : α → List Byte) (l : List α) : List Byte := w1 l.length ++ l.flatMap f

/-! ### Replies -/

/-- An answer other than OK: the code alone (section 10.4). -/
def refuse (c : Result) : Reply := ⟨c, false, []⟩
/-- OK without the CLAMPED mark. -/
def okWith (body : List Byte) : Reply := ⟨.ok, false, body⟩
/-- OK with the mark as given. -/
def okMarked (clamped : Bool) (body : List Byte) : Reply := ⟨.ok, clamped, body⟩

/-- Every character of a text lies in 32..126 (R6, R121). -/
def textOk (t : List Byte) : Bool := t.all (fun c => decide (32 ≤ c.toNat) && decide (c.toNat ≤ 126))

end Sys2Proof.Machine
end

