-- ==== Sys2Proof/WellFormed.lean ====
section
/-! DEFINITION. Which commands can be sent: every number fits the width R192 gives its field, every address
and index names a thing of the part, a frame and an answer have their length, an order names each receiver once. -/

namespace Sys2Proof

/-- A field of one byte (R192: a range not above 255). -/
def fits1 (n : Nat) : Bool := decide (n < 256)
/-- A field of two bytes (R192: a range above 255). -/
def fits2 (n : Nat) : Bool := decide (n < 65536)
/-- An optional field fits when its value does. -/
def fitsOpt (f : Nat → Bool) : Option Nat → Bool
  | none => true
  | some n => f n
/-- A text or list is counted by one byte (R192). -/
def fitsList {α : Type} (l : List α) : Bool := decide (l.length < 256)

def fitsOpt3 (t : Option Nat × Option Nat × Option Nat) : Bool :=
  fitsOpt fits2 t.1 && fitsOpt fits2 t.2.1 && fitsOpt fits2 t.2.2

/-- A list names each of `all` exactly once. -/
def isOrderOf {α : Type} [DecidableEq α] (all given : List α) : Bool :=
  all.all (fun x => given.count x == 1) && given.length == all.length

def allSec : List SecReceiver := [.clock, .seat, .reel, .link]
def allMin : List MinReceiver := [.shows, .board, .notice, .link]
def allMs : List MsReceiver := [.house, .link, .ports, .chime]

/-- The scope's codes are 0..2 (R118); an unknown scope is another code. -/
def ScopeArg.wf : ScopeArg → Bool
  | .all => true
  | .groups _ => true
  | .door a => fits1 a
  | .unknown c => fits1 c && decide (3 ≤ c)

def LifeArg.wf : LifeArg → Bool
  | .once n => fits1 n
  | .repeats n => fits1 n
  | .standing => true
  | .unknown c => fits1 c && decide (3 ≤ c)

def ViewArg.wf : ViewArg → Bool
  | .board p d => fits1 p && fits1 d
  | .door a => fits1 a
  | .spot r => fits1 r
  | .blank => true
  | .unknown c => fits1 c && decide (4 ≤ c)

/-- The bytes of a frame after its sync byte are 7 + L for the L its length field names, L at most 255 (R192, R193). -/
def frameComplete (bytes : List Byte) : Bool :=
  match bytes with
  | hi :: lo :: _ => hi == 0 && bytes.length == 7 + lo.toNat
  | _ => false

/-- The value's width of a setting (R207, R192): two bytes for the settings whose range exceeds 255. -/
def settingWidth (id : Nat) : Nat :=
  if id = 3 ∨ id = 11 ∨ id = 13 ∨ id = 16 then 2 else 1

def settingFits (p : Nat × Nat) : Bool :=
  fits1 p.1 && (if settingWidth p.1 = 2 then fits2 p.2 else fits1 p.2)

/-- The mask word of a Set Cause Mask: one byte on a sales port, two on the Programme Port (log 14). -/
def maskFits (p : Port) (n : Nat) : Bool :=
  match p with
  | .programme => fits2 n
  | _ => fits1 n

def isPanelAddr (a : Nat) : Bool := decide (1 ≤ a) && decide (a ≤ Config.panelCount)

/-- The check of a command's own form. -/
def Instr.wf : Instr → Bool
  | .hardReset => true
  | .startUp _ _ => true
  | .startUpAlertFound _ => true
  | .tick1ms _ _ o => isOrderOf allMs o
  | .tick1s o m => isOrderOf allSec o && isOrderOf allMin m
  | .minuteBoundary m => isOrderOf allMin m
  | .holdExpiry i => decide (i < Config.holdSlots)
  | .reelItemEnd r => decide (r < 4)
  | .startLineQualified i => decide (i < 16)
  | .alertLineActive => true
  | .alertLineInactive => true
  | .chimeNoteEnd => true
  | .noticeExpiry => true
  | .noticeInterval => true
  | .frameGapTimeout _ => true
  | .requestFrame _ b => frameComplete b
  | .answerSent _ => true
  | .panelPollDue a => isPanelAddr a
  | .panelProbeDue a => isPanelAddr a
  | .panelGrant => true
  | .beaconSend => true
  | .beaconEnd => true
  | .panelFrameSent => true
  | .panelAnswer b => b.length == 9
  | .responseTimeout => true
  | .storeEraseDone => true
  | .storeWriteDone => true
  | .storeCheckDone _ => true
  | .storeFault => true
  | .holdSeats _ k z n => fits2 k && fits1 z && fits1 n
  | .confirmHold _ i g => fits1 i && fits1 g
  | .releaseHold _ i g => fits1 i && fits1 g
  | .extendHold _ i g => fits1 i && fits1 g
  | .queryHold _ i g => fits1 i && fits1 g
  | .sellNow _ k z n => fits2 k && fits1 z && fits1 n
  | .refundSeats _ k z n => fits2 k && fits1 z && fits1 n
  | .queryShow _ k => fits2 k
  | .listShows _ d p => fits1 d && fits1 p
  | .postNotice _ c p sc t l k m =>
    fits1 c && fits1 p && sc.wf && fitsList t && l.wf && fitsOpt fits2 k && fitsOpt fits1 m
  | .withdrawNotice _ i g => fits1 i && fits1 g
  | .readNotices _ => true
  | .readAlert _ => true
  | .readCauses _ => true
  | .setCauseMask h m => maskFits h.port m
  | .readPortStatus _ p _ => fits1 p
  | .loadShow _ k d a t st r dl caps _ sib so wi _ =>
    fits2 k && fits1 d && fits1 a && fits1 t && fits2 st && fits2 r && fits1 dl &&
      fits2 caps.1 && fits2 caps.2.1 && fits2 caps.2.2 && fitsOpt fits2 sib && fitsOpt3 so && fitsOpt3 wi
  | .amendShow _ k st r a t sib _ =>
    fits2 k && fitsOpt fits2 st && fitsOpt fits2 r && fitsOpt fits1 a && fitsOpt fits1 t &&
      (match sib with | some o => fitsOpt fits2 o | none => true)
  | .openSales _ k => fits2 k
  | .cancelShow _ k => fits2 k
  | .removeShow _ k => fits2 k
  | .readShow _ k => fits2 k
  | .defineTitle _ i t r => fits1 i && fitsList t && fits1 r
  | .rollDay _ => true
  | .dayClear _ => true
  | .setPoolSplit _ v => fits1 v
  | .readPool _ => true
  | .setCapacity _ k z v => fits2 k && fits1 z && fits2 v
  | .withhold _ k z n => fits2 k && fits1 z && fits2 n
  | .unwithhold _ k z n => fits2 k && fits1 z && fits2 n
  | .readSeatStatus _ _ => true
  | .readHold _ i => fits1 i
  | .readBoard _ p => fits1 p
  | .readDoor _ a => fits1 a
  | .defineSpot _ k m d t => fits2 k && fits2 m && fits1 d && fitsOpt fits1 t
  | .removeSpot _ k => fits2 k
  | .buildReel _ r items k => fits1 r && fitsList items && items.all (fun x => fits2 x.1 && fits1 x.2) && fits1 k
  | .clearReel _ r => fits1 r
  | .stopReel _ r => fits1 r
  | .startReel _ r => fits1 r
  | .readSpot _ k => fits2 k
  | .readReel _ r => fits1 r
  | .setChimePattern _ p ns => fits1 p && fitsList ns && ns.all (fun x => fits1 x.1 && fits1 x.2)
  | .readChime _ => true
  | .setStartLine _ i a e d => fits1 i && fits1 a && fits1 e && fits2 d
  | .setAlertLine _ p d => fits1 p && fits2 d
  | .clearAlert _ => true
  | .readHouseLines _ => true
  | .readJournal _ p => fits1 p
  | .setPanel _ a _ v g => fits1 a && v.wf && fits1 g
  | .linkReset _ => true
  | .readPanel _ a _ => fits1 a
  | .setPolicy _ l => fitsList l && l.all settingFits
  | .readPolicy _ => true
  | .setClock _ m s => fits2 m && fits1 s
  | .readClock _ => true
  | .saveSetup _ => true
  | .portByteReceived _ _ _ => true
  | .panelAnswerStart => true

end Sys2Proof
end

