-- ==== Sys2Proof/Machine/RequestForm.lean ====
section
/-! DEFINITION. Request kinds, their standing on each port (section 10.3), and the form of each request's body, read
and written from one description of it (R192; log 11 to log 14). -/

namespace Sys2Proof.Machine

/-! ### Reading fields -/

/-- A field of one byte. -/
def b1 : List Byte → Option (Nat × List Byte)
  | x :: r => some (x.toNat, r)
  | [] => none

/-- A field of two bytes, high byte first. -/
def b2 : List Byte → Option (Nat × List Byte)
  | x :: y :: r => some (x.toNat * 256 + y.toNat, r)
  | _ => none

/-- A flag: 1 set, 0 clear, no other value (log 12). -/
def bFlag (l : List Byte) : Option (Bool × List Byte) :=
  match b1 l with
  | some (0, r) => some (false, r)
  | some (1, r) => some (true, r)
  | _ => none

/-- An optional field after its presence byte; a presence byte above 1 is malformed, which is the model's choice (log 12). -/
def bOpt {α : Type} (f : List Byte → Option (α × List Byte)) (l : List Byte) : Option (Option α × List Byte) :=
  match bFlag l with
  | some (true, r) => (f r).map (fun x => (some x.1, x.2))
  | some (false, r) => some (none, r)
  | none => none

/-- A text: a length byte, then its characters. -/
def bText (l : List Byte) : Option (List Byte × List Byte) :=
  match b1 l with
  | some (n, r) => if n ≤ r.length then some (r.take n, r.drop n) else none
  | none => none

/-- `n` items, one after the other. -/
def bTimes {α : Type} (f : List Byte → Option (α × List Byte)) : Nat → List Byte → Option (List α × List Byte)
  | 0, l => some ([], l)
  | n + 1, l =>
    match f l with
    | some (x, r) => (bTimes f n r).map (fun y => (x :: y.1, y.2))
    | none => none

/-- A list: a count byte, then its items. -/
def bList {α : Type} (f : List Byte → Option (α × List Byte)) (l : List Byte) : Option (List α × List Byte) :=
  match b1 l with
  | some (n, r) => bTimes f n r
  | none => none

/-- Two fields, one after the other. -/
def bPair {α β : Type} (f : List Byte → Option (α × List Byte)) (g : List Byte → Option (β × List Byte))
    (l : List Byte) : Option ((α × β) × List Byte) :=
  match f l with
  | some (x, r) => (g r).map (fun y => ((x, y.1), y.2))
  | none => none

/-- A setting: identifier, then its value with its width (R207, log 11). -/
def bSetting (l : List Byte) : Option ((Nat × Nat) × List Byte) :=
  match b1 l with
  | some (i, r) => ((if settingWidth i = 2 then b2 r else b1 r)).map (fun y => ((i, y.1), y.2))
  | none => none

/-- A scope: its position in the list of R118, then its mask or auditorium. -/
def bScope (l : List Byte) : Option (ScopeArg × List Byte) :=
  match b1 l with
  | some (0, r) => some (.all, r)
  | some (1, r) => (b1 r).map (fun x => (.groups (BitVec.ofNat 8 x.1), x.2))
  | some (2, r) => (b1 r).map (fun x => (.door x.1, x.2))
  | some (c, r) => some (.unknown c, r)
  | none => none

/-- A life mode: its position in the list of R118, then its life or interval. -/
def bLife (l : List Byte) : Option (LifeArg × List Byte) :=
  match b1 l with
  | some (0, r) => (b1 r).map (fun x => (.once x.1, x.2))
  | some (1, r) => (b1 r).map (fun x => (.repeats x.1, x.2))
  | some (2, r) => some (.standing, r)
  | some (c, r) => some (.unknown c, r)
  | none => none

/-- A view: its position in the list of R171, then its parameters. -/
def bView (l : List Byte) : Option (ViewArg × List Byte) :=
  match b1 l with
  | some (0, r) => (bPair b1 b1 r).map (fun x => (.board x.1.1 x.1.2, x.2))
  | some (1, r) => (b1 r).map (fun x => (.door x.1, x.2))
  | some (2, r) => (b1 r).map (fun x => (.spot x.1, x.2))
  | some (3, r) => some (.blank, r)
  | some (c, r) => some (.unknown c, r)
  | none => none

/-! ### Writing fields -/

def putScope : ScopeArg → List Byte
  | .all => w1 0
  | .groups m => w1 1 ++ [m]
  | .door a => w1 2 ++ w1 a
  | .unknown c => w1 c

def putLife : LifeArg → List Byte
  | .once n => w1 0 ++ w1 n
  | .repeats n => w1 1 ++ w1 n
  | .standing => w1 2
  | .unknown c => w1 c

def putView : ViewArg → List Byte
  | .board p d => w1 0 ++ w1 p ++ w1 d
  | .door a => w1 1 ++ w1 a
  | .spot r => w1 2 ++ w1 r
  | .blank => w1 3
  | .unknown c => w1 c

def putSetting (x : Nat × Nat) : List Byte := w1 x.1 ++ if settingWidth x.1 = 2 then w2 x.2 else w1 x.2

/-! ### Forms -/

/-- The form of a run of fields: how it is read off the front of a body, and how it is written. -/
structure Codec (α : Type) where
  get : List Byte → Option (α × List Byte)
  put : α → List Byte

def formU8 : Codec Nat := ⟨b1, w1⟩
def formU16 : Codec Nat := ⟨b2, w2⟩
def formFlag : Codec Bool := ⟨bFlag, wFlag⟩
def formText : Codec (List Byte) := ⟨bText, wText⟩
def formScope : Codec ScopeArg := ⟨bScope, putScope⟩
def formLife : Codec LifeArg := ⟨bLife, putLife⟩
def formView : Codec ViewArg := ⟨bView, putView⟩
def formSetting : Codec (Nat × Nat) := ⟨bSetting, putSetting⟩
def formEmpty : Codec Unit := ⟨fun l => some ((), l), fun _ => []⟩
def formOpt {α : Type} (f : Codec α) : Codec (Option α) := ⟨bOpt f.get, wOpt f.put⟩
def formList {α : Type} (f : Codec α) : Codec (List α) := ⟨bList f.get, wList f.put⟩
def formPair {α β : Type} (f : Codec α) (g : Codec β) : Codec (α × β) := ⟨bPair f.get g.get, fun x => f.put x.1 ++ g.put x.2⟩

/-- The body ends where the last field ends (R196). -/
def readForm {α : Type} (f : Codec α) (body : List Byte) : Option α :=
  match f.get body with
  | some (x, []) => some x
  | _ => none

/-- Show key, zone, seat count (R56, R62, R63). -/
def formSeats : Codec (Nat × Nat × Nat) := formPair formU16 (formPair formU8 formU8)
/-- Hold id or notice slot with generation (R47, R123). -/
def formId : Codec (Nat × Nat) := formPair formU8 formU8
/-- Show key, zone, a count of seats (R30). -/
def formZoneCount : Codec (Nat × Nat × Nat) := formPair formU16 (formPair formU8 formU16)
/-- R121. -/
def formNotice : Codec (Nat × Nat × ScopeArg × List Byte × LifeArg × Option Nat × Option Nat) :=
  formPair formU8 (formPair formU8 (formPair formScope (formPair formText (formPair formLife
    (formPair (formOpt formU16) (formOpt formU8))))))
/-- The mask word of a port (R198, log 14). -/
def formMask : Port → Codec Nat
  | .programme => formU16
  | _ => formU8
/-- The optional sold and withheld counts of one zone (R14). -/
def formInitial : Codec (Option Nat × Option Nat) := formPair (formOpt formU16) (formOpt formU16)
/-- R14. -/
def formLoad : Codec (Nat × Nat × Nat × Nat × Nat × Nat × Nat × (Nat × Nat × Nat) × Bool × Option Nat ×
    ((Option Nat × Option Nat) × (Option Nat × Option Nat) × (Option Nat × Option Nat)) × Bool) :=
  formPair formU16 (formPair formU8 (formPair formU8 (formPair formU8 (formPair formU16 (formPair formU16
    (formPair formU8 (formPair (formPair formU16 (formPair formU16 formU16)) (formPair formFlag
      (formPair (formOpt formU16) (formPair (formPair formInitial (formPair formInitial formInitial))
        formFlag))))))))))
/-- R15. -/
def formAmend : Codec (Nat × Option Nat × Option Nat × Option Nat × Option Nat × Option (Option Nat) × Option Bool) :=
  formPair formU16 (formPair (formOpt formU16) (formPair (formOpt formU16) (formPair (formOpt formU8)
    (formPair (formOpt formU8) (formPair (formOpt (formOpt formU16)) (formOpt formFlag))))))
/-- R6. -/
def formTitle : Codec (Nat × List Byte × Nat) := formPair formU8 (formPair formText formU8)
/-- R94. -/
def formSpot : Codec (Nat × Nat × Nat × Option Nat) :=
  formPair formU16 (formPair formU16 (formPair formU8 (formOpt formU8)))
/-- R98. -/
def formReel : Codec (Nat × List (Nat × Nat) × Nat) :=
  formPair formU8 (formPair (formList (formPair formU16 formU8)) formU8)
/-- R133. -/
def formChime : Codec (Nat × List (Nat × Nat)) := formPair formU8 (formList (formPair formU8 formU8))
/-- R137. -/
def formStartLine : Codec (Nat × Nat × Nat × Nat) :=
  formPair formU8 (formPair formU8 (formPair formU8 formU16))
/-- R141. -/
def formAlertLine : Codec (Nat × Nat) := formPair formU8 formU16
/-- R187. -/
def formPanel : Codec (Nat × Bool × ViewArg × Nat) :=
  formPair formU8 (formPair formFlag (formPair formView formU8))
/-- An address or a selector with a clear flag (R189, R200). -/
def formClear : Codec (Nat × Bool) := formPair formU8 formFlag

/-! ### Kinds and standing -/

/-- The request a body of this kind carries (section 10.3); absent for an unknown kind or a malformed body. -/
def parseBody (h : Hdr) (kind : Nat) (body : List Byte) : Option Instr :=
  match kind with
  | 1 => (readForm formSeats body).map (fun x => .holdSeats h x.1 x.2.1 x.2.2)
  | 2 => (readForm formId body).map (fun x => .confirmHold h x.1 x.2)
  | 3 => (readForm formId body).map (fun x => .releaseHold h x.1 x.2)
  | 4 => (readForm formId body).map (fun x => .extendHold h x.1 x.2)
  | 5 => (readForm formId body).map (fun x => .queryHold h x.1 x.2)
  | 6 => (readForm formSeats body).map (fun x => .sellNow h x.1 x.2.1 x.2.2)
  | 7 => (readForm formSeats body).map (fun x => .refundSeats h x.1 x.2.1 x.2.2)
  | 8 => (readForm formU16 body).map (fun x => .queryShow h x)
  | 9 => (readForm formId body).map (fun x => .listShows h x.1 x.2)
  | 10 => (readForm formNotice body).map
      (fun x => .postNotice h x.1 x.2.1 x.2.2.1 x.2.2.2.1 x.2.2.2.2.1 x.2.2.2.2.2.1 x.2.2.2.2.2.2)
  | 11 => (readForm formId body).map (fun x => .withdrawNotice h x.1 x.2)
  | 12 => (readForm formEmpty body).map (fun _ => .readNotices h)
  | 13 => (readForm formEmpty body).map (fun _ => .readAlert h)
  | 14 => (readForm formEmpty body).map (fun _ => .readCauses h)
  | 15 => (readForm (formMask h.port) body).map (fun x => .setCauseMask h x)
  | 16 => (readForm formClear body).map (fun x => .readPortStatus h x.1 x.2)
  | 32 => (readForm formLoad body).map (fun
      | (k, d, a, t, st, r, dl, caps, hid, sib, (i1, i2, i3), o) =>
        .loadShow h k d a t st r dl caps hid sib (i1.1, i2.1, i3.1) (i1.2, i2.2, i3.2) o)
  | 33 => (readForm formAmend body).map (fun
      | (k, st, r, a, t, sib, hid) => .amendShow h k st r a t sib hid)
  | 34 => (readForm formU16 body).map (fun x => .openSales h x)
  | 35 => (readForm formU16 body).map (fun x => .cancelShow h x)
  | 36 => (readForm formU16 body).map (fun x => .removeShow h x)
  | 37 => (readForm formU16 body).map (fun x => .readShow h x)
  | 38 => (readForm formTitle body).map (fun x => .defineTitle h x.1 x.2.1 x.2.2)
  | 39 => (readForm formEmpty body).map (fun _ => .rollDay h)
  | 40 => (readForm formEmpty body).map (fun _ => .dayClear h)
  | 41 => (readForm formU8 body).map (fun x => .setPoolSplit h x)
  | 42 => (readForm formEmpty body).map (fun _ => .readPool h)
  | 48 => (readForm formZoneCount body).map (fun x => .setCapacity h x.1 x.2.1 x.2.2)
  | 49 => (readForm formZoneCount body).map (fun x => .withhold h x.1 x.2.1 x.2.2)
  | 50 => (readForm formZoneCount body).map (fun x => .unwithhold h x.1 x.2.1 x.2.2)
  | 51 => (readForm formFlag body).map (fun x => .readSeatStatus h x)
  | 52 => (readForm formU8 body).map (fun x => .readHold h x)
  | 56 => (readForm formU8 body).map (fun x => .readBoard h x)
  | 57 => (readForm formU8 body).map (fun x => .readDoor h x)
  | 64 => (readForm formSpot body).map (fun x => .defineSpot h x.1 x.2.1 x.2.2.1 x.2.2.2)
  | 65 => (readForm formU16 body).map (fun x => .removeSpot h x)
  | 66 => (readForm formReel body).map (fun x => .buildReel h x.1 x.2.1 x.2.2)
  | 67 => (readForm formU8 body).map (fun x => .clearReel h x)
  | 68 => (readForm formU8 body).map (fun x => .stopReel h x)
  | 69 => (readForm formU8 body).map (fun x => .startReel h x)
  | 70 => (readForm formU16 body).map (fun x => .readSpot h x)
  | 71 => (readForm formU8 body).map (fun x => .readReel h x)
  | 80 => (readForm formChime body).map (fun x => .setChimePattern h x.1 x.2)
  | 81 => (readForm formEmpty body).map (fun _ => .readChime h)
  | 88 => (readForm formStartLine body).map (fun x => .setStartLine h x.1 x.2.1 x.2.2.1 x.2.2.2)
  | 89 => (readForm formAlertLine body).map (fun x => .setAlertLine h x.1 x.2)
  | 90 => (readForm formEmpty body).map (fun _ => .clearAlert h)
  | 91 => (readForm formEmpty body).map (fun _ => .readHouseLines h)
  | 96 => (readForm formU8 body).map (fun x => .readJournal h x)
  | 104 => (readForm formPanel body).map (fun x => .setPanel h x.1 x.2.1 x.2.2.1 x.2.2.2)
  | 105 => (readForm formEmpty body).map (fun _ => .linkReset h)
  | 106 => (readForm formClear body).map (fun x => .readPanel h x.1 x.2)
  | 112 => (readForm (formList formSetting) body).map (fun x => .setPolicy h x)
  | 113 => (readForm formEmpty body).map (fun _ => .readPolicy h)
  | 114 => (readForm (formPair formU16 formU8) body).map (fun x => .setClock h x.1 x.2)
  | 115 => (readForm formEmpty body).map (fun _ => .readClock h)
  | 116 => (readForm formEmpty body).map (fun _ => .saveSetup h)
  | _ => none

/-- The header, kind and body of a request; an event has none. -/
def requestBody : Instr → Option (Hdr × Nat × List Byte)
  | .holdSeats h k z n => some (h, 1, formSeats.put (k, z, n))
  | .confirmHold h i g => some (h, 2, formId.put (i, g))
  | .releaseHold h i g => some (h, 3, formId.put (i, g))
  | .extendHold h i g => some (h, 4, formId.put (i, g))
  | .queryHold h i g => some (h, 5, formId.put (i, g))
  | .sellNow h k z n => some (h, 6, formSeats.put (k, z, n))
  | .refundSeats h k z n => some (h, 7, formSeats.put (k, z, n))
  | .queryShow h k => some (h, 8, formU16.put k)
  | .listShows h d p => some (h, 9, formId.put (d, p))
  | .postNotice h c p sc t l k m => some (h, 10, formNotice.put (c, p, sc, t, l, k, m))
  | .withdrawNotice h i g => some (h, 11, formId.put (i, g))
  | .readNotices h => some (h, 12, [])
  | .readAlert h => some (h, 13, [])
  | .readCauses h => some (h, 14, [])
  | .setCauseMask h m => some (h, 15, (formMask h.port).put m)
  | .readPortStatus h p c => some (h, 16, formClear.put (p, c))
  | .loadShow h k d a t st r dl caps hid sib so wi o =>
    some (h, 32, formLoad.put
      (k, d, a, t, st, r, dl, caps, hid, sib, ((so.1, wi.1), (so.2.1, wi.2.1), (so.2.2, wi.2.2)), o))
  | .amendShow h k st r a t sib hid => some (h, 33, formAmend.put (k, st, r, a, t, sib, hid))
  | .openSales h k => some (h, 34, formU16.put k)
  | .cancelShow h k => some (h, 35, formU16.put k)
  | .removeShow h k => some (h, 36, formU16.put k)
  | .readShow h k => some (h, 37, formU16.put k)
  | .defineTitle h i t r => some (h, 38, formTitle.put (i, t, r))
  | .rollDay h => some (h, 39, [])
  | .dayClear h => some (h, 40, [])
  | .setPoolSplit h v => some (h, 41, formU8.put v)
  | .readPool h => some (h, 42, [])
  | .setCapacity h k z v => some (h, 48, formZoneCount.put (k, z, v))
  | .withhold h k z n => some (h, 49, formZoneCount.put (k, z, n))
  | .unwithhold h k z n => some (h, 50, formZoneCount.put (k, z, n))
  | .readSeatStatus h c => some (h, 51, formFlag.put c)
  | .readHold h i => some (h, 52, formU8.put i)
  | .readBoard h p => some (h, 56, formU8.put p)
  | .readDoor h a => some (h, 57, formU8.put a)
  | .defineSpot h k m d t => some (h, 64, formSpot.put (k, m, d, t))
  | .removeSpot h k => some (h, 65, formU16.put k)
  | .buildReel h r items k => some (h, 66, formReel.put (r, items, k))
  | .clearReel h r => some (h, 67, formU8.put r)
  | .stopReel h r => some (h, 68, formU8.put r)
  | .startReel h r => some (h, 69, formU8.put r)
  | .readSpot h k => some (h, 70, formU16.put k)
  | .readReel h r => some (h, 71, formU8.put r)
  | .setChimePattern h p ns => some (h, 80, formChime.put (p, ns))
  | .readChime h => some (h, 81, [])
  | .setStartLine h i a e d => some (h, 88, formStartLine.put (i, a, e, d))
  | .setAlertLine h p d => some (h, 89, formAlertLine.put (p, d))
  | .clearAlert h => some (h, 90, [])
  | .readHouseLines h => some (h, 91, [])
  | .readJournal h p => some (h, 96, formU8.put p)
  | .setPanel h a p v g => some (h, 104, formPanel.put (a, p, v, g))
  | .linkReset h => some (h, 105, [])
  | .readPanel h a c => some (h, 106, formClear.put (a, c))
  | .setPolicy h l => some (h, 112, (formList formSetting).put l)
  | .readPolicy h => some (h, 113, [])
  | .setClock h m sec => some (h, 114, (formPair formU16 formU8).put (m, sec))
  | .readClock h => some (h, 115, [])
  | .saveSetup h => some (h, 116, [])
  | _ => none

/-- The kind is one that only the sales ports may send, one that all three may, one that only the Programme Port may,
or no request at all (section 10.3). -/
inductive Standing where
  | salesOnly | all | programmeOnly | unknown
  deriving DecidableEq, Repr

def standing (kind : Nat) : Standing :=
  if 1 ≤ kind ∧ kind ≤ 7 then .salesOnly
  else if 8 ≤ kind ∧ kind ≤ 16 then .all
  else if (32 ≤ kind ∧ kind ≤ 42) ∨ (48 ≤ kind ∧ kind ≤ 52) ∨ (56 ≤ kind ∧ kind ≤ 57) ∨ (64 ≤ kind ∧ kind ≤ 71) ∨
      (80 ≤ kind ∧ kind ≤ 81) ∨ (88 ≤ kind ∧ kind ≤ 91) ∨ kind = 96 ∨ (104 ≤ kind ∧ kind ≤ 106) ∨
      (112 ≤ kind ∧ kind ≤ 116) then .programmeOnly
  else .unknown

/-- The kind is allowed on the port (section 10.3). -/
def permitted (p : Port) (kind : Nat) : Bool :=
  match standing kind, p with
  | .salesOnly, .programme => false
  | .salesOnly, _ => true
  | .all, _ => true
  | .programmeOnly, .programme => true
  | .programmeOnly, _ => false
  | .unknown, _ => false

/-- The request a frame carries on a port. -/
def parseRequest (p : Port) (f : Frame) : Option Instr := parseBody ⟨p, f.tag, f.terminal⟩ f.kind.toNat f.body

/-- The port's own checks of a request in execution, in the order of R196; absent when it passes. -/
def portCheck (p : Port) (f : Frame) : Option Result :=
  if standing f.kind.toNat = .unknown then some .unknownRequest
  else if permitted p f.kind.toNat = false then some .notPermitted
  else if 63 < f.terminal.toNat ∨ (parseRequest p f).isNone then some .badArgument
  else none

end Sys2Proof.Machine
end

