-- ==== Sys2Proof/Machine/Ports.lean ====
section
/-! DEFINITION. The master ports: receiving bytes and frames, the request buffer and the answer list, and the one
operation by which an owning block takes and answers a request (file 10). -/

namespace Sys2Proof.Machine

/-! ### Answers -/

/-- An answer made joins the answer list, or waits for a place (R194, R195, log 19). -/
def PortState.answer (a : Answer) (x : PortState) : PortState :=
  if x.answers.length < Config.answerPlaces then { x with answers := x.answers ++ [a] } else { x with held := some a }

/-- The head of the waiting list becomes the request in execution, unless an answer waits for a place (R195). -/
def PortState.promote (x : PortState) : PortState :=
  match x.execution, x.held, x.waiting with
  | none, none, f :: rest => { x with execution := some f, waiting := rest }
  | _, _, _ => x

/-- The request in execution has been answered (R195). -/
def PortState.finish (a : Answer) (x : PortState) : PortState :=
  PortState.promote { PortState.answer a x with execution := none }

/-- The answer to a frame: tag, kind and terminal echoed (section 10.1). -/
def echo (f : Frame) (r : Reply) : Answer := ⟨f.tag, f.kind, f.terminal, r⟩

/-- The port checks the request in execution and answers the first refusal found; the next one follows (R195, R196). -/
def PortState.settle (p : Port) : Nat → PortState → PortState
  | 0, x => x
  | n + 1, x =>
    match x.execution with
    | some f =>
      match portCheck p f with
      | some c => PortState.settle p n (x.finish (echo f (refuse c)))
      | none => x
    | none => x

/-- Every request that can come into execution before an owning block acts is checked. -/
def PortState.settled (p : Port) (x : PortState) : PortState := x.settle p (x.waiting.length + 1)

/-! ### Frames -/

/-- No request in execution, none waiting, no answer waiting for a place. -/
def PortState.isFree (x : PortState) : Bool := x.execution.isNone && x.waiting.isEmpty && x.held.isNone

/-- A frame that passes R193 (the table of R194). -/
def PortState.accept (p : Port) (f : Frame) (x : PortState) : PortState :=
  if x.isFree then PortState.settled p { x with execution := some f }
  else if x.waiting.length < Config.waitingPlaces then { x with waiting := x.waiting ++ [f] }
  else if x.answers.length < Config.answerPlaces then
    { x with answers := x.answers ++ [echo f (refuse .busy)], busy := bump255 x.busy }
  else { x with unanswered := bump255 x.unanswered }

/-- A frame discarded without an answer (R193). -/
def PortState.discard (x : PortState) : PortState :=
  { x with receiver := .hunting, frameErrors := bump255 x.frameErrors }

/-- The frame in the bytes after its sync byte, when they are complete and the CRC-16 holds (R192). -/
def frameOf (bytes : List Byte) : Option Frame :=
  if frameComplete bytes then
    if wordBytes (crc16 (bytes.take (bytes.length - 2))) = bytes.drop (bytes.length - 2) then
      match bytes.take (bytes.length - 2) with
      | _ :: _ :: tag :: kind :: terminal :: body => some ⟨tag, kind, terminal, body⟩
      | _ => none
    else none
  else none

/-- The bytes of a frame after its sync byte, with its length and its CRC-16 (R192). -/
def frameBytes (f : Frame) : List Byte :=
  let covered := w2 f.body.length ++ [f.tag, f.kind, f.terminal] ++ f.body
  covered ++ wordBytes (crc16 covered)

/-- A complete frame: the receiver is HUNTING again, and the frame is taken or discarded (R191, R193, R194).
As REQUEST_FRAME on a port that is IN_FRAME it drops the bytes collected so far without counting a frame error, which is
the model's choice (log 41). -/
def PortState.complete (p : Port) (bytes : List Byte) (x : PortState) : PortState :=
  match frameOf bytes with
  | some f => PortState.accept p f { x with receiver := .hunting }
  | none => x.discard

/-- The body length field is above 255, found when its second byte is collected (R193). -/
def lengthBad (bytes : List Byte) : Bool :=
  match bytes with
  | hi :: _ :: _ => hi != 0
  | _ => false

/-- One byte at the receiver, with whether its stop bit was low (R191, R193). -/
def PortState.takeByte (p : Port) (b : Byte) (stopLow : Bool) (x : PortState) : PortState :=
  match x.receiver with
  | .hunting => if stopLow then x else if b = 0xC3#8 then { x with receiver := .inFrame [] 0 } else x
  | .inFrame bytes _ =>
    if stopLow then x.discard
    else if lengthBad (bytes ++ [b]) then x.discard
    else if frameComplete (bytes ++ [b]) then x.complete p (bytes ++ [b])
    else { x with receiver := .inFrame (bytes ++ [b]) 0 }

/-- The port's part of a 1 ms tick: the gap count (R193). -/
def PortState.gapTick (x : PortState) : PortState :=
  match x.receiver with
  | .inFrame bytes gap => if 5 ≤ gap + 1 then x.discard else { x with receiver := .inFrame bytes (gap + 1) }
  | .hunting => x

/-- The tick that completes the gap count, when it is due (R193). -/
def PortState.gapDue (x : PortState) : PortState :=
  match x.receiver with
  | .inFrame _ gap => if 5 ≤ gap + 1 then x.discard else x
  | .hunting => x

/-- The end of an answer's transmission: it leaves the list, an answer waiting for a place joins it, and the next
request comes into execution (R194, R195). -/
def PortState.sent (p : Port) (x : PortState) : PortState :=
  match x.answers with
  | [] => x
  | _ :: rest =>
    match x.held with
    | some a => PortState.settled p (PortState.promote { x with answers := rest ++ [a], held := none })
    | none => { x with answers := rest }

/-- The ports' part of a 1 ms tick. -/
def portsTick (s : State) : State := s.withPorts ⟨s.ports.a.gapTick, s.ports.b.gapTick, s.ports.p.gapTick⟩

/-- An answer as the transmitter sends it (section 10.1). -/
def answerFrame (a : Answer) : List Byte :=
  let covered := w2 a.reply.body.length ++ [a.tag, a.kind, a.terminal] ++ w1 a.reply.code.code ++
    wFlag a.reply.clamped ++ a.reply.body
  w1 0xC5 ++ covered ++ wordBytes (crc16 covered)

/-! ### Taking a request -/

/-- The frame that carries a request. -/
def requestFrameOf (h : Hdr) (kind : Nat) (body : List Byte) : Frame := ⟨h.tag, BitVec.ofNat 8 kind, h.terminal, body⟩

/-- It is the command's turn on its port: it is the request in execution, or the port is free and takes it (log 3). -/
def inTurn (c : Instr) (p : Port) (x : PortState) : Bool :=
  match x.execution with
  | some f => parseRequest p f == some c
  | none => x.isFree

/-- The port's refusals of a request whose body has its form (R196). -/
def headerRefusal (h : Hdr) (kind : Nat) : Option Result :=
  if permitted h.port kind = false then some .notPermitted
  else if 63 < h.terminal.toNat then some .badArgument
  else none

/-- The request stands in execution on its port. -/
def putInExecution (h : Hdr) (f : Frame) (s : State) : State :=
  match (s.portAt h.port).execution with
  | some _ => s
  | none => s.withPortAt h.port { s.portAt h.port with execution := some f }

/-- The owning block's answer joins the port's list, and the next request comes into execution (R195). -/
def finishRequest (h : Hdr) (f : Frame) (r : Reply) (s : State) : State :=
  s.withPortAt h.port ((s.portAt h.port).finish (echo f r) |>.settled h.port)

/-- What the owning block does with a request, its state and its answer. -/
abbrev Owner := State → State × Reply

/-- A request taken whole: port checks, the owning block's event, its answer (R195, R196). Out of its turn, or before
the ports run, nothing happens (log 3). -/
def takeRequest (c : Instr) (owner : Owner) (s : State) : State :=
  match requestBody c with
  | none => s
  | some (h, kind, body) =>
    if s.phase = .running ∧ inTurn c h.port (s.portAt h.port) then
      let f := requestFrameOf h kind body
      let s1 := putInExecution h f s
      match headerRefusal h kind with
      | some code => finishRequest h f (refuse code) s1
      | none => finishRequest h f (owner s1).2 (owner s1).1
    else s

/-- A request row: the owning block takes it in its turn. -/
def request (c : Instr) (owner : Owner) (s : State) : StepOutcome := .next (takeRequest c owner s)

/-- A refusal that changes nothing. -/
def deny (c : Result) (s : State) : State × Reply := (s, refuse c)

end Sys2Proof.Machine
end

