-- ==== Sys2Proof/Machine/Chime.lean ====
section
/-! DEFINITION. The Chime Unit: triggers, passes and the 1 ms tick (section 6.8). -/

namespace Sys2Proof.Machine

def ChimeUnit.patternNotes (c : ChimeUnit) : ChimePattern → List Note
  | .attention => c.attention
  | .reminder => c.reminder
  | .alarm => c.alarm

/-- A note's duration in milliseconds (R133). -/
def Note.ms (n : Note) : Nat := n.length * 50

/-- A pass of a pattern begins at its first note (R134). -/
def ChimeUnit.begin_ (c : ChimeUnit) (p : ChimePattern) : ChimeUnit :=
  match c.patternNotes p with
  | n :: rest => { c with playing := some ⟨p, n :: rest, 0, n.ms⟩ }
  | [] => { c with playing := none }

/-- A trigger (R134, R135); while chime_enable is off every trigger is discarded (R136). -/
def ChimeUnit.trigger (c : ChimeUnit) (enable : Bool) (p : ChimePattern) : ChimeUnit :=
  if !enable then c
  else match p, c.playing with
    | .alarm, some pl => if pl.pattern = .alarm then c else { c with pending := none }.begin_ .alarm
    | .alarm, none => { c with pending := none }.begin_ .alarm
    | q, none => c.begin_ q
    | q, some pl => if pl.pattern = .alarm then c else { c with pending := some q }

/-- The end of a pass (R134). -/
def ChimeUnit.passEnd (c : ChimeUnit) (al : AlertState) (p : ChimePattern) : ChimeUnit :=
  if p = .alarm ∧ al = .alert then c.begin_ .alarm
  else match c.pending with
    | some q => { c with pending := none }.begin_ q
    | none => { c with playing := none }

/-- The note in progress reaches 0 (R134): the next note of the copy, or the end of the pass. -/
def ChimeUnit.noteEnd (c : ChimeUnit) (al : AlertState) : ChimeUnit :=
  match c.playing with
  | some pl =>
    match (pl.copy)[pl.note + 1]? with
    | some n => { c with playing := some { pl with note := pl.note + 1, left := n.ms } }
    | none => c.passEnd al pl.pattern
  | none => c

/-- The Chime Unit's part of a 1 ms tick (R134). -/
def ChimeUnit.tick (c : ChimeUnit) (al : AlertState) : ChimeUnit :=
  match c.playing with
  | some pl =>
    if pl.left ≤ 1 then c.noteEnd al else { c with playing := some { pl with left := pl.left - 1 } }
  | none => c

/-- A trigger handed to the Chime Unit. -/
def chimeTrigger (p : ChimePattern) (s : State) : State :=
  s.withChime (s.chime.trigger s.policy.chimeEnable p)

def chimeTick (s : State) : State := s.withChime (s.chime.tick s.house.alert)

/-- A change of chime_enable by Set Policy (R136). -/
def chimeEnableChanged (on : Bool) (s : State) : State :=
  if on then
    if s.house.alert = .alert then s.withChime ({ s.chime with pending := none }.begin_ .alarm) else s
  else s.withChime { s.chime with playing := none, pending := none }

/-- The chime line (R133): the divider it toggles at, or low. While RESET is asserted it is low (R208). -/
def chimeLine (s : State) : Option Nat :=
  if s.phase = .inReset then none
  else match s.chime.playing with
    | some pl => ((pl.copy)[pl.note]?).map (·.divider)
    | none => none

end Sys2Proof.Machine
end

