-- ==== Sys2Proof/Machine/Journal.lean ====
section
/-! DEFINITION. The Change Journal: relevance, the two questions, filing with its hand-off to the panels, the wrap and
Day Clear (file 08, and R173, R185, R186 of file 09). -/

namespace Sys2Proof.Machine

/-- A target is relevant to a panel by its view (R160). -/
def relevant (c : PanelConfig) (t : Target) : Bool :=
  match c.view, t with
  | _, .notices => true
  | _, .alert => true
  | .board, .boardLine _ => true
  | .board, .title _ => true
  | .door, .title _ => true
  | .door, .door a => a == c.aud
  | .spot, .reel r => r == c.reel
  | _, _ => false

/-- The entries above `v` that are relevant to the view, in increasing revision order. -/
def Journal.relevantAbove (j : Journal) (v : Nat) (c : PanelConfig) : List Entry :=
  j.entries.filter (fun e => decide (v < e.rev) && relevant c e.target)

/-- The answer to the first question of R161: REFRESH_NEEDED, or up to `n` entries, whether further relevant ones
remain, and the current revision. -/
inductive JournalAnswer where
  | refreshNeeded
  | entries (list : List Entry) (more : Bool) (cur : Nat)
  deriving DecidableEq, Repr

/-- The first question of R161. -/
def Journal.first (j : Journal) (v : Nat) (c : PanelConfig) (n : Nat) : JournalAnswer :=
  if v < j.floor then .refreshNeeded
  else .entries ((j.relevantAbove v c).take n) (decide (n < (j.relevantAbove v c).length)) j.cur

/-- The second question of R161. -/
def Journal.second (j : Journal) (v : Nat) (c : PanelConfig) : Bool :=
  j.entries.any (fun e => decide (v < e.rev) && relevant c e.target)

/-! ### Classification of panels -/

/-- Entry to SYNCING (R173): from CURRENT, BEHIND or OFFLINE the refresh and the batch in hand go. -/
def Panel.toSyncing (p : Panel) : Panel :=
  match p.state with
  | .current | .behind | .offline => { p with state := .syncing, refresh := none, batch := none }
  | _ => { p with state := .syncing }

/-- A refresh marked to restart, when the panel holds one (R179). -/
def Panel.markRestart (p : Panel) : Panel :=
  { p with refresh := p.refresh.map (fun r => { r with restart := true }) }

/-- The three tests of R173. -/
def Panel.classify (j : Journal) (p : Panel) : Panel :=
  if p.shown < j.floor then p.toSyncing
  else if j.second p.shown p.config then { p with state := .behind }
  else { p with state := .current }

/-- A panel is CURRENT or BEHIND. -/
def Panel.isServed (p : Panel) : Bool :=
  match p.state with
  | .current | .behind => true
  | _ => false

/-- A refresh whose snapshot lies below the floor is marked to restart (R185). -/
def Panel.restartBelow (floor : Nat) (p : Panel) : Panel :=
  match p.refresh with
  | some r => if r.snapshot < floor then p.markRestart else p
  | none => p

/-- What a hand-off does to one panel (R185). -/
def Panel.handOff (j : Journal) (p : Panel) : Panel :=
  Panel.restartBelow j.floor
    (if p.isServed && p.batch.isNone then p.classify j else p)

/-- What the wrap does to one panel (R186). -/
def Panel.atWrap (p : Panel) : Panel :=
  { p with
    shown := 0
    batch := none
    refresh := none
    state := match p.state with
      | .absent => .absent
      | .offline => .offline
      | _ => .syncing }

/-- The hand-off of R155 to the Panel Link Controller (R185). -/
def handOff (s : State) : State :=
  s.withLink { s.link with panels := s.link.panels.map (Panel.handOff s.journal) }

/-- The transaction in flight loses its batch reference (R186). -/
def LinkCond.dropBatch : LinkCond → LinkCond
  | .transaction t => .transaction { t with hasBatch := false }
  | c => c

/-- The wrap as the Panel Link Controller takes it (R186). -/
def panelsAtWrap (s : State) : State :=
  s.withLink { s.link with panels := s.link.panels.map Panel.atWrap, cond := s.link.cond.dropBatch }

/-! ### Filing -/

/-- Step 1 of R155: an entry for the same target leaves. -/
def Journal.coalesce (j : Journal) (t : Target) : Journal :=
  { j with entries := j.entries.filter (fun e => e.target != t) }

/-- Step 2 of R155: with 64 entries left, the oldest is dropped and the floor becomes its revision. -/
def Journal.dropOldest (j : Journal) : Journal :=
  match j.entries with
  | e :: rest => if Config.journalSize ≤ j.entries.length then { j with floor := e.rev, entries := rest } else j
  | [] => j

/-- Step 2 drops an entry. -/
def Journal.drops (j : Journal) : Bool := decide (Config.journalSize ≤ j.entries.length)

/-- Step 3 of R155, below the greatest revision. -/
def Journal.append (j : Journal) (t : Target) (f : Form) : Journal :=
  { j with cur := j.cur + 1, entries := j.entries ++ [⟨j.cur + 1, t, f⟩] }

/-- The journal after the wrap of R159, the entry filed at revision 1. -/
def Journal.wrapped (t : Target) (f : Form) : Journal := ⟨1, 0, [⟨1, t, f⟩]⟩

/-- The journal after a filing (R155, R159). -/
def Journal.filed (j : Journal) (t : Target) (f : Form) : Journal :=
  if Config.maxRevision ≤ j.cur then Journal.wrapped t f
  else ((j.coalesce t).dropOldest).append t f

/-- REFRESH_FORCED is raised by a filing that drops or wraps (R155, R159). -/
def Journal.forces (j : Journal) (t : Target) : Bool :=
  (j.coalesce t).drops || decide (Config.maxRevision ≤ j.cur)

/-- A filing (R155): the journal takes it, REFRESH_FORCED is raised when it drops or wraps, and the panels are told. -/
def file (t : Target) (f : Form) (s : State) : State :=
  let forced := s.journal.forces t
  let wraps := decide (Config.maxRevision ≤ s.journal.cur)
  let s1 := s.withJournal (s.journal.filed t f)
  let s2 := if forced then raise .programme .refreshForced s1 else s1
  if wraps then panelsAtWrap s2 else handOff s2

/-- The journal after a Day Clear (R163). -/
def Journal.dayCleared (j : Journal) : Journal :=
  if Config.maxRevision ≤ j.cur then ⟨1, 1, []⟩ else ⟨j.cur + 1, j.cur + 1, []⟩

/-- Day Clear as the journal and the Panel Link Controller take it (R163, R185). -/
def journalDayClear (s : State) : State :=
  let wraps := decide (Config.maxRevision ≤ s.journal.cur)
  let s1 := s.withJournal s.journal.dayCleared
  handOff (if wraps then panelsAtWrap (raise .programme .refreshForced s1) else s1)

end Sys2Proof.Machine
end

