-- ==== Sys2Proof/Machine/Notices.lean ====
section
/-! DEFINITION. The Notice Queue: order, posting, withdrawing, lives and what a panel is given (file 06). -/

namespace Sys2Proof.Machine

/-- The LIVE notices with their slot and generation, by slot. -/
def liveNotices (q : NoticeQueue) : List (Nat × Nat × Notice) :=
  (q.slots.zipIdx).filterMap (fun x => x.1.notice.map (fun n => (x.2, x.1.gen, n)))

/-- The queue order (R120): priority, then class, then posting sequence. -/
def noticeBefore (a b : Notice) : Bool :=
  decide (a.prio.code < b.prio.code) ||
    (a.prio == b.prio &&
      (decide (a.cls.code < b.cls.code) || (a.cls == b.cls && decide (a.seq < b.seq))))

def queueOrder (q : NoticeQueue) : List (Nat × Nat × Notice) :=
  sortBy (fun a b => noticeBefore a.2.2 b.2.2) (liveNotices q)

/-- Filing NOTICES (R131). -/
def fileNotices (s : State) : State := file .notices .update s

/-- The place of a posting sequence among the live ones, from 1 (R119). -/
def NoticeQueue.rank (q : NoticeQueue) (seq : Nat) : Nat :=
  (liveNotices q).countP (fun x => decide (x.2.2.seq ≤ seq))

/-- Renumbering at the end of the posting counter (R119). -/
def NoticeQueue.renumber (q : NoticeQueue) : NoticeQueue :=
  { q with
    slots := q.slots.map (fun x => { x with notice := x.notice.map (fun n => { n with seq := q.rank n.seq }) })
    counter := (liveNotices q).length }

/-- The counter rises by one for a new notice, after renumbering when it stands at 65535 (R119). -/
def NoticeQueue.advance (q : NoticeQueue) : NoticeQueue :=
  let q1 := if 65535 ≤ q.counter then q.renumber else q
  { q1 with counter := q1.counter + 1 }

/-- The origin's live-notice count after a change (R122). -/
def NoticeQueue.countOrigin (q : NoticeQueue) (o : Origin) (f : Nat → Nat) : NoticeQueue :=
  match o with
  | .sales p _ => q.withPortLive p (f (q.portLive p))
  | _ => q

/-- A notice takes a slot: the generation advances, the posting sequence is the counter's next value, the origin's
count rises (R119, R122). -/
def NoticeQueue.post (q : NoticeQueue) (slot : Nat) (n : Notice) : NoticeQueue :=
  let q1 := q.advance
  let gen := (((q1.slots)[slot]?.getD ⟨0, none⟩).gen + 1) % 256
  ({ q1 with slots := q1.slots.set slot ⟨gen, some { n with seq := q1.counter }⟩ }).countOrigin n.origin (· + 1)

/-- A notice leaves its slot; the origin's count falls (R118, R122). -/
def NoticeQueue.drop (q : NoticeQueue) (slot : Nat) : NoticeQueue :=
  match (q.slots)[slot]? with
  | some ⟨gen, some n⟩ =>
    ({ q with slots := q.slots.set slot ⟨gen, none⟩ }).countOrigin n.origin (· - 1)
  | _ => q

/-- The lowest FREE slot of 0..30 (R119). -/
def NoticeQueue.freeSlot (q : NoticeQueue) : Option Nat :=
  (List.range Config.evacuateSlot).find? (fun i => ((q.slots)[i]?.getD ⟨0, none⟩).notice.isNone)

/-- The slots of LIVE notices that satisfy `f`, ascending. -/
def NoticeQueue.slotsWhere (q : NoticeQueue) (f : Notice → Bool) : List Nat :=
  ((liveNotices q).filter (fun x => f x.2.2)).map (·.1)

/-- Several notices leave. -/
def NoticeQueue.dropAll (q : NoticeQueue) (slots : List Nat) : NoticeQueue := slots.foldl NoticeQueue.drop q

/-- A notice is the DELAY notice of a show. -/
def isDelayOf (key : Nat) (n : Notice) : Bool := n.cls == .delay && n.linked == some key
/-- A notice is linked to one of these shows (R18, R24). -/
def isLinkedTo (keys : List Nat) (n : Notice) : Bool :=
  match n.linked with
  | some k => keys.contains k
  | none => false

/-- An automatic withdrawal of the notices that satisfy `f`, filed once when there is one (R128, R129, R131, log 10). -/
def withdrawWhere (f : Notice → Bool) (s : State) : State :=
  let slots := s.notice.slotsWhere f
  if slots.isEmpty then s else fileNotices (s.withNotice (s.notice.dropAll slots))

/-- The withdrawal of a show's DELAY notice (R128). -/
def withdrawDelay (key : Nat) (s : State) : State := withdrawWhere (isDelayOf key) s

/-- A CANCEL notice whose show's window has closed (R129). -/
def windowClosed (s : State) (n : Notice) : Bool :=
  n.cls == .cancel && s.shows.clock.valid &&
    match n.linked.bind s.findShow with
    | some sh => sh.day == 0 && decide (sh.start + sh.run ≤ s.shows.clock.minute)
    | none => false

/-- The Notice Queue's part of a clock set (R129, R204). -/
def noticesAtClockSet (s : State) : State := withdrawWhere (windowClosed s) s

/-- A ONCE notice due to expire at this boundary (R125). -/
def lifeDue (n : Notice) : Bool :=
  match n.life with
  | .once left => decide (left ≤ 1)
  | _ => false

/-- A REPEAT notice that reaches its interval at this boundary (R126). -/
def intervalDue (n : Notice) : Bool :=
  match n.life with
  | .repeats _ left => decide (left ≤ 1)
  | _ => false

/-- A live notice's counts at a boundary that neither ends it nor reaches its interval (R125, R126). -/
def Notice.lowered (n : Notice) : Notice :=
  match n.life with
  | .once left => { n with life := .once (left - 1) }
  | .repeats i left => { n with life := .repeats i (if left ≤ 1 then i else left - 1) }
  | .standing => n

/-- The reload of a notice that reaches its interval (R126). -/
def Notice.reloaded (n : Notice) : Notice :=
  match n.life with
  | .repeats i left => if left ≤ 1 then { n with life := .repeats i i } else n
  | _ => n

def NoticeQueue.mapNotices (q : NoticeQueue) (f : Notice → Notice) : NoticeQueue :=
  { q with slots := q.slots.map (fun x => { x with notice := x.notice.map f }) }

/-- NOTICE_ENDED on the sales port of each notice that leaves (R125). -/
def raiseEnded (gone : List Notice) (s : State) : State :=
  gone.foldl (fun s n => match n.origin with | .sales p _ => raise p .noticeEnded s | _ => s) s

def noticesWhere (q : NoticeQueue) (f : Notice → Bool) : List Notice :=
  ((liveNotices q).map (·.2.2)).filter f

/-- The ONCE notices whose life reaches 0 leave, in one event (R125). -/
def expireNotices (s : State) : State :=
  let slots := s.notice.slotsWhere lifeDue
  if slots.isEmpty then s
  else fileNotices (raiseEnded (noticesWhere s.notice lifeDue) (s.withNotice (s.notice.dropAll slots)))

/-- A HIGH REPEAT notice reaches its interval (R126). -/
def reminderDue (n : Notice) : Bool := intervalDue n && n.prio == .high

/-- The REPEAT notices reach their interval: reload, and one REMINDER when a HIGH one did (R126). -/
def reachIntervals (s : State) : State :=
  let high := !(noticesWhere s.notice reminderDue).isEmpty
  let s1 := s.withNotice (s.notice.mapNotices Notice.reloaded)
  if high then chimeTrigger .reminder s1 else s1

/-- The Notice Queue's part of a minute boundary, one event: lives and intervals fall, the expired leave, closed
CANCEL notices are withdrawn, NOTICES is filed once when the queue lost one (R125, R126, R129, log 10). -/
def noticeBoundary (s : State) : State :=
  let gone := fun n => lifeDue n || windowClosed s n
  let slots := s.notice.slotsWhere gone
  let high := !(noticesWhere s.notice reminderDue).isEmpty
  let s1 := s.withNotice ((s.notice.dropAll slots).mapNotices Notice.lowered)
  let s2 := raiseEnded (noticesWhere s.notice lifeDue) s1
  let s3 := if slots.isEmpty then s2 else fileNotices s2
  if high then chimeTrigger .reminder s3 else s3

/-! ### What a panel is given -/

/-- A notice applies to a panel (R131). Bit g of a GROUPS mask, counted from the least significant, names group g, which is
the model's choice (log 38). -/
def applies (c : PanelConfig) (n : Notice) : Bool :=
  match n.scope with
  | .all => true
  | .groups mask => mask.getLsbD c.group
  | .door a => c.view == .door && c.aud == a

/-- The first three notices that apply to a panel (R131). -/
def noticesFor (q : NoticeQueue) (c : PanelConfig) : List NoticeRec :=
  (((queueOrder q).filter (fun x => applies c x.2.2)).take 3).map
    (fun x => ⟨x.1, x.2.1, x.2.2.cls, x.2.2.prio, x.2.2.linked, x.2.2.text⟩)

/-- The EVACUATE notice (R130). -/
def evacuateNotice : Notice := ⟨.house, .evacuate, .high, .all, [], .standing, none, 0⟩

/-- Posting the EVACUATE notice in slot 31, without its filing (R130, R148). -/
def postEvacuate (s : State) : State := s.withNotice (s.notice.post Config.evacuateSlot evacuateNotice)

/-- Withdrawing the EVACUATE notice, without its filing (R130). -/
def dropEvacuate (s : State) : State := s.withNotice (s.notice.drop Config.evacuateSlot)

/-- The Notice Queue at Day Clear (R118). -/
def NoticeQueue.dayCleared (q : NoticeQueue) : NoticeQueue :=
  { q with
    slots := (q.slots.take Config.evacuateSlot).map (fun x => ⟨x.gen, none⟩) ++ q.slots.drop Config.evacuateSlot
    liveA := 0
    liveB := 0 }

end Sys2Proof.Machine
end

