-- ==== Sys2Proof/Machine/Board.lean ====
section
/-! DEFINITION. The Board Builder: membership, lines, status words, hints and publication by difference (file 04, and
R43 of file 02). -/

namespace Sys2Proof.Machine

/-- A CANCELLED show's cancellation window (R76). -/
def windowOpen (c : Clock) (sh : Show) : Bool := !c.valid || decide (c.minute < sh.start + sh.run)

/-- Board membership (R76). -/
def isMember (c : Clock) (sh : Show) : Bool :=
  sh.day == 0 && !sh.hidden &&
    match sh.state with
    | .onSale | .seating | .running => true
    | .cancelled => windowOpen c sh
    | _ => false

/-- The status word (R79). -/
def statusWord (sh : Show) : StatusWord :=
  if sh.state = .cancelled then .cancelled
  else if sh.state = .running then .started
  else if sh.band = .soldOut then .soldOut
  else if sh.state = .seating then .seatingNow
  else if 0 < sh.delay then .delayed
  else if sh.band = .fewLeft then .fewLeft
  else if sh.band = .filling then .filling
  else .onSale

/-- T qualifies as a sibling to offer (R43). -/
def offers (t : Show) : Bool :=
  (t.state == .onSale || t.state == .seating) && (t.band == .open_ || t.band == .filling)

/-- A show's sibling hint (R43). -/
def hintOf (s : State) (sh : Show) : Option Hint :=
  if sh.band = .soldOut ∨ sh.band = .fewLeft then
    match sh.sibling.bind s.findShow with
    | some t => if offers t then some ⟨t.effStart, t.aud⟩ else none
    | none => none
  else none

/-- A show's board line (R78). R78 also says that refunds leave a CANCELLED line as it was; a refund that moves the band
can end or begin the hint, by R43, R44 and the hint's own sentence in R78, and the model then changes the line and files
it, which is the model's choice (log 36). -/
def boardLineOf (s : State) (sh : Show) : BoardLine where
  key := sh.key
  aud := sh.aud
  title := sh.title
  start := sh.effStart
  delay := if sh.delay = 0 then none else some sh.delay
  word := statusWord sh
  figure := if sh.state = .cancelled then none else some sh.figure
  hint := hintOf s sh

/-- The line of a key as computed now; absent when the show is no member or not loaded (R84). -/
def computeLine (s : State) (key : Nat) : Option BoardLine :=
  match s.findShow key with
  | some sh => if isMember s.shows.clock sh then some (boardLineOf s sh) else none
  | none => none

/-- The board image of a key (R82). -/
def State.lineImage (s : State) (key : Nat) : Option BoardLine := s.board.lines.find? (fun l => l.key == key)

/-- The board images without a key's. -/
def linesWithout (key : Nat) (l : List BoardLine) : List BoardLine := l.filter (fun x => x.key != key)

/-- The board images with a line, in ascending key order. -/
def linesWith (x : BoardLine) (l : List BoardLine) : List BoardLine :=
  insertBy (fun a b => decide (a.key < b.key)) x (linesWithout x.key l)

def State.withLines (s : State) (l : List BoardLine) : State := s.withBoard { s.board with lines := l }

/-- Recomputing a board line (R84). -/
def publishLine (key : Nat) (s : State) : State :=
  match s.lineImage key, computeLine s key with
  | none, none => s
  | none, some l => file (.boardLine key) .update (s.withLines (linesWith l s.board.lines))
  | some old, some l =>
    if old = l then s else file (.boardLine key) .update (s.withLines (linesWith l s.board.lines))
  | some _, none => file (.boardLine key) .remove (s.withLines (linesWithout key s.board.lines))

/-- A door line as computed now (R80). -/
def computeDoor (s : State) (aud : Nat) : Option DoorLine :=
  match (s.doorShow aud).bind s.findShow with
  | some sh => some ⟨sh.key, sh.title, sh.effStart, statusWord sh, sh.figure⟩
  | none => none

/-- The door image of an auditorium (R82). -/
def State.doorImage (s : State) (aud : Nat) : Option DoorLine := ((s.board.doors)[aud - 1]?).join

/-- Recomputing a door line (R84). -/
def publishDoor (aud : Nat) (s : State) : State :=
  if s.doorImage aud = computeDoor s aud then s
  else file (.door aud) .update
    (s.withBoard { s.board with doors := s.board.doors.set (aud - 1) (computeDoor s aud) })

/-- The keys of the loaded shows naming `key` as sibling, ascending. -/
def siblingsOf (s : State) (key : Nat) : List Nat :=
  (s.shows.shows.filter (fun sh => sh.sibling == some key)).map (·.key)

/-- Recomputing the board lines of several keys, in the order given. -/
def publishLines (keys : List Nat) (s : State) : State := keys.foldl (fun s k => publishLine k s) s

/-- Recomputing several door lines, in the order given. -/
def publishDoors (auds : List Nat) (s : State) : State := auds.foldl (fun s a => publishDoor a s) s

/-- The lines one show's event recomputes, in the order of R86. -/
def publishShow (key : Nat) (auds : List Nat) (s : State) : State :=
  publishLines (siblingsOf s key) (publishDoors auds (publishLine key s))

/-- The auditoria 1..16. -/
def allAuds : List Nat := (List.range 16).map (· + 1)

/-- Every line after a roll (R86, R89): removed shows' lines, then the remaining shows', both in ascending key order,
then the doors. -/
def publishAll (s : State) : State :=
  let gone := (s.board.lines.map (·.key)).filter (fun k => (s.findShow k).isNone)
  publishDoors allAuds (publishLines s.showKeys (publishLines gone s))

/-- The keys of the CANCELLED shows of today (R87); ascending, which is the model's choice (log 7). -/
def cancelledToday (s : State) : List Nat :=
  (s.shows.shows.filter (fun sh => sh.day == 0 && sh.state == .cancelled)).map (·.key)

/-- The Board Builder's part of a minute boundary or a clock set (R87). -/
def testWindows (s : State) : State := publishLines (cancelledToday s) s

/-- The title image as published: an UNDEFINED title is empty text with rating 0 (R82). -/
def titleForm : Option Title → Title
  | some t => t
  | none => ⟨[], 0⟩

/-- The Board Builder's part of Define Title (R83). -/
def publishTitle (index : Nat) (s : State) : State :=
  let t := titleForm ((s.shows.titles)[index]?).join
  if (s.board.titles)[index]? = some t then s
  else file (.title index) .update (s.withBoard { s.board with titles := s.board.titles.set index t })

/-- The board images in board order (R77). -/
def boardOrder (s : State) : List BoardLine :=
  sortBy (fun a b => boardBefore (a.start, a.aud, a.key) (b.start, b.aud, b.key)) s.board.lines

end Sys2Proof.Machine
end

