-- ==== Sys2Proof/Machine/Seats.lean ====
section
/-! DEFINITION. The Seat Unit: the availability computation (file 02) and the shared operations on holds (file 03). -/

namespace Sys2Proof.Machine

/-! ### The availability computation -/

/-- The occupancy stage (R36). -/
def occupancy (sh : Show) : Nat := if sh.capacity = 0 then 256 else 256 * sh.committed / sh.capacity

/-- The latch stage (R37), with fill point P = 16 × fill_sixteenths. -/
def latchStage (p : Policy) (latch : Bool) (o : Nat) : Bool :=
  if latch then decide (16 * p.fillSixteenths ≤ o + p.hysteresis) else decide (16 * p.fillSixteenths ≤ o)

/-- The band stage (R39). -/
def bandStage (p : Policy) (latch : Bool) (avail : Nat) : Band :=
  if avail = 0 then .soldOut
  else if avail ≤ p.fewLeft then .fewLeft
  else if latch then .filling
  else .open_

/-- The figure stage (R40). -/
def figureStage (p : Policy) (avail : Nat) : Figure :=
  if avail ≤ p.fewLeft then ⟨avail, false⟩ else ⟨Nat.min 990 (avail / 10 * 10), true⟩

/-- The four stages on one show (R35). -/
def Show.compute (p : Policy) (sh : Show) : Show :=
  let latch := latchStage p sh.latch (occupancy sh)
  { sh with latch := latch, band := bandStage p latch sh.available, figure := figureStage p sh.available }

/-- The computation of one show, not yet handed on (R35). -/
def computeShow (key : Nat) (s : State) : State := s.modifyShow key (Show.compute s.policy)

/-- The doors an availability computation hands on: the show's auditorium when it is that auditorium's door show (R41). -/
def doorOf (s : State) (key : Nat) : List Nat :=
  match s.findShow key with
  | some sh => if s.doorShow sh.aud = some key then [sh.aud] else []
  | none => []

/-- Handing a show on to the Board Builder (R41). -/
def handOn (key : Nat) (s : State) : State := publishShow key (doorOf s key) s

/-- The availability computation of a show, handed on (R35, R41). -/
def availability (key : Nat) (s : State) : State := handOn key (computeShow key s)

/-- The computation of every loaded show (R42), each a whole event of its own for the Board Builder (R85), in ascending
key order (log 9). -/
def computeAll (s : State) : State := s.showKeys.foldl (fun s k => availability k s) s

/-! ### Counts -/

def addSold (z : Zone) (n : Nat) (sh : Show) : Show :=
  sh.withZone z { sh.zone z with sold := (sh.zone z).sold + n }
def subSold (z : Zone) (n : Nat) (sh : Show) : Show :=
  sh.withZone z { sh.zone z with sold := (sh.zone z).sold - n }
def addHeld (z : Zone) (n : Nat) (sh : Show) : Show :=
  sh.withZone z { sh.zone z with held := (sh.zone z).held + n }
def subHeld (z : Zone) (n : Nat) (sh : Show) : Show :=
  sh.withZone z { sh.zone z with held := (sh.zone z).held - n }
def addWithheld (z : Zone) (n : Nat) (sh : Show) : Show :=
  sh.withZone z { sh.zone z with withheld := (sh.zone z).withheld + n }
def subWithheld (z : Zone) (n : Nat) (sh : Show) : Show :=
  sh.withZone z { sh.zone z with withheld := (sh.zone z).withheld - n }
def setCap (z : Zone) (n : Nat) (sh : Show) : Show := sh.withZone z { sh.zone z with cap := n }

/-- The show sells (R10). -/
def ShowState.sells : ShowState → Bool
  | .onSale | .seating | .running => true
  | _ => false

/-! ### Holds -/

/-- The slot at the head of the free list becomes ACTIVE with its generation advanced (R47, R57); the port's count and
the high-water mark follow (R50, R52). -/
def SeatUnit.grant (u : SeatUnit) (slot : Nat) (info : HoldInfo) (life : Nat) : SeatUnit :=
  let gen := (((u.slots)[slot]?.getD ⟨0, .never⟩).gen + 1) % 256
  let slots := u.slots.set slot ⟨gen, .active info life⟩
  let u1 := { u with slots := slots, free := u.free.tail,
                     highWater := Nat.max u.highWater (slots.countP HoldSlot.isActive) }
  u1.withPortCount info.port (u.portCount info.port + 1)

/-- An ACTIVE slot becomes FREE with an end reason and joins the tail of the free list; the owner's count falls
(R48, R50). -/
def SeatUnit.release (u : SeatUnit) (slot : Nat) (reason : EndReason) : SeatUnit :=
  match (u.slots)[slot]? with
  | some ⟨gen, .active info _⟩ =>
    ({ u with slots := u.slots.set slot ⟨gen, .ended info reason⟩, free := u.free ++ [slot] }).withPortCount
      info.port (u.portCount info.port - 1)
  | _ => u

/-- A hold ends: its slot is freed and its seats leave the held count (R27). -/
def endHold (slot : Nat) (reason : EndReason) (s : State) : State :=
  match (s.holdSlot slot).use with
  | .active info _ =>
    (s.withSeat (s.seat.release slot reason)).modifyShow info.key (subHeld info.zone info.seats)
  | _ => s

/-- Expiry of one hold (R67). -/
def expireHold (slot : Nat) (s : State) : State :=
  match (s.holdSlot slot).use with
  | .active info _ => availability info.key (raise info.port .holdLapsed (endHold slot .expired s))
  | _ => s

/-- A slot holds an ACTIVE hold on a show. -/
def HoldSlot.isOn (keys : List Nat) (x : HoldSlot) : Bool :=
  match x.use with
  | .active info _ => keys.contains info.key
  | _ => false

/-- The slots of ACTIVE holds on the shows named, ascending (R48). -/
def activeSlotsOn (keys : List Nat) (s : State) : List Nat :=
  (List.range Config.holdSlots).filter (fun i => (s.holdSlot i).isOn keys)

/-- One void: the hold ends with reason VOIDED and HOLD_VOIDED is raised on its port (R68). -/
def voidHold (slot : Nat) (s : State) : State :=
  match (s.holdSlot slot).use with
  | .active info _ => raise info.port .holdVoided (endHold slot .voided s)
  | _ => s

/-- The voids of the holds on the shows named, as one event in ascending slot order (R68, R69). -/
def voidHolds (keys : List Nat) (s : State) : State :=
  (activeSlotsOn keys s).foldl (fun s i => voidHold i s) s

/-- The voids of one show's holds with the one computation that follows, not yet handed on (R68, log 35). -/
def voidShow (key : Nat) (s : State) : State :=
  if (activeSlotsOn [key] s).isEmpty then s else computeShow key (voidHolds [key] s)

/-- The Seat Unit's part of a second tick for one slot (R66, R67). -/
def tickSlot (slot : Nat) (s : State) : State :=
  match (s.holdSlot slot).use with
  | .active info life =>
    if life ≤ 1 then expireHold slot s
    else s.withHoldSlot slot ⟨(s.holdSlot slot).gen, .active info (life - 1)⟩
  | _ => s

/-- The Seat Unit's part of a second tick: lives are paused while the alert state is not NORMAL (R66). -/
def seatTick (s : State) : State :=
  if s.house.alert = .normal then (List.range Config.holdSlots).foldl (fun s i => tickSlot i s) s else s

end Sys2Proof.Machine
end

