-- ==== Sys2Proof/Machine/Shows.lean ====
section
/-! DEFINITION. The Show Table: state changes and their effects, due transitions, the auditorium table, arrivals,
removal and the roll of the day (file 01). -/

namespace Sys2Proof.Machine

/-! ### The auditorium table -/

/-- The show with the earliest effective start, the lower key between equal ones (R20). -/
def earliest (l : List Show) : Option Show :=
  (sortBy (fun a b : Show =>
    decide (a.effStart < b.effStart) || (a.effStart == b.effStart && decide (a.key < b.key))) l).head?

/-- Today's shows of an auditorium (R20). -/
def todayIn (s : State) (aud : Nat) : List Show :=
  s.shows.shows.filter (fun sh => sh.day == 0 && sh.aud == aud)

/-- The door show of an auditorium as chosen now (R20). -/
def chooseDoor (s : State) (aud : Nat) : Option Nat :=
  match earliest ((todayIn s aud).filter (fun sh => sh.state == .seating || sh.state == .running)) with
  | some sh => some sh.key
  | none => (earliest ((todayIn s aud).filter (fun sh => sh.state == .onSale))).map (·.key)

/-- Recomputing one entry of the auditorium table (R20). -/
def recomputeDoor (s : State) (aud : Nat) : State :=
  s.withShows { s.shows with doors := s.shows.doors.set (aud - 1) (chooseDoor s aud) }

def recomputeDoors (auds : List Nat) (s : State) : State := auds.foldl recomputeDoor s

/-! ### State changes -/

/-- The Seat Unit's part of an entry (R13): CLOSED and CANCELLED void the show's holds. -/
def seatAtEntry (key : Nat) (st : ShowState) (s : State) : State :=
  match st with
  | .closed | .cancelled => voidShow key s
  | _ => s

/-- The Notice Queue's part of an entry (R13): RUNNING and CANCELLED withdraw the show's DELAY notice. -/
def noticeAtEntry (key : Nat) (st : ShowState) (s : State) : State :=
  match st with
  | .running | .cancelled => withdrawDelay key s
  | _ => s

/-- A show enters a state, with the effects of R13 in its table's order (log 6). `publish` is off inside a roll of the
day, where the Board Builder recomputes every line afterwards (R89, log 8). -/
def enterState (publish : Bool) (key : Nat) (st : ShowState) (by_ : Option (StartedBy × Nat)) (s : State) : State :=
  match s.findShow key with
  | none => s
  | some sh =>
    let s1 := s.modifyShow key (fun x => { x with state := st, started := by_.orElse (fun _ => x.started) })
    let s2 := seatAtEntry key st (recomputeDoor s1 sh.aud)
    let s3 := noticeAtEntry key st s2
    let s4 := if publish then publishShow key [sh.aud] s3 else s3
    raiseAll .showChange s4

/-- The transition a show is due for, with the fields it gives (R11). -/
def dueTransition (p : Policy) (c : Clock) (sh : Show) : Option (ShowState × Option (StartedBy × Nat)) :=
  if !c.valid || sh.day != 0 then none
  else match sh.state with
    | .onSale => if sh.effStart ≤ c.minute + p.doorsLead then some (.seating, none) else none
    | .seating =>
      if sh.effStart + p.startGrace ≤ c.minute then some (.running, some (.clock, c.minute)) else none
    | .running => if sh.effStart + p.lateSale ≤ c.minute then some (.closed, none) else none
    | .closed => if sh.effStart + sh.run ≤ c.minute then some (.ended, none) else none
    | _ => none

/-- A show's record after the transition it is due for (R11). -/
def Show.advanced (p : Policy) (c : Clock) (sh : Show) : Show :=
  match dueTransition p c sh with
  | some (st, by_) => { sh with state := st, started := by_.orElse (fun _ => sh.started) }
  | none => sh

/-- A show's state, started-by and running-since after a due-transition evaluation (R11). -/
def Show.evaluated (p : Policy) (c : Clock) (sh : Show) : Show :=
  (((sh.advanced p c).advanced p c).advanced p c).advanced p c

/-- One transition, when it is due. -/
def evalOnce (publish : Bool) (key : Nat) (s : State) : State :=
  match s.findShow key with
  | some sh =>
    match dueTransition s.policy s.shows.clock sh with
    | some (st, by_) => enterState publish key st by_ s
    | none => s
  | none => s

/-- A due-transition evaluation: the four rows of R11 in order, until one does not hold. -/
def evaluate (publish : Bool) (key : Nat) (s : State) : State :=
  evalOnce publish key (evalOnce publish key (evalOnce publish key (evalOnce publish key s)))

/-- Evaluations of several shows, in the order given. -/
def evaluateKeys (publish : Bool) (keys : List Nat) (s : State) : State :=
  keys.foldl (fun s k => evaluate publish k s) s

/-- The evaluation of every loaded show, in ascending key order (R12, log 7). -/
def evaluateAll (s : State) : State := evaluateKeys true s.showKeys s

/-- A change of a show's effective start as it is handed on (R5): auditorium table, lines, evaluation. -/
def startChanged (key aud : Nat) (s : State) : State :=
  evaluate true key (publishShow key [aud] (recomputeDoor s aud))

/-! ### Arrivals -/

/-- The repeat test of R21. -/
def isRepeat (s : State) (aud : Nat) : Bool :=
  (todayIn s aud).any (fun sh =>
    match sh.started with
    | some (_, since) => decide (since ≤ s.shows.clock.minute) && decide (s.shows.clock.minute < since + 2)
    | none => false)

/-- A start-contact arrival at the Show Table (R21). -/
def arrival (aud : Nat) (s : State) : State :=
  if isRepeat s aud then s
  else match earliest ((todayIn s aud).filter (fun sh => sh.state == .seating)) with
    | some sh =>
      evaluate true sh.key (enterState true sh.key .running (some (.contact, s.shows.clock.minute)) s)
    | none => raise .programme .strayStart s

/-! ### Removal and the roll of the day -/

/-- A show's record becomes FREE (R1). -/
def dropShow (key : Nat) (s : State) : State :=
  s.withShowList (s.shows.shows.filter (fun sh => sh.key != key))

/-- The day's shift of a remaining show (R24). -/
def Show.nextDay (sh : Show) : Show := { sh with day := sh.day - 1 }

/-- Rolling the day (R24), the clock left at minute 0 second 0; `SHOW_CHANGE` by a transition is raised by enterState. -/
def rollDay (s : State) : State :=
  let gone := (s.shows.shows.filter (fun sh => sh.day == 0)).map (·.key)
  let s1 := voidHolds gone s
  let s2 := withdrawWhere (isLinkedTo gone) s1
  let s3 := s2.withShowList ((s2.shows.shows.filter (fun sh => sh.day != 0)).map Show.nextDay)
  let s4 := s3.withClock { s3.shows.clock with minute := 0, second := 0 }
  let s5 := evaluateKeys false s4.showKeys s4
  let s6 := publishAll (recomputeDoors allAuds s5)
  if gone.isEmpty then s6 else raiseAll .showChange s6

/-! ### The show clock -/

/-- The Show Table's, Board Builder's, Notice Queue's and Panel Link Controller's parts of a minute boundary
(R8, R87, R125, R176). -/
def boundaryAt (r : MinReceiver) (s : State) : State :=
  match r with
  | .shows => evaluateAll s
  | .board => testWindows s
  | .notice => noticeBoundary s
  | .link => s.setBeacon

/-- The clock passes second 59 (R7, R8): the minute advances, or the day rolls at minute 1439; then each receiver
takes the boundary, in the order given (log 5). -/
def minuteBoundary (order : List MinReceiver) (s : State) : State :=
  let s1 :=
    if 1439 ≤ s.shows.clock.minute then rollDay s
    else s.withClock { s.shows.clock with minute := s.shows.clock.minute + 1, second := 0 }
  (completeOrder order [.shows, .board, .notice, .link]).foldl (fun s r => boundaryAt r s) s1

/-- The show clock's part of a 1 s tick (R7). -/
def clockTick (order : List MinReceiver) (s : State) : State :=
  if s.shows.clock.valid then
    if 59 ≤ s.shows.clock.second then minuteBoundary order s
    else s.withClock { s.shows.clock with second := s.shows.clock.second + 1 }
  else s

/-- A written clock as it is handed on (R204, in its order; log 6). -/
def clockSet (s : State) : State := (noticesAtClockSet (testWindows (evaluateAll s))).setBeacon

/-- The wall time of a business minute, as a minute of the day (R7). -/
def wallMinute (s : State) : Nat := (s.policy.dayStart + s.shows.clock.minute) % 1440

end Sys2Proof.Machine
end

