-- ==== Sys2Proof/Machine/ExecShows.lean ====
section
/-! DEFINITION. The Show Table's requests (R2, R3, R6, R14 to R19, R23 to R25). -/

namespace Sys2Proof.Machine

/-! ### Answer fields -/

/-- A shown figure with its plus mark. -/
def wFigure (f : Figure) : List Byte := w2 f.n ++ wFlag f.plus

/-- Capacity, sold, withheld, held and available counts of a zone (R19). -/
def wZone (c : ZoneCounts) : List Byte := w2 c.cap ++ w2 c.sold ++ w2 c.withheld ++ w2 c.held ++ w2 c.available

/-- Every field of R4 in the order of R19. -/
def wShow (sh : Show) : List Byte :=
  w2 sh.key ++ w1 sh.day ++ w1 sh.aud ++ w1 sh.title ++ w2 sh.start ++ w2 sh.run ++ w1 sh.delay ++
    w2 sh.effStart ++ w1 sh.state.code ++ wOpt w2 sh.sibling ++ wFlag sh.hidden ++
    wOpt (fun x => w1 x.1.code) sh.started ++ wOpt (fun x => w2 x.2) sh.started ++
    wZone sh.std ++ wZone sh.prm ++ wZone sh.acc ++ wFlag sh.latch ++ w1 sh.band.code ++ wFigure sh.figure

/-! ### Load Show -/

/-- The counts of a zone at Load Show (R14). -/
def initialCounts (cap : Nat) (sold withheld : Option Nat) : ZoneCounts := ⟨cap, sold.getD 0, withheld.getD 0, 0⟩

/-- Step 1 of R14 and of R15: a sibling key may not be 0 or the show's own. -/
def siblingBad (key : Nat) (sibling : Option Nat) : Bool := sibling == some 0 || sibling == some key

/-- The request's fields as a show record, before clamping and availability (R14). -/
def loadedShow (record key day aud title start run delay : Nat) (caps : Nat × Nat × Nat) (hidden : Bool)
    (sibling : Option Nat) (sold withheld : Option Nat × Option Nat × Option Nat) (openNow : Bool) : Show where
  key := key
  record := record
  day := day
  aud := aud
  title := title
  start := start
  run := clampTo 10 300 run
  delay := Nat.min delay (delayBound start)
  std := initialCounts caps.1 sold.1 withheld.1
  prm := initialCounts caps.2.1 sold.2.1 withheld.2.1
  acc := initialCounts caps.2.2 sold.2.2 withheld.2.2
  state := if openNow then .onSale else .loaded
  sibling := sibling
  hidden := hidden
  latch := false
  band := .open_
  figure := ⟨0, false⟩
  started := none

/-- Sold and withheld exceed the capacity in some zone (step 4 of R14). -/
def overCommitted (sh : Show) : Bool :=
  decide (sh.std.cap < sh.std.committed) || decide (sh.prm.cap < sh.prm.committed) ||
    decide (sh.acc.cap < sh.acc.committed)

/-- Steps 1 to 6 of R14. -/
def loadRefusal (s : State) (sh : Show) (openNow : Bool) : Option Result :=
  if sh.key = 0 ∨ 6 < sh.day ∨ sh.aud = 0 ∨ 16 < sh.aud ∨ 63 < sh.title ∨ 1439 < sh.start ∨
      1023 < sh.std.cap ∨ 1023 < sh.prm.cap ∨ 1023 < sh.acc.cap ∨ siblingBad sh.key sh.sibling then
    some .badArgument
  else if s.house.alert ≠ .normal ∧ 0 < sh.std.sold + sh.prm.sold + sh.acc.sold then some .houseAlert
  else if (s.findShow sh.key).isSome then some .duplicate
  else if overCommitted sh then some .belowCommitted
  else if openNow ∧ sh.day = 0 ∧ s.shows.clock.valid = false then some .clockNotSet
  else if s.freeShowRecord.isNone then some .tableFull
  else none

/-- A show comes into existence: its record, its availability, the effects of R13, its evaluation (R14; log 35). -/
def createShow (sh : Show) (s : State) : State :=
  let s1 := s.withShowList (insertBy (fun a b => decide (a.key < b.key)) sh s.shows.shows)
  let s2 := recomputeDoor (computeShow sh.key s1) sh.aud
  evaluate true sh.key (raiseAll .showChange (publishShow sh.key [sh.aud] s2))

def loadShow (key day aud title start run delay : Nat) (caps : Nat × Nat × Nat) (hidden : Bool)
    (sibling : Option Nat) (sold withheld : Option Nat × Option Nat × Option Nat) (openNow : Bool) : Owner := fun s =>
  let sh := loadedShow (s.freeShowRecord.getD 0) key day aud title start run delay caps hidden sibling sold withheld
    openNow
  match loadRefusal s sh openNow with
  | some c => deny c s
  | none => (createShow sh s, okMarked (sh.run != run || sh.delay != delay) [])

def execLoadShow (h : Hdr) (key day aud title start run delay : Nat) (caps : Nat × Nat × Nat) (hidden : Bool)
    (sibling : Option Nat) (sold withheld : Option Nat × Option Nat × Option Nat) (openNow : Bool) (s : State) :
    StepOutcome :=
  request (.loadShow h key day aud title start run delay caps hidden sibling sold withheld openNow)
    (loadShow key day aud title start run delay caps hidden sibling sold withheld openNow) s

/-! ### Amend Show -/

/-- The record as amended (R15): carried fields written, run minutes and delay clamped. -/
def amended (sh : Show) (start run aud title : Option Nat) (sibling : Option (Option Nat)) (hidden : Option Bool) :
    Show :=
  { sh with
    start := start.getD sh.start
    run := clampTo 10 300 (run.getD sh.run)
    delay := Nat.min sh.delay (delayBound (start.getD sh.start))
    aud := aud.getD sh.aud
    title := title.getD sh.title
    sibling := sibling.getD sh.sibling
    hidden := hidden.getD sh.hidden }

/-- The show's state refuses an amendment (R15). -/
def ShowState.pastAmending : ShowState → Bool
  | .running | .closed | .ended | .cancelled => true
  | _ => false

/-- The auditoria of an amendment, ascending (R15, R88). -/
def audsOf (a b : Nat) : List Nat := if a = b then [a] else if a < b then [a, b] else [b, a]

def amendShow (key : Nat) (start run aud title : Option Nat) (sibling : Option (Option Nat)) (hidden : Option Bool) :
    Owner := fun s =>
  match s.findShow key with
  | none => deny .noSuchShow s
  | some sh =>
    let x := amended sh start run aud title sibling hidden
    if sh.state.pastAmending then deny .notAmendable s
    else if x.aud = 0 ∨ 16 < x.aud ∨ 63 < x.title ∨ 1439 < x.start ∨ siblingBad key (sibling.getD none) then
      deny .badArgument s
    else
      let auds := audsOf sh.aud x.aud
      let s1 := recomputeDoors auds (s.modifyShow key (fun _ => x))
      let s2 := publishShow key auds s1
      let s3 := if x.start = sh.start ∧ x.run = sh.run then s2 else evaluate true key s2
      (s3, okMarked (run.getD sh.run != x.run || x.delay != sh.delay) [])

def execAmendShow (h : Hdr) (key : Nat) (start run aud title : Option Nat) (sibling : Option (Option Nat))
    (hidden : Option Bool) (s : State) : StepOutcome :=
  request (.amendShow h key start run aud title sibling hidden) (amendShow key start run aud title sibling hidden) s

/-! ### Opening, cancelling, removing, reading -/

def openSales (key : Nat) : Owner := fun s =>
  match s.findShow key with
  | none => deny .noSuchShow s
  | some sh =>
    if sh.day = 0 ∧ s.shows.clock.valid = false then deny .clockNotSet s
    else match sh.state with
      | .loaded => (evaluate true key (enterState true key .onSale none s), okWith [])
      | .onSale => (s, okWith [])
      | _ => deny .notAmendable s

def execOpenSales (h : Hdr) (key : Nat) (s : State) : StepOutcome := request (.openSales h key) (openSales key) s

/-- A show in this state can be cancelled (R17). -/
def ShowState.cancellable : ShowState → Bool
  | .loaded | .onSale | .seating | .running => true
  | _ => false

def cancelShow (key : Nat) : Owner := fun s =>
  match s.findShow key with
  | none => deny .noSuchShow s
  | some sh => if sh.state.cancellable then (enterState true key .cancelled none s, okWith []) else deny .notAmendable s

def execCancelShow (h : Hdr) (key : Nat) (s : State) : StepOutcome := request (.cancelShow h key) (cancelShow key) s

/-- A zone has seats sold, held or withheld (R18). -/
def Show.inUse (sh : Show) : Bool := sh.committed != 0

def removeShow (key : Nat) : Owner := fun s =>
  match s.findShow key with
  | none => deny .noSuchShow s
  | some sh =>
    if sh.inUse then deny .inUse s
    else
      let s1 := dropShow key (withdrawWhere (isLinkedTo [key]) s)
      (raiseAll .showChange (publishShow key [sh.aud] (recomputeDoor s1 sh.aud)), okWith [])

def execRemoveShow (h : Hdr) (key : Nat) (s : State) : StepOutcome := request (.removeShow h key) (removeShow key) s

def readShow (key : Nat) : Owner := fun s =>
  match s.findShow key with
  | none => deny .noSuchShow s
  | some sh => (s, okWith (wShow sh))

def execReadShow (h : Hdr) (key : Nat) (s : State) : StepOutcome := request (.readShow h key) (readShow key) s

/-! ### Titles -/

/-- R6. -/
def titleBad (index : Nat) (text : List Byte) (rating : Nat) : Bool :=
  decide (63 < index) || text.isEmpty || decide (32 < text.length) || !textOk text || decide (7 < rating)

def defineTitle (index : Nat) (text : List Byte) (rating : Nat) : Owner := fun s =>
  if titleBad index text rating then deny .badArgument s
  else
    (publishTitle index (s.withShows { s.shows with titles := s.shows.titles.set index (some ⟨text, rating⟩) }),
      okWith [])

def execDefineTitle (h : Hdr) (index : Nat) (text : List Byte) (rating : Nat) (s : State) : StepOutcome :=
  request (.defineTitle h index text rating) (defineTitle index text rating) s

/-! ### Roll Day and Day Clear -/

/-- A day rolled by request is delivered as a clock set to minute 0 second 0 (R23, R204). -/
def rollDayRequest : Owner := fun s =>
  if s.shows.clock.valid then (clockSet (rollDay s), okWith []) else deny .clockNotSet s

def execRollDay (h : Hdr) (s : State) : StepOutcome := request (.rollDay h) rollDayRequest s

/-- An ACTIVE slot becomes FREE with end reason VOIDED (R46). -/
def HoldSlot.dayCleared (x : HoldSlot) : HoldSlot :=
  match x.use with
  | .active info _ => { x with use := .ended info .voided }
  | _ => x

/-- The Seat Unit at Day Clear (R46, R48, R50, R52). -/
def SeatUnit.dayCleared (u : SeatUnit) : SeatUnit :=
  { u with slots := u.slots.map HoldSlot.dayCleared, free := List.range Config.holdSlots, countA := 0, countB := 0 }

/-- The Show Table at Day Clear (R25). -/
def ShowTable.dayCleared (t : ShowTable) : ShowTable :=
  { t with shows := [], titles := List.replicate 64 none, doors := List.replicate 16 none }

/-- The images at hard reset and after Day Clear (R82). -/
def BoardBuilder.empty : BoardBuilder := ⟨[], List.replicate 16 none, List.replicate 64 ⟨[], 0⟩⟩

/-- Day Clear over the blocks it empties (R25). -/
def clearDay (s : State) : State :=
  let s1 := (s.withShows s.shows.dayCleared).withSeat s.seat.dayCleared
  let s2 := (s1.withBoard .empty).withNotice s1.notice.dayCleared
  raiseAll .showChange (journalDayClear s2)

def dayClear : Owner := fun s => (clearDay s, okWith [])

def execDayClear (h : Hdr) (s : State) : StepOutcome := request (.dayClear h) dayClear s

/-! ### The record pool -/

/-- The store is not IDLE (R206). -/
def storeBusy (s : State) : Bool := s.store.state != .idle

/-- A record that would change area is in use (R2). -/
def splitInUse (s : State) (v : Nat) : Bool :=
  if v < s.shows.poolSplit then
    s.shows.shows.any (fun sh => decide (16 * v ≤ sh.record) && decide (sh.record < 16 * s.shows.poolSplit))
  else
    s.reel.spots.any (fun sp => decide (16 * s.shows.poolSplit ≤ sp.record) && decide (sp.record < 16 * v))

def setPoolSplit (value : Nat) : Owner := fun s =>
  let v := clampTo 1 15 value
  if storeBusy s then deny .storeBusy s
  else if splitInUse s v then deny .inUse s
  else (s.withShows { s.shows with poolSplit := v }, okMarked (v != value) [])

def execSetPoolSplit (h : Hdr) (value : Nat) (s : State) : StepOutcome :=
  request (.setPoolSplit h value) (setPoolSplit value) s

def readPool : Owner := fun s =>
  (s, okWith (w1 s.shows.poolSplit ++ w1 s.showAreaSize ++ w1 s.shows.shows.length ++ w1 s.spotAreaSize ++
    w1 s.reel.spots.length))

def execReadPool (h : Hdr) (s : State) : StepOutcome := request (.readPool h) readPool s

end Sys2Proof.Machine
end

