-- ==== Sys2Proof/Machine/ExecBoard.lean ====
section
/-! DEFINITION. The requests that read the board (R92). -/

namespace Sys2Proof.Machine

/-- Every field of R78, present or absent. -/
def wBoardLine (l : BoardLine) : List Byte :=
  w2 l.key ++ w1 l.aud ++ w1 l.title ++ w2 l.start ++ wOpt w1 l.delay ++ w1 l.word.code ++ wOpt wFigure l.figure ++
    wOpt (fun h : Hint => w2 h.start ++ w1 h.aud) l.hint

def readBoard (start : Nat) : Owner := fun s =>
  (s, okWith (w1 (boardOrder s).length ++ wList wBoardLine (((boardOrder s).drop start).take 16)))

def execReadBoard (h : Hdr) (start : Nat) (s : State) : StepOutcome := request (.readBoard h start) (readBoard start) s

/-- A door image in its form, SHOW or NO FURTHER SHOWS (R80). -/
def wDoorImage (aud : Nat) : Option DoorLine → List Byte
  | some d => w1 0 ++ w1 aud ++ w2 d.key ++ w1 d.title ++ w2 d.start ++ w1 d.word.code ++ wFigure d.figure
  | none => w1 1 ++ w1 aud

def readDoor (aud : Nat) : Owner := fun s =>
  if aud = 0 ∨ 16 < aud then deny .badArgument s else (s, okWith (wDoorImage aud (s.doorImage aud)))

def execReadDoor (h : Hdr) (aud : Nat) (s : State) : StepOutcome := request (.readDoor h aud) (readDoor aud) s

end Sys2Proof.Machine
end

