-- ==== Sys2Proof/Machine/Reels.lean ====
section
/-! DEFINITION. The Reel Unit: eligibility, cue searches, building, ticks and the alert (file 05). -/

namespace Sys2Proof.Machine

/-- A show keeps its title's spots eligible (R102). -/
def Show.advertises (sh : Show) (title : Nat) : Bool :=
  sh.title == title && (sh.state == .onSale || sh.state == .seating) && sh.band != .soldOut

/-- A spot is eligible (R102). -/
def eligible (s : State) (key : Nat) : Bool :=
  match s.findSpot key with
  | some sp =>
    match sp.title with
    | some t => s.shows.shows.any (fun sh => sh.advertises t)
    | none => true
  | none => false

/-- The slots a search tests, in order: from the cursor, or from the slot after it (R103). -/
def searchOrder (starting : Bool) (r : Reel) : List Nat :=
  (List.range r.slots.length).map (fun i => (r.cursor + (if starting then i else i + 1)) % r.slots.length)

/-- The first slot of the lap with an eligible spot (R103). -/
def searchSlot (s : State) (starting : Bool) (r : Reel) : Option (Nat × Spot) :=
  (searchOrder starting r).findSome? (fun i =>
    match (r.slots)[i]? with
    | some key => if eligible s key then (s.findSpot key).map (fun sp => (i, sp)) else none
    | none => none)

def nextPlay (n : Nat) : Nat := (n + 1) % 65536

/-- The reel after a cue search (R103): a spot cued, or the filler with the cursor left where it was. -/
def cued (s : State) (starting : Bool) (r : Reel) : Reel :=
  match searchSlot s starting r with
  | some (i, sp) =>
    { r with cursor := i, item := .spot sp.media sp.duration, countdown := sp.duration, state := .playing,
             plays := nextPlay r.plays }
  | none =>
    { r with item := .filler s.policy.fillerMedia s.policy.fillerDuration, countdown := s.policy.fillerDuration,
             state := .filler, plays := nextPlay r.plays }

/-- Filing REEL(r) (R153). -/
def fileReel (r : Nat) (s : State) : State := file (.reel r) .update s

/-- A cue search of reel r that files (R103). -/
def cueReel (starting : Bool) (r : Nat) (s : State) : State :=
  fileReel r (s.withReelAt r (cued s starting (s.reelAt r)))

/-- A reel counts its item down (R104). -/
def Reel.runs (r : Reel) : Bool :=
  match r.state with
  | .playing | .filler => true
  | _ => false

/-- The Reel Unit's part of a 1 s tick for one reel (R104). -/
def tickReel (r : Nat) (s : State) : State :=
  if (s.reelAt r).runs then
    if (s.reelAt r).countdown ≤ 1 then cueReel false r s
    else s.withReelAt r { s.reelAt r with countdown := (s.reelAt r).countdown - 1 }
  else s

/-- The Reel Unit's part of a 1 s tick, in ascending reel order (R104). -/
def reelTick (s : State) : State :=
  if s.house.alert = .normal then (List.range 4).foldl (fun s r => tickReel r s) s else s

/-! ### Building -/

/-- Each item's key repeated as many times as its weight (R99). -/
def expandItems (items : List (Nat × Nat)) : List Nat := items.flatMap (fun x => List.replicate x.2 x.1)

/-- The step used with n entries (R99). -/
def reelStep (n k : Nat) : Nat :=
  let k1 := if n ≤ k then k % n else k
  if k1 = 0 then 1 else k1

/-- The first free position from `pos` on, modulo n (R99). -/
def freeFrom (places : List (Option Nat)) (pos : Nat) : Nat :=
  let n := places.length
  (((List.range n).map (fun i => (pos + i) % n)).find? (fun q => ((places)[q]?).join.isNone)).getD pos

/-- Placing the items after the first (R99). -/
def placeRest (k : Nat) : List Nat → Nat → List (Option Nat) → List (Option Nat)
  | [], _, places => places
  | x :: rest, last, places =>
    let pos := freeFrom places ((last + k) % places.length)
    placeRest k rest pos (places.set pos (some x))

/-- The slot list of a Build Reel (R99). -/
def buildSlots (items : List (Nat × Nat)) (k : Nat) : List Nat :=
  match expandItems items with
  | [] => []
  | x :: rest =>
    let n := rest.length + 1
    (placeRest (reelStep n k) rest 0 ((List.replicate n none).set 0 (some x))).filterMap id

/-! ### The lobby alert -/

/-- One reel at the entry of an alert (R111). -/
def holdReel (r : Nat) (s : State) : State :=
  if (s.reelAt r).runs then fileReel r (s.withReelAt r { s.reelAt r with state := .held }) else s

def holdReels (s : State) : State := (List.range 4).foldl (fun s r => holdReel r s) s

/-- One reel at the return to NORMAL (R112). -/
def resumeReel (r : Nat) (s : State) : State :=
  if (s.reelAt r).state = .held then
    match (s.reelAt r).item with
    | .spot _ _ => fileReel r (s.withReelAt r { s.reelAt r with state := .playing })
    | .filler _ _ => fileReel r (s.withReelAt r { s.reelAt r with state := .filler })
    | .none => cueReel true r s
  else s

def resumeReels (s : State) : State := (List.range 4).foldl (fun s r => resumeReel r s) s

/-- A reel at start-up (R97): held with item NONE in an alert, else a starting cue; nothing is filed. -/
def startUpReel (r : Nat) (s : State) : State :=
  if (s.reelAt r).slots.isEmpty then s
  else if s.house.alert = .normal then s.withReelAt r (cued s true (s.reelAt r))
  else s.withReelAt r { s.reelAt r with state := .held }

def startUpReels (s : State) : State := (List.range 4).foldl (fun s r => startUpReel r s) s

/-- The content of REEL(r) (R107). -/
def reelContent (s : State) (r : Nat) : ReelContent :=
  let x := s.reelAt r
  { state := x.state, item := x.item,
    spot := match x.item with | .spot _ _ => (x.slots)[x.cursor]? | _ => none,
    countdown := x.countdown, plays := x.plays }

end Sys2Proof.Machine
end

