-- ==== Sys2Proof/Machine/Link.lean ====
section
/-! DEFINITION. The Panel Link Controller: frames and records, the arbiter, batches and refreshes, outcomes, idle
times and response windows (file 09). -/

namespace Sys2Proof.Machine

/-! ### Records -/

/-- The VIEW record of a panel (R170, R171). -/
def viewRecord (c : PanelConfig) : Record :=
  match c.view with
  | .board => .view .board c.page c.dwell c.group
  | .door => .view .door c.aud 0 c.group
  | .spot => .view .spot c.reel 0 c.group
  | .blank => .view .blank 0 0 c.group

/-- The content of a target read for a panel (R90, R107, R131, R147); a board line without an image is a removal. -/
def readTarget (s : State) (c : PanelConfig) (t : Target) : Record :=
  match t with
  | .boardLine k =>
    match s.lineImage k with
    | some l => .line l
    | none => .lineRemove k
  | .door a => .door a (s.doorImage a)
  | .title i => .title i ((s.board.titles)[i]?.getD ⟨[], 0⟩)
  | .reel r => .reel r (reelContent s r)
  | .notices => .notices (noticesFor s.notice c)
  | .alert => .alert (s.house.alert != .normal)

/-- The record of a journal entry (R177). -/
def readEntry (s : State) (c : PanelConfig) (e : Entry) : Record :=
  match e.form, e.target with
  | .remove, .boardLine k => .lineRemove k
  | _, t => readTarget s c t

/-- The record kinds of R170. -/
def Record.kind : Record → Nat
  | .view _ _ _ _ => 1 | .alert _ => 2 | .notices _ => 3 | .title _ _ => 4 | .line _ => 5
  | .lineRemove _ => 6 | .door _ _ => 7 | .reel _ _ => 8

def noticeRecBytes (n : NoticeRec) : List Byte :=
  w1 n.slot ++ w1 n.gen ++ [Config.panelClassCode n.cls.code, Config.panelPriorityCode n.prio.code] ++
    w2 (n.linked.getD 0) ++ wText n.text

def ReelItem.media : ReelItem → Nat
  | .spot m _ | .filler m _ => m
  | .none => 0
def ReelItem.duration : ReelItem → Nat
  | .spot _ d | .filler _ d => d
  | .none => 0

/-- The content of a record (R170). The figure and the hint of a BOARD_LINE that has none are 0, which is the model's choice
(log 40). -/
def Record.content : Record → List Byte
  | .view v a b g => w1 (v.code + 1) ++ w1 a ++ w1 b ++ w1 g
  | .alert a => wFlag a
  | .notices l => wList noticeRecBytes l
  | .title i t => w1 i ++ w1 t.rating ++ wText t.text
  | .line l =>
    w2 l.key ++ w1 l.aud ++ w1 l.title ++ w2 l.start ++ w1 (l.delay.getD 0) ++ w1 (l.word.code + 1) ++
      [Config.panelMarks l.figure.isSome ((l.figure.map (·.plus)).getD false) l.hint.isSome] ++
      w2 ((l.figure.map (·.n)).getD 0) ++ w2 ((l.hint.map (·.start)).getD 0) ++ w1 ((l.hint.map (·.aud)).getD 0)
  | .lineRemove k => w2 k
  | .door a (some d) =>
    w1 a ++ w1 1 ++ w2 d.key ++ w1 d.title ++ w2 d.start ++ w1 (d.word.code + 1) ++
      [Config.panelMarks true d.figure.plus false] ++ w2 d.figure.n
  | .door a none => w1 a ++ w1 2 ++ w2 0 ++ w1 0 ++ w2 0 ++ w1 0 ++ w1 0 ++ w2 0
  | .reel r c =>
    w1 r ++ [Config.panelReelStateCode c.state.code, Config.panelReelItemCode c.item.code] ++ w2 (c.spot.getD 0) ++
      w2 c.item.media ++ w1 c.item.duration ++ w1 c.countdown ++ w2 c.plays

/-- A record: kind, content length, content (R170). -/
def Record.bytes (r : Record) : List Byte := w1 r.kind ++ w1 r.content.length ++ r.content

/-! ### Frames -/

/-- A frame of the link (R168): sync, address, kind, flags, length, header check, body, body check. -/
def linkFrame (addr kind flags : Nat) (body : List Byte) : List Byte :=
  let header := w1 addr ++ w1 kind ++ w1 flags ++ w2 body.length
  w1 0xB4 ++ header ++ [headerCheck header] ++ body ++ (if body.isEmpty then [] else wordBytes (crc16 body))

/-- The flags byte of a batch's frame (R168). -/
def BatchKind.flags : BatchKind → Nat
  | .refreshUpdate final => if final then 3 else 1
  | _ => 0

def BatchKind.frame : BatchKind → FrameKind
  | .refreshBegin => .refreshBegin
  | _ => .update

/-- The frame a grant sends (R174): a batch in hand, or a POLL or PROBE with an empty body. -/
def grantFrame (addr : Nat) (kind : FrameKind) (batch : Option Batch) : List Byte :=
  match batch with
  | some b => linkFrame addr kind.code b.kind.flags (b.records.flatMap Record.bytes)
  | none => linkFrame addr kind.code 0 []

/-- The beacon's frame, its body read now (R168, R176). -/
def beaconFrame (s : State) : List Byte :=
  let m := if s.shows.clock.valid then wallMinute s else s.policy.dayStart % 1440
  linkFrame 0 5 0 (w1 (m / 60) ++ w1 (m % 60) ++ wFlag s.shows.clock.valid ++ w1 s.house.alert.code)

/-! ### The arbiter -/

/-- A panel is waiting (R174). -/
def Panel.waiting (pol : Policy) (p : Panel) : Bool :=
  p.state != .absent &&
    (p.batch.isSome || decide (0 < p.retry) ||
      match p.state with
      | .unknown | .syncing | .behind => true
      | .current => decide (pol.pollInterval ≤ p.idle)
      | .offline => decide (pol.probeInterval ≤ p.idle)
      | .absent => false)

/-- The addresses in the arbiter's order: last-served + 1 round to last-served (R175). -/
def arbiterOrder (last : Nat) : List Nat :=
  (List.range Config.panelCount).map (fun i => (last + i) % Config.panelCount + 1)

/-- The first waiting panel (R175). -/
def nextWaiting (s : State) : Option Nat :=
  (arbiterOrder s.link.lastServed).find? (fun a => (s.panelAt a).waiting s.policy)

/-- The refresh list of a view (R178). -/
def refreshList (s : State) (c : PanelConfig) : List Target :=
  let titles := (List.range 64).map Target.title
  match c.view with
  | .board => [.alert, .notices] ++ titles ++ (boardOrder s).map (fun l => Target.boardLine l.key)
  | .door => [.alert, .notices] ++ titles ++ [.door c.aud]
  | .spot => [.alert, .notices, .reel c.reel]
  | .blank => [.alert, .notices]

/-- A full refresh begins (R178). -/
def beginRefresh (s : State) (p : Panel) : Panel :=
  { p with
    refresh := some ⟨s.journal.cur, refreshList s p.config, 0, false⟩
    batch := some ⟨.refreshBegin, [viewRecord p.config], none⟩ }

/-- The next refresh UPDATE (R179). -/
def nextRefreshBatch (s : State) (p : Panel) (r : Refresh) : Batch :=
  let now := (r.targets.drop r.position).take 8
  ⟨.refreshUpdate (decide (r.targets.length ≤ r.position + now.length)), now.map (readTarget s p.config), none⟩

/-- An UNKNOWN or SYNCING panel's grant (R174, R178, R179). -/
def grantRefresh (s : State) (p : Panel) : Panel :=
  match p.refresh with
  | some r => if r.restart then beginRefresh s p else { p with batch := some (nextRefreshBatch s p r) }
  | none => beginRefresh s p

/-- The batch of a BEHIND panel (R177): its records in revision order and its batch revision. -/
def updateBatch (s : State) (p : Panel) (list : List Entry) (more : Bool) (cur : Nat) : Batch :=
  ⟨.update, list.map (readEntry s p.config), some (if more then (list.getLast?.map (·.rev)).getD cur else cur)⟩

/-- The panel as a grant leaves it, with the kind of frame sent (R174, R177). -/
def grantPanel (s : State) (p : Panel) : Panel × FrameKind :=
  match p.batch with
  | some b => (p, b.kind.frame)
  | none =>
    match p.state with
    | .unknown | .syncing =>
      let p1 := grantRefresh s p
      (p1, ((p1.batch).map (·.kind.frame)).getD .refreshBegin)
    | .behind =>
      match s.journal.first p.shown p.config 8 with
      | .refreshNeeded => (beginRefresh s p.toSyncing, .refreshBegin)
      | .entries [] _ _ => (p, .poll)
      | .entries list more cur => ({ p with batch := some (updateBatch s p list more cur) }, .update)
    | .offline => (p, .probe)
    | _ => (p, .poll)

/-- The grant of the link to a panel (R167, R175). -/
def grantTo (addr : Nat) (s : State) : State :=
  let g := grantPanel s (s.panelAt addr)
  let s1 := s.withPanelAt addr g.1
  s1.withLink
    { s1.link with
      cond := .transaction ⟨addr, g.2, g.1.batch.isSome, none, false, false⟩
      lastServed := addr
      out := grantFrame addr g.2 g.1.batch }

/-! ### Outcomes -/

/-- An answer that passes the checks of R169: ACK or NAK with its reason, the request, the fault code, the report. -/
structure PanelReply where
  nak : Option NakReason
  request : Nat
  fault : Nat
  report : Nat
  deriving DecidableEq, Repr

def nakReasonOf : Nat → Option NakReason
  | 3 => some .bodyCheck
  | 4 => some .unknownKind
  | 5 => some .badLength
  | 6 => some .overrun
  | _ => none

/-- The field values and pairings of R169. -/
def replyOf (kind reason request fault report : Nat) : Option PanelReply :=
  if 6 < report then none
  else if kind = 1 then
    if reason = 0 ∧ request ≤ 2 ∧ (request = 2 ↔ fault ≠ 0) then some ⟨none, request, fault, report⟩ else none
  else if kind = 2 then
    if request = 0 ∧ fault = 0 then (nakReasonOf reason).map (fun r => ⟨some r, 0, 0, report⟩) else none
  else none

/-- The checks of a complete answer (R169). The answer check comes high byte first, which is the model's choice (log 39). -/
def checkAnswer (addr : Nat) (bytes : List Byte) : Option PanelReply :=
  match bytes with
  | [sync, a, kind, reason, request, fault, report, hi, lo] =>
    if sync = 0xB4#8 ∧ a.toNat = addr ∧ wordBytes (crc16 [a, kind, reason, request, fault, report]) = [hi, lo] then
      replyOf kind.toNat reason.toNat request.toNat fault.toNat report.toNat
    else none
  | _ => none

/-- The minute of last answer after an ACK or NAK (R172). -/
def Panel.answered (clock : Clock) (report : Nat) (p : Panel) : Panel :=
  { p with
    lastAnswer := if clock.valid then some clock.minute else p.lastAnswer
    error := if report = 0 then p.error else { p.error with report := some report } }

/-- Step 2 of R180. -/
def Panel.recover (p : Panel) : Panel :=
  { p with
    error := if 0 < p.retry ∨ p.phase = .resync then { p.error with recovered := true } else p.error
    retry := 0
    phase := .normal }

/-- Step 3 of R180: the batch in hand takes effect and is discarded (R177, R179). A transaction whose batch reference
the wrap discarded carries none (R186). -/
def Panel.batchDone (j : Journal) (carried : Bool) (p : Panel) : Panel :=
  match carried, p.batch with
  | false, _ => p
  | true, none => p
  | true, some b =>
    let p1 := { p with batch := none }
    match b.kind, b.rev, p.refresh with
    | .update, some rev, _ => { p1 with shown := rev }
    | .refreshUpdate false, _, some r => { p1 with refresh := some { r with position := r.position + b.records.length } }
    | .refreshUpdate true, _, some r => ({ p1 with shown := r.snapshot, refresh := none }).classify j
    | _, _, _ => p1

/-- Step 4 of R180. -/
def Panel.answeredState (p : Panel) : Panel :=
  match p.state with
  | .unknown => { p with state := .syncing }
  | .offline => p.toSyncing
  | _ => p

/-- REFRESH_ME (R184). -/
def Panel.refreshMe (p : Panel) : Panel :=
  match p.state with
  | .unknown | .syncing => p.markRestart
  | _ => p.toSyncing.markRestart

/-- Step 5 of R180, the request's effect on the panel (R184). -/
def Panel.requested (request fault : Nat) (p : Panel) : Panel :=
  if request = 1 then p.refreshMe
  else if request = 2 then { p with error := { p.error with fault := some fault } }
  else p

/-- Step 6 of R180. -/
def Panel.resyncDone (p : Panel) : Panel :=
  if p.resync then { p.toSyncing.markRestart with resync := false } else p

/-- Step 7 of R180. -/
def Panel.reclassify (j : Journal) (p : Panel) : Panel :=
  if p.isServed && p.refresh.isNone then p.classify j else p

/-- An ACK applied to a panel (R180). -/
def Panel.ack (j : Journal) (clock : Clock) (carried : Bool) (r : PanelReply) (p : Panel) : Panel :=
  ((((((p.answered clock r.report).recover).batchDone j carried).answeredState).requested r.request r.fault).resyncDone).reclassify j

/-- An ACK outcome with the causes it raises (R180, R184). -/
def applyAck (addr : Nat) (carried : Bool) (r : PanelReply) (s : State) : State :=
  let p := s.panelAt addr
  let s1 := s.withPanelAt addr (p.ack s.journal s.shows.clock carried r)
  let s2 := if p.phase = .resync then raise .programme .recovered s1 else s1
  if r.request = 2 then raise .programme .panelFault s2 else s2

/-- The failures of R181. -/
inductive Failure where
  | timeout
  | check
  | nak (reason : NakReason) (report : Nat)
  deriving DecidableEq, Repr

/-- The matching count and the last error (R181 step 1, R182). -/
def ErrorRecord.count (e : ErrorRecord) : Failure → ErrorRecord
  | .timeout => { e with timeouts := bump255 e.timeouts, last := some .timeout }
  | .check => { e with checks := bump255 e.checks, last := some .answerCheck }
  | .nak r _ => { e with naks := bump255 e.naks, last := some (.nak r) }

/-- A NAK's report and minute of last answer (R181, R182, R183). -/
def Panel.nakTaken (clock : Clock) (f : Failure) (p : Panel) : Panel :=
  match f with
  | .nak _ report => p.answered clock report
  | _ => p

/-- Step 1 of R181. -/
def Panel.failCounted (clock : Clock) (f : Failure) (p : Panel) : Panel :=
  let p1 := { p with error := { p.error.count f with recovered := false } }
  match f, p.state with
  | .nak _ _, .unknown => { p1.nakTaken clock f with state := .syncing }
  | _, _ => p1.nakTaken clock f

/-- SYNCING unless UNKNOWN, which it keeps (R181). -/
def Panel.syncUnlessUnknown (p : Panel) : Panel :=
  if p.state = .unknown then p else p.toSyncing

/-- Steps 2 to 4 of R181, with resync pending as it was. -/
def Panel.failStep (resync : Bool) (p : Panel) : Panel :=
  if p.retry < 3 then
    if resync then
      ({ p with retry := p.retry + 1, batch := none } : Panel).markRestart.syncUnlessUnknown
    else { p with retry := p.retry + 1 }
  else if p.phase = .normal then
    ({ p with phase := .resync, retry := 0, batch := none, refresh := none } : Panel).syncUnlessUnknown
  else { p with state := .offline, retry := 0, batch := none, refresh := none }

/-- A failure of a panel that is not OFFLINE (R181). -/
def Panel.fail (clock : Clock) (f : Failure) (p : Panel) : Panel :=
  ({ p.failCounted clock f with resync := false } : Panel).failStep p.resync

/-- A failed probe of an OFFLINE panel (R182). -/
def Panel.probeFail (clock : Clock) (f : Failure) (p : Panel) : Panel :=
  let p1 := { p with error := p.error.count f, resync := false, retry := 0 }
  match f with
  | .nak _ _ => (p1.nakTaken clock f).toSyncing
  | _ => p1

/-- A failure outcome with the cause it raises (R181, R182). -/
def applyFailure (addr : Nat) (f : Failure) (s : State) : State :=
  let p := s.panelAt addr
  if p.state = .offline then s.withPanelAt addr (p.probeFail s.shows.clock f)
  else
    let s1 := s.withPanelAt addr (p.fail s.shows.clock f)
    if ¬ p.retry < 3 ∧ p.phase = .resync then raise .programme .panelOffline s1 else s1

/-- What a transaction ends with (R167). -/
inductive LinkOutcome where
  | reply (r : PanelReply)
  | failure (f : Failure)
  deriving DecidableEq, Repr

def applyOutcome (addr : Nat) (carried : Bool) (o : LinkOutcome) (s : State) : State :=
  match o with
  | .reply r =>
    match r.nak with
    | some reason => applyFailure addr (.nak reason r.report) s
    | none => applyAck addr carried r s
  | .failure f => applyFailure addr f s

/-- The end of a transaction (R167, R172): the link is IDLE, the panel's idle time 0, and the outcome is applied unless
the discard mark is set. A discarded outcome leaves resync pending as it stands, which is the model's choice (log 34). -/
def endTransaction (t : Transaction) (o : LinkOutcome) (s : State) : State :=
  let s1 := s.withCond .idle
  let s2 := s1.withPanelAt t.addr { s1.panelAt t.addr with idle := 0 }
  if t.discard then s2 else applyOutcome t.addr t.hasBatch o s2

/-- The outcome when the window left reaches 0 (R167). -/
def windowOutcome (t : Transaction) : LinkOutcome := .failure (if t.begun then .check else .timeout)

/-- The window runs out at this tick (R167). -/
def windowOut (s : State) : State :=
  match s.link.cond with
  | .transaction t =>
    match t.window with
    | some w => if w ≤ 1 then endTransaction t (windowOutcome t) s else s
    | none => s
  | _ => s

/-- The Panel Link Controller's part of a 1 ms tick (R167). -/
def linkTick (s : State) : State :=
  match s.link.cond with
  | .transaction t =>
    match t.window with
    | some w =>
      if w ≤ 1 then endTransaction t (windowOutcome t) s
      else s.withCond (.transaction { t with window := some (w - 1) })
    | none => s
  | _ => s

/-- A panel's idle time at a 1 s tick (R172). -/
def Panel.idleTick (p : Panel) : Panel :=
  if p.state = .absent then p else { p with idle := Nat.min 300 (p.idle + 1) }

/-- The Panel Link Controller's part of a 1 s tick (R172). -/
def idleTick (s : State) : State := s.withLink { s.link with panels := s.link.panels.map Panel.idleTick }

/-! ### Set Panel and Link Reset -/

/-- A transaction is in flight to a panel. -/
def inFlight (s : State) (addr : Nat) : Bool :=
  match s.link.cond with
  | .transaction t => t.addr == addr
  | _ => false

/-- The discard mark set on the transaction in flight (R167). -/
def LinkCond.markDiscard : LinkCond → LinkCond
  | .transaction t => .transaction { t with discard := true }
  | c => c

/-- The view, a parameter of the view in force, or the group differs (R187). -/
def viewChanged (a b : PanelConfig) : Bool := viewRecord a != viewRecord b

/-- The runtime state after Set Panel (R187, log 34); a panel made ABSENT keeps resync pending as it stands. An ABSENT
panel made present takes the first row of R187 alone, also with a discarded transaction to it still in flight, which is
the model's choice (log 34). -/
def Panel.reconfigured (c : PanelConfig) (flight : Bool) (p : Panel) : Panel :=
  let changed := viewChanged p.config c
  let p1 := { p with config := c }
  if p.state = .absent then
    if c.present then { p1 with state := .unknown, shown := 0, phase := .normal, retry := 0, idle := 0 } else p1
  else if !c.present then
    { p1 with state := .absent, shown := 0, phase := .normal, retry := 0, batch := none, refresh := none }
  else if !changed then p1
  else if flight then { p1 with resync := true }
  else match p.state with
    | .unknown | .syncing => { p1.markRestart with batch := none, retry := 0 }
    | .current | .behind => { p1.toSyncing with retry := 0 }
    | _ => p1

/-- A panel at Link Reset (R188). -/
def Panel.linkReset (p : Panel) : Panel :=
  if p.state = .absent then p
  else { p with state := .unknown, shown := 0, phase := .normal, retry := 0, idle := 0, batch := none,
                refresh := none, resync := false, error := .clear }

end Sys2Proof.Machine
end

