-- ==== Sys2Proof/Machine/ExecPanels.lean ====
section
/-! DEFINITION. The Panel Link Controller's requests (R187 to R189) and its events (R166, R167, R174 to R176). -/

namespace Sys2Proof.Machine

/-! ### Set Panel -/

/-- The configuration with the view asked for; the parameters of other views are kept (R171, R187). -/
def PanelConfig.withView (c : PanelConfig) (present : Bool) (group : Nat) : ViewArg → Option PanelConfig
  | .board p d =>
    some { c with present := present, group := group, view := .board, page := clampTo 4 12 p, dwell := clampTo 5 60 d }
  | .door a =>
    if a = 0 ∨ 16 < a then none else some { c with present := present, group := group, view := .door, aud := a }
  | .spot r => some { c with present := present, group := group, view := .spot, reel := clampTo 0 3 r }
  | .blank => some { c with present := present, group := group, view := .blank }
  | .unknown _ => none

/-- A parameter was clamped (R187). -/
def viewClamped : ViewArg → Bool
  | .board p d => clampTo 4 12 p != p || clampTo 5 60 d != d
  | .spot r => clampTo 0 3 r != r
  | _ => false

/-- The panel is being made absent with a transaction in flight to it (R187). -/
def discards (s : State) (addr : Nat) (c : PanelConfig) : Bool :=
  inFlight s addr && (s.panelAt addr).state != .absent && !c.present

def setPanel (addr : Nat) (present : Bool) (view : ViewArg) (group : Nat) : Owner := fun s =>
  if storeBusy s then deny .storeBusy s
  else if addr = 0 ∨ 24 < addr ∨ 7 < group then deny .badArgument s
  else match (s.panelAt addr).config.withView present group view with
    | none => deny .badArgument s
    | some c =>
      let s1 := s.withPanelAt addr ((s.panelAt addr).reconfigured c (inFlight s addr))
      (if discards s addr c then s1.withCond s1.link.cond.markDiscard else s1, okMarked (viewClamped view) [])

def execSetPanel (h : Hdr) (addr : Nat) (present : Bool) (view : ViewArg) (group : Nat) (s : State) : StepOutcome :=
  request (.setPanel h addr present view group) (setPanel addr present view group) s

/-! ### Link Reset -/

/-- The Panel Link Controller at Link Reset (R188). -/
def PanelLink.reset (l : PanelLink) : PanelLink :=
  { l with panels := l.panels.map Panel.linkReset, cond := l.cond.markDiscard, lastServed := 0, beaconPending := true }

def linkReset : Owner := fun s => (s.withLink s.link.reset, okWith [])

def execLinkReset (h : Hdr) (s : State) : StepOutcome := request (.linkReset h) linkReset s

/-! ### Read Panel -/

def wConfig (c : PanelConfig) : List Byte :=
  wFlag c.present ++ w1 c.view.code ++ w1 c.page ++ w1 c.dwell ++ w1 c.aud ++ w1 c.reel ++ w1 c.group

def NakReason.code : NakReason → Nat
  | .bodyCheck => 0 | .unknownKind => 1 | .badLength => 2 | .overrun => 3

def wLinkError : LinkError → List Byte
  | .timeout => w1 0
  | .answerCheck => w1 1
  | .nak r => w1 2 ++ w1 r.code

def wErrors (e : ErrorRecord) : List Byte :=
  wOpt wLinkError e.last ++ wFlag e.recovered ++ w1 e.timeouts ++ w1 e.checks ++ w1 e.naks ++ wOpt w1 e.report ++
    wOpt w1 e.fault

/-- Kind, record count and batch revision; the group has one presence byte, and the revision its own (log 15). -/
def wBatch (b : Batch) : List Byte := w1 b.kind.frame.code ++ w1 b.records.length ++ wOpt w2 b.rev

/-- Snapshot revision, position and list length; the group has one presence byte (log 15). -/
def wRefresh (r : Refresh) : List Byte := w2 r.snapshot ++ w2 r.position ++ w2 r.targets.length

def wCond : LinkCond → List Byte
  | .idle => w1 0 ++ wOpt w1 none
  | .transaction t => w1 1 ++ wOpt w1 (some t.addr)
  | .beacon => w1 2 ++ wOpt w1 none

/-- The fields of R189 in its order, a batch and a refresh each behind one presence byte (log 15). -/
def wPanel (p : Panel) (l : PanelLink) : List Byte :=
  wConfig p.config ++ w1 p.state.code ++ w2 p.shown ++ w1 p.phase.code ++ w1 p.retry ++ w2 p.idle ++
    wOpt w2 p.lastAnswer ++ wOpt wBatch p.batch ++ wOpt wRefresh p.refresh ++ wErrors p.error ++ wCond l.cond ++
    w1 l.lastServed ++ wFlag l.beaconPending

def readPanel (addr : Nat) (clear : Bool) : Owner := fun s =>
  if addr = 0 ∨ 24 < addr then deny .badArgument s
  else
    (if clear then s.withPanelAt addr { s.panelAt addr with error := .clear } else s,
      okWith (wPanel (s.panelAt addr) s.link))

def execReadPanel (h : Hdr) (addr : Nat) (clear : Bool) (s : State) : StepOutcome :=
  request (.readPanel h addr clear) (readPanel addr clear) s

/-! ### Events of the link -/

/-- What happens only while the part runs. -/
def whenRunning (f : State → State) (s : State) : State := if s.phase = .running then f s else s

/-- A free point of the link: it is IDLE (R175). -/
def freePoint (s : State) : Bool := s.link.cond == .idle

/-- The grant of R175; at a free point with the beacon-pending flag set, the beacon goes first (R176). -/
def panelGrant (s : State) : State :=
  if freePoint s ∧ s.link.beaconPending = false then
    match nextWaiting s with
    | some a => grantTo a s
    | none => s
  else s

def execPanelGrant (s : State) : StepOutcome := .next (whenRunning panelGrant s)

/-- The beacon of R176. -/
def beaconSend (s : State) : State :=
  if freePoint s ∧ s.link.beaconPending = true then
    s.withLink { s.link with cond := .beacon, beaconPending := false, out := beaconFrame s }
  else s

def execBeaconSend (s : State) : StepOutcome := .next (whenRunning beaconSend s)

/-- The beacon's last byte has gone out (R166). -/
def beaconEnd (s : State) : State := if s.link.cond = .beacon then s.withCond .idle else s

def execBeaconEnd (s : State) : StepOutcome := .next (whenRunning beaconEnd s)

/-- The response window opens (R167). -/
def panelFrameSent (s : State) : State :=
  match s.link.cond with
  | .transaction t =>
    if t.window = none then s.withCond (.transaction { t with window := some s.policy.responseWindow }) else s
  | _ => s

def execPanelFrameSent (s : State) : StepOutcome := .next (whenRunning panelFrameSent s)

/-- The first bytes of an answer during the response window (R167). -/
def panelAnswerStart (s : State) : State :=
  match s.link.cond with
  | .transaction t => if t.window = none then s else s.withCond (.transaction { t with begun := true })
  | _ => s

def execPanelAnswerStart (s : State) : StepOutcome := .next (whenRunning panelAnswerStart s)

/-- The outcome of a complete answer (R167, R169). -/
def answerOutcome (t : Transaction) (bytes : List Byte) : LinkOutcome :=
  match checkAnswer t.addr bytes with
  | some r => .reply r
  | none => .failure .check

/-- A panel's answer completes during the response window (R167). -/
def panelAnswer (bytes : List Byte) (s : State) : State :=
  match s.link.cond with
  | .transaction t => if t.window = none then s else endTransaction t (answerOutcome t bytes) s
  | _ => s

def execPanelAnswer (bytes : List Byte) (s : State) : StepOutcome := .next (whenRunning (panelAnswer bytes) s)

/-- The response window reaches 0 (R167, log 4). -/
def execResponseTimeout (s : State) : StepOutcome := .next (whenRunning windowOut s)

/-- The 1 s tick at which a panel's idle time reaches an interval (R174, log 4). -/
def idleReaches (st : PanelState) (interval addr : Nat) (s : State) : State :=
  let p := s.panelAt addr
  if 1 ≤ addr ∧ addr ≤ Config.panelCount ∧ p.state = st ∧ p.idle + 1 = interval then s.withPanelAt addr p.idleTick
  else s

def execPanelPollDue (addr : Nat) (s : State) : StepOutcome :=
  .next (whenRunning (fun s => idleReaches .current s.policy.pollInterval addr s) s)

def execPanelProbeDue (addr : Nat) (s : State) : StepOutcome :=
  .next (whenRunning (fun s => idleReaches .offline s.policy.probeInterval addr s) s)

end Sys2Proof.Machine
end

