-- ==== Sys2Proof/Machine/House.lean ====
section
/-! DEFINITION. The House Line Unit: debounce, arrivals and the lobby alert (file 07). -/

namespace Sys2Proof.Machine

def otherLevel : Level → Level
  | .low => .high
  | .high => .low

/-- One sample of a line (R138, R140): the new debounce state, and whether the change is qualified. -/
def LineState.sample (l : LineState) (debounce : Nat) (level : Level) : LineState × Bool :=
  if level = l.stable then ({ l with count := 0 }, false)
  else if debounce ≤ l.count + 1 then (⟨level, 0⟩, true)
  else ({ l with count := l.count + 1 }, false)

def State.lineEntry (s : State) (i : Nat) : LineEntry := (s.house.map)[i]?.getD .default
def State.lineState (s : State) (i : Nat) : LineState := (s.house.lines)[i]?.getD ⟨.low, 0⟩

def State.withLineState (s : State) (i : Nat) (x : LineState) : State :=
  s.withHouse { s.house with lines := s.house.lines.set i x }

/-- The level a qualified change in the direction of an edge ends at (R139). -/
def Edge.level : Edge → Level
  | .rising => .high
  | .falling => .low

/-- A qualified change of a start line (R139): an arrival when it has the entry's direction and the line is used. -/
def lineQualified (i : Nat) (level : Level) (s : State) : State :=
  let e := s.lineEntry i
  if e.edge.level = level ∧ 1 ≤ e.aud ∧ e.aud ≤ 16 then arrival e.aud s else s

/-- One start line at a 1 ms tick (R138). -/
def sampleLine (i : Nat) (level : Level) (s : State) : State :=
  let r := (s.lineState i).sample (s.lineEntry i).debounce level
  let s1 := s.withLineState i r.1
  if r.2 then lineQualified i level s1 else s1

/-- The polarity's active level (R141). -/
def Polarity.active : Polarity → Level
  | .activeHigh => .high
  | .activeLow => .low

/-- A level reads active (R141). -/
def readsActive (p : Polarity) (l : Level) : Bool := p.active == l

def State.withAlert (s : State) (a : AlertState) : State := s.withHouse { s.house with alert := a }

/-- NORMAL to ALERT (R144, in its table's order; log 6). -/
def alertEntry (s : State) : State :=
  let s1 := holdReels (s.withAlert .alert)
  let s2 := fileNotices (postEvacuate s1)
  let s3 := file .alert .update (chimeTrigger .alarm s2)
  raiseAll .alertChange s3

/-- ALERT_HELD back to ALERT (R145). -/
def alertReentry (s : State) : State := raiseAll .alertChange (chimeTrigger .alarm (s.withAlert .alert))

/-- ALERT to ALERT_HELD (R145). -/
def alertHold (s : State) : State := raiseAll .alertChange (s.withAlert .held)

/-- ALERT_HELD to NORMAL (R146). -/
def alertReturn (s : State) : State :=
  let s1 := resumeReels (s.withAlert .normal)
  let s2 := fileNotices (dropEvacuate s1)
  raiseAll .alertChange (file .alert .update s2)

/-- The line becomes active (R142). -/
def becomesActive (s : State) : State :=
  match s.house.alert with
  | .normal => alertEntry s
  | .alert => s
  | .held => alertReentry s

/-- The line becomes inactive (R142). -/
def becomesInactive (s : State) : State :=
  match s.house.alert with
  | .alert => alertHold s
  | _ => s

/-- The reading of the alert line has changed to `active` (R141, R142). -/
def readingChanged (active : Bool) (s : State) : State :=
  if active then becomesActive s else becomesInactive s

def State.withAlertLine (s : State) (x : LineState) : State :=
  s.withHouse { s.house with alertLine := x }

/-- The alert line at a 1 ms tick of the running part (R141). -/
def sampleAlert (level : Level) (s : State) : State :=
  let r := s.house.alertLine.sample s.house.alertEntry.debounce level
  let s1 := s.withAlertLine r.1
  if r.2 then readingChanged (readsActive s.house.alertEntry.polarity level) s1 else s1

/-- The sample of start line i in a word of samples. -/
def lineLevel (lines : Word) (i : Nat) : Level := if lines.getLsbD i then .high else .low

/-- The start lines at a 1 ms tick, in ascending order (R138, log 30). -/
def sampleLines (lines : Word) (s : State) : State :=
  (List.range 16).foldl (fun s i => sampleLine i (lineLevel lines i) s) s

end Sys2Proof.Machine
end

