-- ==== Sys2Proof/Machine/ExecSetup.lean ====
section
/-! DEFINITION. Policy settings, the clock's requests, saving, and start-up (R204 to R208). -/

namespace Sys2Proof.Machine

/-! ### Policy settings -/

/-- The range of a setting, in the order of the table of R207; chime_enable is tested and not clamped. -/
def settingRange : Nat → Option (Nat × Nat)
  | 0 => some (0, 60)
  | 1 => some (0, 30)
  | 2 => some (0, 60)
  | 3 => some (30, 900)
  | 4 => some (0, 4)
  | 5 => some (0, 192)
  | 6 => some (0, 192)
  | 7 => some (0, 63)
  | 8 => some (1, 15)
  | 9 => some (0, 64)
  | 10 => some (1, 30)
  | 11 => some (5, 300)
  | 12 => some (1, 10)
  | 13 => some (0, 65535)
  | 14 => some (5, 180)
  | 15 => some (0, 1)
  | 16 => some (0, 1439)
  | _ => none

/-- A setting's value; `chime_enable` is on at position 0, off at position 1 (log 13). -/
def Policy.value (p : Policy) : Nat → Nat
  | 0 => p.doorsLead
  | 1 => p.startGrace
  | 2 => p.lateSale
  | 3 => p.holdLife
  | 4 => p.holdExtends
  | 5 => p.quotaA
  | 6 => p.quotaB
  | 7 => p.fewLeft
  | 8 => p.fillSixteenths
  | 9 => p.hysteresis
  | 10 => p.pollInterval
  | 11 => p.probeInterval
  | 12 => p.responseWindow
  | 13 => p.fillerMedia
  | 14 => p.fillerDuration
  | 15 => if p.chimeEnable then 0 else 1
  | 16 => p.dayStart
  | _ => 0

/-- A setting written. -/
def Policy.write (p : Policy) (id v : Nat) : Policy :=
  match id with
  | 0 => { p with doorsLead := v }
  | 1 => { p with startGrace := v }
  | 2 => { p with lateSale := v }
  | 3 => { p with holdLife := v }
  | 4 => { p with holdExtends := v }
  | 5 => { p with quotaA := v }
  | 6 => { p with quotaB := v }
  | 7 => { p with fewLeft := v }
  | 8 => { p with fillSixteenths := v }
  | 9 => { p with hysteresis := v }
  | 10 => { p with pollInterval := v }
  | 11 => { p with probeInterval := v }
  | 12 => { p with responseWindow := v }
  | 13 => { p with fillerMedia := v }
  | 14 => { p with fillerDuration := v }
  | 15 => { p with chimeEnable := v == 0 }
  | 16 => { p with dayStart := v }
  | _ => p

/-- A carried setting, clamped (step 3 of R207). -/
def clampSetting (x : Nat × Nat) : Nat × Nat :=
  match settingRange x.1 with
  | some r => (x.1, clampTo r.1 r.2 x.2)
  | none => x

/-- Every carried setting takes its value together. -/
def writeSettings (p : Policy) (l : List (Nat × Nat)) : Policy :=
  l.foldl (fun p x => p.write (clampSetting x).1 (clampSetting x).2) p

/-- Step 2 of R207. -/
def settingsBad (l : List (Nat × Nat)) : Bool :=
  l.isEmpty || l.any (fun x => (settingRange x.1).isNone) || !decide ((l.map (·.1)).Nodup) ||
    l.any (fun x => x.1 == 15 && decide (1 < x.2))

/-- A setting of the due transitions changed (R12). -/
def timesChanged (a b : Policy) : Bool :=
  a.doorsLead != b.doorsLead || a.startGrace != b.startGrace || a.lateSale != b.lateSale

/-- A band setting changed (R42). -/
def bandsChanged (a b : Policy) : Bool :=
  a.fewLeft != b.fewLeft || a.fillSixteenths != b.fillSixteenths || a.hysteresis != b.hysteresis

/-- The changed settings handed to the blocks that use them (R207, in its order; log 6). -/
def policyChanged (old : Policy) (s : State) : State :=
  let s1 := if timesChanged old s.policy then evaluateAll s else s
  let s2 := if bandsChanged old s1.policy then computeAll s1 else s1
  if old.chimeEnable = s2.policy.chimeEnable then s2 else chimeEnableChanged s2.policy.chimeEnable s2

def setPolicy (l : List (Nat × Nat)) : Owner := fun s =>
  if storeBusy s then deny .storeBusy s
  else if settingsBad l then deny .badArgument s
  else
    let p := writeSettings s.policy l
    if 192 < p.quotaA + p.quotaB then deny .quotaSum s
    else (policyChanged s.policy (s.withPolicy p), okMarked (l.any (fun x => clampSetting x != x)) [])

def execSetPolicy (h : Hdr) (settings : List (Nat × Nat)) (s : State) : StepOutcome :=
  request (.setPolicy h settings) (setPolicy settings) s

/-- A setting's value with its width (R207). -/
def wSetting (p : Policy) (id : Nat) : List Byte := if settingWidth id = 2 then w2 (p.value id) else w1 (p.value id)

def readPolicy : Owner := fun s => (s, okWith ((List.range 17).flatMap (wSetting s.policy)))

def execReadPolicy (h : Hdr) (s : State) : StepOutcome := request (.readPolicy h) readPolicy s

/-! ### The clock -/

def setClock (minute second : Nat) : Owner := fun s =>
  if 1439 < minute ∨ 59 < second then deny .badArgument s
  else (clockSet (s.withClock ⟨true, minute, second⟩), okWith [])

def execSetClock (h : Hdr) (minute second : Nat) (s : State) : StepOutcome :=
  request (.setClock h minute second) (setClock minute second) s

/-- The validity's place in the list of R7, VALID or NOT SET (R192, log 13). -/
def Clock.validityCode (c : Clock) : Nat := if c.valid then 0 else 1

def readClock : Owner := fun s =>
  let c := s.shows.clock
  (s, okWith (w1 c.validityCode ++ w2 c.minute ++ w1 c.second ++ w2 s.policy.dayStart ++ w1 (wallMinute s / 60) ++
    w1 (wallMinute s % 60)))

def execReadClock (h : Hdr) (s : State) : StepOutcome := request (.readClock h) readClock s

/-! ### Saving -/

/-- The working values of every item of R205. -/
def itemsOf (s : State) : SetupImage where
  policy := s.policy
  poolSplit := s.shows.poolSplit
  map := s.house.map
  alertEntry := s.house.alertEntry
  panels := s.link.panels.map (·.config)
  attention := s.chime.attention
  reminder := s.chime.reminder
  alarm := s.chime.alarm
  spots := s.reel.spots
  reels := s.reel.reels.map (·.slots)

def saveSetup : Owner := fun s =>
  if storeBusy s then deny .storeBusy s else (s.withStore ⟨.erasing, none⟩, okWith [])

def execSaveSetup (h : Hdr) (s : State) : StepOutcome := request (.saveSetup h) saveSetup s

/-- ERASING to WRITING (R206). -/
def storeEraseDone (s : State) : State :=
  if s.store.state = .erasing then s.withStore { s.store with state := .writing } else s

def execStoreEraseDone (s : State) : StepOutcome := .next (whenRunning storeEraseDone s)

/-- WRITING to CHECKING: the working values stand in the image with its check (R206). -/
def storeWriteDone (s : State) : State :=
  if s.store.state = .writing then s.withStore ⟨.checking, some (itemsOf s)⟩ else s

def execStoreWriteDone (s : State) : StepOutcome := .next (whenRunning storeWriteDone s)

/-- CHECKING to IDLE, with STORE_DONE or STORE_FAILED (R206). -/
def storeCheckDone (holds : Bool) (s : State) : State :=
  if s.store.state = .checking then
    if holds then raise .programme .storeDone (s.withStore { s.store with state := .idle })
    else raise .programme .storeFailed (s.withStore ⟨.idle, none⟩)
  else s

def execStoreCheckDone (holds : Bool) (s : State) : StepOutcome := .next (whenRunning (storeCheckDone holds) s)

/-- A fault ends the operation with the image failing its check (R206). -/
def storeFault (s : State) : State :=
  if storeBusy s then raise .programme .storeFailed (s.withStore ⟨.idle, none⟩) else s

def execStoreFault (s : State) : StepOutcome := .next (whenRunning storeFault s)

/-! ### Reset and start-up -/

/-- What a hard reset leaves of the image: nothing while it was being erased or written (R206). -/
def SetupStore.afterReset (x : SetupStore) : Option SetupImage :=
  match x.state with
  | .erasing => none
  | .writing => none
  | _ => x.image

/-- RESET asserted, or power coming on (R208): every volatile value stands as hard reset leaves it (log 23); the
waiting commands stay waiting. -/
def hardReset (s : State) : State := (State.ofImage .default s.store.afterReset).withPending s.pending

def execHardReset (s : State) : StepOutcome := .next (hardReset s)

/-- The stable levels taken from the first sample of the start lines (R140). -/
def firstSamples (lines : Word) : List LineState :=
  (List.range 16).map (fun i => ⟨if lines.getLsbD i then .high else .low, 0⟩)

/-- The items in force and whether the image passed its check (step 2 of R208). -/
def SetupStore.read (x : SetupStore) (holds : Bool) : Option SetupImage := if holds then x.image else none

/-- Steps 1 to 4 of R208 up to the first sample of the start lines. -/
def startUp (lines : Word) (holds : Bool) (s : State) : State :=
  if s.phase = .inReset then
    let img := s.store.read holds
    let s1 := (State.ofImage (img.getD .default) img).withPending s.pending
    let s2 := s1.withHouse { s1.house with lines := firstSamples lines }
    (s2.withPhase .starting).withStoreInvalid img.isNone
  else s

def execStartUp (lines : Word) (imageHolds : Bool) (s : State) : StepOutcome := .next (startUp lines imageHolds s)

/-- A sample of the alert line during start-up (R148, log 24): the count of ticks the level has held. -/
def startUpSample (level : Level) (l : LineState) : LineState :=
  if l.count = 0 ∨ level ≠ l.stable then ⟨level, 1⟩ else { l with count := l.count + 1 }

/-- The effects of a start-up in alert (R148): nothing is filed and no cause is raised. -/
def startUpAlert (s : State) : State := chimeTrigger .alarm (postEvacuate (startUpReels (s.withAlert .alert)))

/-- STORE_INVALID, when step 2 noted it (step 6 of R208). -/
def raiseInvalid (s : State) : State := if s.storeInvalid then raise .programme .storeInvalid s else s

/-- Steps 4 to 7 of R208 once the level is found. -/
def alertFound (level : Level) (s : State) : State :=
  let s1 := s.withAlertLine ⟨level, 0⟩
  let s2 := if readsActive s.house.alertEntry.polarity level then startUpAlert s1 else startUpReels (s1.withAlert .normal)
  (raiseInvalid (s2.withPhase .running)).setBeacon

/-- The alert line at a 1 ms tick of start-up (R148). -/
def startUpAlertSample (level : Level) (s : State) : State :=
  let l := startUpSample level s.house.alertLine
  if s.house.alertEntry.debounce ≤ l.count then alertFound level s else s.withAlertLine l

/-- The sample that completes the debounce time at start-up, when it is due (R148, log 4). -/
def startUpAlertFound (level : Level) (s : State) : State :=
  if s.phase = .starting ∧ s.house.alertEntry.debounce ≤ (startUpSample level s.house.alertLine).count then
    alertFound level s
  else s

def execStartUpAlertFound (level : Level) (s : State) : StepOutcome := .next (startUpAlertFound level s)

end Sys2Proof.Machine
end

