-- ==== Sys2Proof/Machine/ExecEvents.lean ====
section
/-! DEFINITION. The ticks of the Timebase and the events one receiver's share of a tick brings (R203, log 4). -/

namespace Sys2Proof.Machine

/-- The ticks run from start-up on (R203). -/
def whenTicking (f : State → State) (s : State) : State := if s.phase = .inReset then s else f s

/-- The House Line Unit's part of a 1 ms tick: the start lines ascending, then the alert line (R138, R141, log 30);
during start-up the alert line is sampled by R148. That an arrival that qualifies during start-up is delivered then as
well, and raises STRAY_START since no show is loaded, is the model's choice (log 44). -/
def houseTick (lines : Word) (alert : Level) (s : State) : State :=
  let s1 := sampleLines lines s
  if s.phase = .running then sampleAlert alert s1 else startUpAlertSample alert s1

/-- One receiver's part of a 1 ms tick (R203). -/
def msTickAt (lines : Word) (alert : Level) (r : MsReceiver) (s : State) : State :=
  match r with
  | .house => houseTick lines alert s
  | .link => linkTick s
  | .ports => portsTick s
  | .chime => chimeTick s

def tick1ms (lines : Word) (alert : Level) (order : List MsReceiver) (s : State) : State :=
  (completeOrder order allMs).foldl (fun s r => msTickAt lines alert r s) s

def execTick1ms (lines : Word) (alert : Level) (order : List MsReceiver) (s : State) : StepOutcome :=
  .next (whenTicking (tick1ms lines alert order) s)

/-- One receiver's part of a 1 s tick (R203). -/
def secTickAt (minute : List MinReceiver) (r : SecReceiver) (s : State) : State :=
  match r with
  | .clock => clockTick minute s
  | .seat => seatTick s
  | .reel => reelTick s
  | .link => idleTick s

def tick1s (order : List SecReceiver) (minute : List MinReceiver) (s : State) : State :=
  (completeOrder order allSec).foldl (fun s r => secTickAt minute r s) s

def execTick1s (order : List SecReceiver) (minute : List MinReceiver) (s : State) : StepOutcome :=
  .next (whenTicking (tick1s order minute) s)

/-! ### Events brought by a tick -/

/-- The clock's share of a tick at second 59 (R7, R8). -/
def boundaryDue (order : List MinReceiver) (s : State) : State :=
  if s.shows.clock.valid ∧ 59 ≤ s.shows.clock.second then minuteBoundary order s else s

def execMinuteBoundary (order : List MinReceiver) (s : State) : StepOutcome := .next (whenTicking (boundaryDue order) s)

/-- A hold's share of the tick that brings its life to 0 (R66, R67). -/
def expiryDue (slot : Nat) (s : State) : State :=
  match (s.holdSlot slot).use with
  | .active _ life => if s.house.alert = .normal ∧ life ≤ 1 then expireHold slot s else s
  | _ => s

def execHoldExpiry (slot : Nat) (s : State) : StepOutcome := .next (whenTicking (expiryDue slot) s)

/-- A reel's share of the tick that brings its countdown to 0 (R104). -/
def itemEndDue (r : Nat) (s : State) : State :=
  if s.house.alert = .normal ∧ (s.reelAt r).runs ∧ (s.reelAt r).countdown ≤ 1 then cueReel false r s else s

def execReelItemEnd (r : Nat) (s : State) : StepOutcome := .next (whenTicking (itemEndDue r) s)

/-- A start line's share of the tick that completes its debounce time (R138), during start-up too (log 44). -/
def lineDue (i : Nat) (s : State) : State :=
  if (s.lineEntry i).debounce ≤ (s.lineState i).count + 1 then sampleLine i (otherLevel (s.lineState i).stable) s else s

def execStartLineQualified (i : Nat) (s : State) : StepOutcome := .next (whenTicking (lineDue i) s)

/-- The alert line's share of the tick that qualifies a change to or from its active level (R141). -/
def alertDue (active : Bool) (s : State) : State :=
  let level := otherLevel s.house.alertLine.stable
  if s.house.alertEntry.debounce ≤ s.house.alertLine.count + 1 ∧
      readsActive s.house.alertEntry.polarity level = active then sampleAlert level s
  else s

def execAlertLineActive (s : State) : StepOutcome := .next (whenRunning (alertDue true) s)

def execAlertLineInactive (s : State) : StepOutcome := .next (whenRunning (alertDue false) s)

/-- The chime's share of the tick that ends a note (R134). -/
def noteDue (s : State) : State :=
  match s.chime.playing with
  | some pl => if pl.left ≤ 1 then chimeTick s else s
  | none => s

def execChimeNoteEnd (s : State) : StepOutcome := .next (whenTicking noteDue s)

/-- The ONCE notices' share of a minute boundary that ends some (R125): taken at any second of a VALID clock, the lives
of notices that are not due left as they are, which is the model's choice (log 4). -/
def noticesDue (s : State) : State := if s.shows.clock.valid then expireNotices s else s

def execNoticeExpiry (s : State) : StepOutcome := .next (whenTicking noticesDue s)

/-- The REPEAT notices' share of a minute boundary that reaches an interval (R126): taken at any second of a VALID clock,
the intervals of notices that are not due left as they are, which is the model's choice (log 4). -/
def intervalsDue (s : State) : State := if s.shows.clock.valid then reachIntervals s else s

def execNoticeInterval (s : State) : StepOutcome := .next (whenTicking intervalsDue s)

end Sys2Proof.Machine
end

