-- ==== Sys2Proof/Machine/ExecHouse.lean ====
section
/-! DEFINITION. The House Line Unit's and the Change Journal's requests (R137, R141, R143, R150, R165). -/

namespace Sys2Proof.Machine

def setStartLine (line aud edge debounce : Nat) : Owner := fun s =>
  if storeBusy s then deny .storeBusy s
  else match edgeOf edge with
    | none => deny .badArgument s
    | some e =>
      if 15 < line ∨ 16 < aud then deny .badArgument s
      else
        let d := clampTo 10 500 debounce
        (s.withHouse { s.house with map := s.house.map.set line ⟨aud, e, d⟩ }, okMarked (d != debounce) [])

def execSetStartLine (h : Hdr) (line aud edge debounce : Nat) (s : State) : StepOutcome :=
  request (.setStartLine h line aud edge debounce) (setStartLine line aud edge debounce) s

/-- The alert line's settings written, its stable level read anew when the polarity changes (R141). -/
def writeAlertEntry (p : Polarity) (d : Nat) (s : State) : State :=
  let level := s.house.alertLine.stable
  let before := readsActive s.house.alertEntry.polarity level
  let s1 := s.withHouse { s.house with alertEntry := ⟨p, d⟩ }
  if before = readsActive p level then s1 else readingChanged (readsActive p level) s1

def setAlertLine (polarity debounce : Nat) : Owner := fun s =>
  if storeBusy s then deny .storeBusy s
  else match polarityOf polarity with
    | none => deny .badArgument s
    | some p =>
      let d := clampTo 10 500 debounce
      (writeAlertEntry p d s, okMarked (d != debounce) [])

def execSetAlertLine (h : Hdr) (polarity debounce : Nat) (s : State) : StepOutcome :=
  request (.setAlertLine h polarity debounce) (setAlertLine polarity debounce) s

def clearAlert : Owner := fun s =>
  match s.house.alert with
  | .normal => deny .noAlert s
  | .alert => deny .alertActive s
  | .held => (alertReturn s, okWith [])

def execClearAlert (h : Hdr) (s : State) : StepOutcome := request (.clearAlert h) clearAlert s

def readAlert : Owner := fun s => (s, okWith (w1 s.house.alert.code))

def execReadAlert (h : Hdr) (s : State) : StepOutcome := request (.readAlert h) readAlert s

def wLineState (l : LineState) : List Byte := w1 (levelCode l.stable) ++ w2 l.count

/-- The sixteen entries, each with its line's level and count, then the alert line and the alert state (R150). -/
def readHouseLines : Owner := fun s =>
  (s, okWith
    ((List.range 16).flatMap (fun i =>
        w1 (s.lineEntry i).aud ++ w1 (s.lineEntry i).edge.code ++ w2 (s.lineEntry i).debounce ++
          wLineState (s.lineState i)) ++
      w1 s.house.alertEntry.polarity.code ++ w2 s.house.alertEntry.debounce ++ wLineState s.house.alertLine ++
      w1 s.house.alert.code))

def execReadHouseLines (h : Hdr) (s : State) : StepOutcome := request (.readHouseLines h) readHouseLines s

/-! ### The journal -/

/-- A target: its kind's position in the list of R153, then its parameter without a presence byte, and nothing after a
kind whose parameter is none; that form is the model's choice (log 15). -/
def wTarget : Target → List Byte
  | .boardLine k => w1 0 ++ w2 k
  | .door a => w1 1 ++ w1 a
  | .title i => w1 2 ++ w1 i
  | .reel r => w1 3 ++ w1 r
  | .notices => w1 4
  | .alert => w1 5

/-- Read Journal (R165). A start position of 64 to 255, outside the rule's range, is answered as one at or beyond N, which
is the model's choice (log 42). -/
def readJournal (start : Nat) : Owner := fun s =>
  (s, okWith (w2 s.journal.cur ++ w2 s.journal.floor ++ w1 s.journal.entries.length ++
    wList (fun e : Entry => w2 e.rev ++ wTarget e.target ++ w1 e.form.code)
      ((s.journal.entries.drop start).take 16)))

def execReadJournal (h : Hdr) (start : Nat) (s : State) : StepOutcome :=
  request (.readJournal h start) (readJournal start) s

end Sys2Proof.Machine
end

