-- ==== Sys2Proof/Machine/ExecNotices.lean ====
section
/-! DEFINITION. The Notice Queue's and the Chime Unit's requests (R121 to R124, R127, R129, R133). -/

namespace Sys2Proof.Machine

/-! ### Posting -/

/-- The scope of a posting, when it is one (R121). -/
def scopeOf : ScopeArg → Option Scope
  | .all => some .all
  | .groups m => if m = 0 then none else some (.groups m)
  | .door a => if a = 0 ∨ 16 < a then none else some (.door a)
  | .unknown _ => none

/-- The life of a posting, clamped, when a request may give it (R121). -/
def lifeOf : LifeArg → Option Life
  | .once n => some (.once (clampTo 1 240 n))
  | .repeats n => some (.repeats (clampTo 1 60 n) (clampTo 1 60 n))
  | .standing => none
  | .unknown _ => none

/-- A life or interval was clamped (R121). -/
def lifeClamped : LifeArg → Bool
  | .once n => clampTo 1 240 n != n
  | .repeats n => clampTo 1 60 n != n
  | _ => false

/-- The life or interval as set, as the answer gives it (R121). -/
def Life.minutes : Life → Nat
  | .once n => n
  | .repeats i _ => i
  | .standing => 0

/-- The class is allowed on the port (R122). -/
def classPermitted : Port → NoticeClass → Bool
  | _, .desk => true
  | _, .info => true
  | .programme, .delay => true
  | .programme, .cancel => true
  | _, _ => false

/-- The origin a port's posting has (R121). -/
def originOf (h : Hdr) : Origin :=
  match h.port with
  | .programme => .programme
  | p => .sales p h.terminal

/-- A posting whose fields are all of their kind (step 1 of R121): the show key for DELAY and CANCEL, and the minutes
for DELAY, must be there; the other classes link no show. -/
structure Posting where
  cls : NoticeClass
  prio : Priority
  scope : Scope
  text : List Byte
  life : Life
  key : Option Nat
  minutes : Nat
  deriving DecidableEq, Repr

/-- A class that names a show. -/
def NoticeClass.links : NoticeClass → Bool
  | .delay => true
  | .cancel => true
  | _ => false

/-- Step 1 of R121. A show key or minutes that the class does not call for (either on DESK, INFO or EVACUATE, minutes on
CANCEL) are neither refused nor used: that is the model's choice (log 43). -/
def postingOf (cls prio : Nat) (scope : ScopeArg) (text : List Byte) (life : LifeArg) (key minutes : Option Nat) :
    Option Posting :=
  match classOf cls, priorityOf prio, scopeOf scope, lifeOf life with
  | some c, some p, some sc, some l =>
    if 48 < text.length ∨ textOk text = false ∨ (c.links = true ∧ key = none) ∨ (c = .delay ∧ minutes = none) then none
    else some ⟨c, p, sc, text, l, if c.links then key else none, minutes.getD 0⟩
  | _, _, _, _ => none

/-- The delay a DELAY posting asks for, clamped (R127). -/
def delayAsked (sh : Show) (minutes : Nat) : Nat := Nat.min minutes (delayBound sh.start)

/-- The state of the named show refuses the class (step 4 of R121; R127, R129). -/
def stateRefusal (c : NoticeClass) (sh : Show) : Option Result :=
  match c with
  | .delay => if sh.state.pastAmending then some .notDelayable else none
  | .cancel => if sh.state.cancellable then none else some .notAmendable
  | _ => none

/-- The queue a posting finds: a DELAY posting withdraws the show's live DELAY notice first (R127 step 1). -/
def queueFor (x : Posting) (q : NoticeQueue) : NoticeQueue :=
  match x.cls, x.key with
  | .delay, some k => q.dropAll (q.slotsWhere (isDelayOf k))
  | _, _ => q

/-- The request posts a notice: all but a DELAY posting whose clamped delay is 0 (R127). -/
def postsNotice (x : Posting) (sh : Option Show) : Bool :=
  match x.cls, sh with
  | .delay, some sh => 0 < delayAsked sh x.minutes
  | _, _ => true

/-- The named show. -/
def namedShow (s : State) (x : Posting) : Option Show := x.key.bind s.findShow

/-- Steps 2 to 6 of R121. -/
def postRefusal (s : State) (p : Port) (x : Posting) : Option Result :=
  if classPermitted p x.cls = false then some .notPermitted
  else if x.cls.links ∧ (namedShow s x).isNone then some .noSuchShow
  else match (namedShow s x).bind (stateRefusal x.cls) with
    | some c => some c
    | none =>
      if p ≠ .programme ∧ Config.noticeLimit ≤ s.notice.portLive p then some .noticeLimit
      else if postsNotice x (namedShow s x) ∧ ((queueFor x s.notice).freeSlot).isNone then some .noticeFull
      else none

/-- The posting as a notice. -/
def Posting.notice (h : Hdr) (x : Posting) : Notice :=
  ⟨originOf h, x.cls, x.prio, x.scope, x.text, x.life, x.key, 0⟩

/-- The notice takes the lowest FREE slot (R119). -/
def takeSlot (h : Hdr) (x : Posting) (s : State) : State :=
  s.withNotice (s.notice.post (s.notice.freeSlot.getD 0) (x.notice h))

/-- A HIGH posting hands an ATTENTION trigger (R121). -/
def announce (x : Posting) (s : State) : State := if x.prio = .high then chimeTrigger .attention s else s

/-- A DESK or INFO posting (R121). -/
def postPlain (h : Hdr) (x : Posting) (s : State) : State := fileNotices (announce x (takeSlot h x s))

/-- A CANCEL posting (R129): NOTICES is filed once, the DELAY notice of the show leaving with the same filing. That it is
filed after the show's lines is the model's choice (R162, log 10). -/
def postCancel (h : Hdr) (x : Posting) (key : Nat) (s : State) : State :=
  let s1 := takeSlot h x s
  let s2 := s1.withNotice (s1.notice.dropAll (s1.notice.slotsWhere (isDelayOf key)))
  fileNotices (announce x (enterState true key .cancelled none s2))

/-- The evaluation that a change of delay to `d` brings carries the show into RUNNING (R5, R11). -/
def entersRunning (s : State) (sh : Show) (d : Nat) : Bool :=
  d != sh.delay && !sh.state.pastAmending &&
    (({ sh with delay := d } : Show).evaluated s.policy s.shows.clock).state.pastAmending

/-- The withdrawal of the notice just posted, when its show enters RUNNING within the request (R127, R128): before the
one filing of the request, so that the evaluation finds none to withdraw. -/
def withdrawPosted (x : Posting) (sh : Show) (d : Nat) (s : State) : State :=
  if entersRunning s sh d then s.withNotice (queueFor x s.notice) else s

/-- A DELAY posting (R127, its five steps): NOTICES is filed once, when the queue changed (log 10). -/
def postDelay (h : Hdr) (x : Posting) (sh : Show) (s : State) : State :=
  let d := delayAsked sh x.minutes
  let s1 := (s.withNotice (queueFor x s.notice)).modifyShow sh.key (fun y => { y with delay := d })
  let s2 := if 0 < d then announce x (takeSlot h x s1) else s1
  let s3 := withdrawPosted x sh d s2
  let s4 := if 0 < d ∨ queueFor x s.notice ≠ s.notice then fileNotices s3 else s3
  if d = sh.delay then s4 else startChanged sh.key sh.aud s4

/-- The slot and generation a posting takes. -/
def postedId (x : Posting) (s : State) : Nat × Nat :=
  let slot := (queueFor x s.notice).freeSlot.getD 0
  (slot, ((s.noticeSlot slot).gen + 1) % 256)

/-- The answer to a posting taken (R121, R127). A DELAY posting of delay 0 is answered without an id: its body is empty,
which is the model's choice (log 15). -/
def postAnswer (s : State) (life : LifeArg) (x : Posting) : Reply :=
  let sh := namedShow s x
  let cut := match x.cls, sh with
    | .delay, some sh => delayAsked sh x.minutes != x.minutes
    | _, _ => false
  okMarked (lifeClamped life || cut)
    (if postsNotice x sh then w1 (postedId x s).1 ++ w1 (postedId x s).2 ++ w1 x.life.minutes else [])

def postNotice (h : Hdr) (cls prio : Nat) (scope : ScopeArg) (text : List Byte) (life : LifeArg)
    (key minutes : Option Nat) : Owner := fun s =>
  match postingOf cls prio scope text life key minutes with
  | none => deny .badArgument s
  | some x =>
    match postRefusal s h.port x with
    | some c => deny c s
    | none =>
      (match x.cls, namedShow s x with
        | .delay, some sh => postDelay h x sh s
        | .cancel, some sh => postCancel h x sh.key s
        | _, _ => postPlain h x s,
        postAnswer s life x)

def execPostNotice (h : Hdr) (cls prio : Nat) (scope : ScopeArg) (text : List Byte) (life : LifeArg)
    (key minutes : Option Nat) (s : State) : StepOutcome :=
  request (.postNotice h cls prio scope text life key minutes)
    (postNotice h cls prio scope text life key minutes) s

/-! ### Withdrawing and reading -/

/-- The origin is this sales port. -/
def Origin.isPort (o : Origin) (p : Port) : Bool :=
  match o with
  | .sales q _ => q == p
  | _ => false

/-- NOTICE_ENDED when the Programme Port withdraws a sales port's notice (R123). -/
def raiseWithdrawn (p : Port) (n : Notice) (s : State) : State :=
  match p, n.origin with
  | .programme, .sales q _ => raise q .noticeEnded s
  | _, _ => s

def withdrawNotice (p : Port) (slot gen : Nat) : Owner := fun s =>
  if 31 < slot then deny .badArgument s
  else match (s.noticeSlot slot).notice with
    | none => deny .badArgument s
    | some n =>
      if (s.noticeSlot slot).gen ≠ gen then deny .badArgument s
      else if slot = 31 then deny .notPermitted s
      else if p ≠ .programme ∧ n.origin.isPort p = false then deny .notOwner s
      else (fileNotices (raiseWithdrawn p n (s.withNotice (s.notice.drop slot))), okWith [])

def execWithdrawNotice (h : Hdr) (slot gen : Nat) (s : State) : StepOutcome :=
  request (.withdrawNotice h slot gen) (withdrawNotice h.port slot gen) s

def wOrigin : Origin → List Byte
  | .sales .salesA t => w1 0 ++ [t]
  | .sales .salesB t => w1 1 ++ [t]
  | .sales .programme _ => w1 2
  | .programme => w1 2
  | .house => w1 3

def wScope : Scope → List Byte
  | .all => w1 0
  | .groups m => w1 1 ++ [m]
  | .door a => w1 2 ++ w1 a

/-- Life mode, life left, interval, interval left (R118). -/
def wLife : Life → List Byte
  | .once n => w1 0 ++ wOpt w1 (some n) ++ wOpt w1 none ++ wOpt w1 none
  | .repeats i n => w1 1 ++ wOpt w1 none ++ wOpt w1 (some i) ++ wOpt w1 (some n)
  | .standing => w1 2 ++ wOpt w1 none ++ wOpt w1 none ++ wOpt w1 none

/-- A notice with its id (R124). -/
def wNotice (x : Nat × Nat × Notice) : List Byte :=
  w1 x.1 ++ w1 x.2.1 ++ wOrigin x.2.2.origin ++ w1 x.2.2.cls.code ++ w1 x.2.2.prio.code ++ wScope x.2.2.scope ++
    wText x.2.2.text ++ wLife x.2.2.life ++ wOpt w2 x.2.2.linked

def readNotices : Owner := fun s => (s, okWith (wList wNotice (queueOrder s.notice)))

def execReadNotices (h : Hdr) (s : State) : StepOutcome := request (.readNotices h) readNotices s

/-! ### The chime -/

def clampNote (x : Nat × Nat) : Note := ⟨clampTo 16 255 x.1, clampTo 1 40 x.2⟩

def ChimeUnit.withPattern (c : ChimeUnit) (p : ChimePattern) (notes : List Note) : ChimeUnit :=
  match p with
  | .attention => { c with attention := notes }
  | .reminder => { c with reminder := notes }
  | .alarm => { c with alarm := notes }

def setChimePattern (pattern : Nat) (notes : List (Nat × Nat)) : Owner := fun s =>
  if storeBusy s then deny .storeBusy s
  else match patternOf pattern with
    | none => deny .badArgument s
    | some p =>
      if notes.length < 1 ∨ 4 < notes.length then deny .badArgument s
      else
        (s.withChime (s.chime.withPattern p (notes.map clampNote)),
          okMarked (notes.any (fun x => (clampNote x).divider != x.1 || (clampNote x).length != x.2)) [])

def execSetChimePattern (h : Hdr) (pattern : Nat) (notes : List (Nat × Nat)) (s : State) : StepOutcome :=
  request (.setChimePattern h pattern notes) (setChimePattern pattern notes) s

def wNotes (l : List Note) : List Byte := wList (fun n : Note => w1 n.divider ++ w1 n.length) l

/-- Three patterns, IDLE or PLAYING, the pattern in progress and the pending one (R133). -/
def readChime : Owner := fun s =>
  let c := s.chime
  (s, okWith (wNotes c.attention ++ wNotes c.reminder ++ wNotes c.alarm ++ w1 (if c.playing.isSome then 1 else 0) ++
    wOpt (fun x : Playing => w1 x.pattern.code) c.playing ++ wOpt (fun p : ChimePattern => w1 p.code) c.pending))

def execReadChime (h : Hdr) (s : State) : StepOutcome := request (.readChime h) readChime s

end Sys2Proof.Machine
end

