-- ==== Sys2Proof/Machine/ExecPorts.lean ====
section
/-! DEFINITION. The ports' own requests and events (R191, R193, R194, R198 to R200). -/

namespace Sys2Proof.Machine

/-- A word in an answer or request of a port: one byte on a sales port, two on the Programme Port (log 14). -/
def wCauses (p : Port) (w : Word) : List Byte :=
  match p with
  | .programme => w2 w.toNat
  | _ => w1 w.toNat

def readCauses (p : Port) : Owner := fun s =>
  (s.withPortAt p { s.portAt p with causes := 0 },
    okWith (wCauses p (s.portAt p).causes ++ wCauses p (s.portAt p).mask))

def execReadCauses (h : Hdr) (s : State) : StepOutcome := request (.readCauses h) (readCauses h.port) s

def setCauseMask (p : Port) (mask : Nat) : Owner := fun s =>
  if 2 ^ causeBits p ≤ mask then deny .badArgument s
  else
    let w := BitVec.ofNat 16 mask
    (s.withPortAt p { s.portAt p with mask := w }, okWith (wCauses p w))

def execSetCauseMask (h : Hdr) (mask : Nat) (s : State) : StepOutcome :=
  request (.setCauseMask h mask) (setCauseMask h.port mask) s

/-- The port a selector names (R200). -/
def selectedPort (own : Port) : Nat → Option Port
  | 0 => some own
  | 1 => some .salesA
  | 2 => some .salesB
  | 3 => some .programme
  | _ => none

def Receiver.code : Receiver → Nat
  | .hunting => 0
  | .inFrame _ _ => 1

/-- The fields of R200 in its order. -/
def wPort (p : Port) (x : PortState) : List Byte :=
  w1 x.frameErrors ++ w1 x.busy ++ w1 x.unanswered ++ w1 x.waiting.length ++ wFlag x.execution.isSome ++
    w1 x.answers.length ++ w1 x.receiver.code ++ wCauses p x.causes ++ wCauses p x.mask

/-- The three counts set to 0. -/
def PortState.cleared (x : PortState) : PortState := { x with frameErrors := 0, busy := 0, unanswered := 0 }

def readPortStatus (own : Port) (selector : Nat) (clear : Bool) : Owner := fun s =>
  match selectedPort own selector with
  | none => deny .badArgument s
  | some p =>
    if own ≠ .programme ∧ p ≠ own then deny .notPermitted s
    else (if clear then s.withPortAt p (s.portAt p).cleared else s, okWith (wPort p (s.portAt p)))

def execReadPortStatus (h : Hdr) (selector : Nat) (clear : Bool) (s : State) : StepOutcome :=
  request (.readPortStatus h selector clear) (readPortStatus h.port selector clear) s

/-! ### Events -/

/-- An event at one port's own state. -/
def atPort (p : Port) (f : PortState → PortState) (s : State) : State := s.withPortAt p (f (s.portAt p))

def execRequestFrame (p : Port) (bytes : List Byte) (s : State) : StepOutcome :=
  .next (whenRunning (atPort p (PortState.complete p bytes)) s)

def execPortByteReceived (p : Port) (byte : Byte) (stopLow : Bool) (s : State) : StepOutcome :=
  .next (whenRunning (atPort p (PortState.takeByte p byte stopLow)) s)

def execFrameGapTimeout (p : Port) (s : State) : StepOutcome := .next (whenRunning (atPort p PortState.gapDue) s)

def execAnswerSent (p : Port) (s : State) : StepOutcome := .next (whenRunning (atPort p (PortState.sent p)) s)

end Sys2Proof.Machine
end

