-- ==== Sys2Proof/Machine/ExecReels.lean ====
section
/-! DEFINITION. The Reel Unit's requests (R94, R95, R98 to R101, R109, R110, R117). -/

namespace Sys2Proof.Machine

/-! ### Spots -/

/-- The library with a spot of this key made or redefined (R94). -/
def placeSpot (record key media duration : Nat) (title : Option Nat) (l : List Spot) : List Spot :=
  if l.any (fun sp => sp.key == key) then
    l.map (fun sp => if sp.key = key then { sp with media := media, duration := duration, title := title } else sp)
  else insertBy (fun a b => decide (a.key < b.key)) ⟨key, record, media, duration, title⟩ l

def defineSpot (key media duration : Nat) (title : Option Nat) : Owner := fun s =>
  if storeBusy s then deny .storeBusy s
  else if key = 0 ∨ 63 < title.getD 0 then deny .badArgument s
  else if (s.findSpot key).isNone ∧ s.freeSpotRecord.isNone then deny .tableFull s
  else
    let d := clampTo 5 180 duration
    (s.withReel { s.reel with spots := placeSpot (s.freeSpotRecord.getD 0) key media d title s.reel.spots },
      okMarked (d != duration) [])

def execDefineSpot (h : Hdr) (key media duration : Nat) (title : Option Nat) (s : State) : StepOutcome :=
  request (.defineSpot h key media duration title) (defineSpot key media duration title) s

/-- The reels whose slot lists name a spot (R95, R117). R117 gives its answer no order of them: ascending is the model's
choice (log 15). -/
def reelsNaming (s : State) (key : Nat) : List Nat :=
  (List.range 4).filter (fun r => (s.reelAt r).slots.contains key)

def removeSpot (key : Nat) : Owner := fun s =>
  if storeBusy s then deny .storeBusy s
  else if (s.findSpot key).isNone then deny .badArgument s
  else if (reelsNaming s key).isEmpty then
    (s.withReel { s.reel with spots := s.reel.spots.filter (fun sp => sp.key != key) }, okWith [])
  else deny .inUse s

def execRemoveSpot (h : Hdr) (key : Nat) (s : State) : StepOutcome := request (.removeSpot h key) (removeSpot key) s

def readSpot (key : Nat) : Owner := fun s =>
  match s.findSpot key with
  | none => deny .badArgument s
  | some sp =>
    (s, okWith (w2 sp.key ++ w2 sp.media ++ w1 sp.duration ++ wOpt w1 sp.title ++ w1 sp.record ++
      wList w1 (reelsNaming s key)))

def execReadSpot (h : Hdr) (key : Nat) (s : State) : StepOutcome := request (.readSpot h key) (readSpot key) s

/-! ### Building and clearing -/

/-- n of R98. -/
def weightSum (items : List (Nat × Nat)) : Nat := (items.map (·.2)).sum

/-- The tests of R98. -/
def buildRefusal (s : State) (r : Nat) (items : List (Nat × Nat)) : Option Result :=
  if storeBusy s then some .storeBusy
  else if 3 < r ∨ items.any (fun x => decide (x.2 < 1) || decide (4 < x.2) || (s.findSpot x.1).isNone) then
    some .badArgument
  else if weightSum items = 0 then some .reelEmpty
  else if 24 < weightSum items then some .reelTooLong
  else none

/-- The reel with a new slot list, its item cut off (R100, R101). -/
def Reel.replaced (slots : List Nat) (x : Reel) : Reel :=
  { x with slots := slots, cursor := 0, item := .none, countdown := 0, state := .stopped }

/-- A reel without an item is cued from its cursor, or held while the alert state is not NORMAL (R100, R110). -/
def cueOrHold (r : Nat) (s : State) : State :=
  if s.house.alert = .normal then cueReel true r s
  else fileReel r (s.withReelAt r { s.reelAt r with state := .held })

def buildReel (r : Nat) (items : List (Nat × Nat)) (step : Nat) : Owner := fun s =>
  match buildRefusal s r items with
  | some c => deny c s
  | none =>
    let slots := buildSlots items step
    (cueOrHold r (s.withReelAt r ((s.reelAt r).replaced slots)), okWith (wList w2 slots))

def execBuildReel (h : Hdr) (r : Nat) (items : List (Nat × Nat)) (step : Nat) (s : State) : StepOutcome :=
  request (.buildReel h r items step) (buildReel r items step) s

def clearReel (r : Nat) : Owner := fun s =>
  if storeBusy s then deny .storeBusy s
  else if 3 < r then deny .badArgument s
  else
    let x := s.reelAt r
    let s1 := s.withReelAt r (x.replaced [])
    (if x.state = .stopped ∧ x.slots = [] then s1 else fileReel r s1, okWith [])

def execClearReel (h : Hdr) (r : Nat) (s : State) : StepOutcome := request (.clearReel h r) (clearReel r) s

/-! ### Stopping, starting, reading -/

def stopReel (r : Nat) : Owner := fun s =>
  if 3 < r then deny .badArgument s
  else
    let x := s.reelAt r
    (if x.state = .stopped then s
      else fileReel r (s.withReelAt r { x with item := .none, countdown := 0, state := .stopped }), okWith [])

def execStopReel (h : Hdr) (r : Nat) (s : State) : StepOutcome := request (.stopReel h r) (stopReel r) s

def startReel (r : Nat) : Owner := fun s =>
  if 3 < r then deny .badArgument s
  else if (s.reelAt r).slots = [] then deny .reelEmpty s
  else (if (s.reelAt r).state = .stopped then cueOrHold r s else s, okWith [])

def execStartReel (h : Hdr) (r : Nat) (s : State) : StepOutcome := request (.startReel h r) (startReel r) s

/-- Every field of R96 in the order of R117. R96 gives the countdown of an item NONE as 0, and R117 lists it "when
present" without saying when it is not: that the countdown stands behind a presence byte, absent exactly when the item is
NONE, is the model's choice (log 15). -/
def wReel (x : Reel) : List Byte :=
  let item := if x.item = .none then none else some x.item
  wList w2 x.slots ++ w1 x.cursor ++ w1 x.state.code ++ w1 x.item.code ++
    wOpt (fun i => match i with | .spot m _ | .filler m _ => w2 m | .none => []) item ++
    wOpt (fun i => match i with | .spot _ d | .filler _ d => w1 d | .none => []) item ++
    wOpt (fun _ => w1 x.countdown) item ++ w2 x.plays

def readReel (r : Nat) : Owner := fun s =>
  if 3 < r then deny .badArgument s else (s, okWith (wReel (s.reelAt r)))

def execReadReel (h : Hdr) (r : Nat) (s : State) : StepOutcome := request (.readReel h r) (readReel r) s

end Sys2Proof.Machine
end

