-- ==== Sys2Proof/Machine/ExecSeats.lean ====
section
/-! DEFINITION. The programme server's requests on seats (R30 to R33, R53, R54). -/

namespace Sys2Proof.Machine

/-- The first tests of R30: the show, then the zone. -/
def zoneRequest (key zone : Nat) (act : Show → Zone → Owner) : Owner := fun s =>
  match s.findShow key with
  | none => deny .noSuchShow s
  | some sh =>
    match zoneOf zone with
    | none => deny .badArgument s
    | some z => act sh z s

/-- A change of one zone's counts, the availability computation, and the answer. -/
def countsChanged (key : Nat) (f : Show → Show) (body : List Byte) : Owner := fun s =>
  (availability key (s.modifyShow key f), okWith body)

def setCapacity (key zone value : Nat) : Owner :=
  zoneRequest key zone (fun sh z s =>
    if 1023 < value then deny .badArgument s
    else if value < (sh.zone z).committed then deny .belowCommitted s
    else if value = (sh.zone z).cap then (s, okWith [])
    else countsChanged key (setCap z value) [] s)

def execSetCapacity (h : Hdr) (key zone value : Nat) (s : State) : StepOutcome :=
  request (.setCapacity h key zone value) (setCapacity key zone value) s

def withhold (key zone n : Nat) : Owner :=
  zoneRequest key zone (fun sh z s =>
    if n < 1 ∨ 1023 < n then deny .badArgument s
    else if (sh.zone z).available < n then deny .notEnough s
    else countsChanged key (addWithheld z n) [] s)

def execWithhold (h : Hdr) (key zone n : Nat) (s : State) : StepOutcome :=
  request (.withhold h key zone n) (withhold key zone n) s

def unwithhold (key zone n : Nat) : Owner :=
  zoneRequest key zone (fun sh z s =>
    if n < 1 ∨ 1023 < n then deny .badArgument s
    else if (sh.zone z).withheld < n then deny .notWithheld s
    else countsChanged key (subWithheld z n) [] s)

def execUnwithhold (h : Hdr) (key zone n : Nat) (s : State) : StepOutcome :=
  request (.unwithhold h key zone n) (unwithhold key zone n) s

def readSeatStatus (clear : Bool) : Owner := fun s =>
  let u := s.seat
  (if clear then s.withSeat { u with highWater := s.activeHolds } else s,
    okWith (w1 s.activeHolds ++ w1 u.free.length ++ w1 u.countA ++ w1 u.countB ++ w1 s.policy.quotaA ++
      w1 s.policy.quotaB ++ w1 u.highWater))

def execReadSeatStatus (h : Hdr) (clear : Bool) (s : State) : StepOutcome :=
  request (.readSeatStatus h clear) (readSeatStatus clear) s

/-- A port as an answer names it, by its place among Sales Port A, Sales Port B and the Programme Port. -/
def portCode : Port → Nat
  | .salesA => 0
  | .salesB => 1
  | .programme => 2

/-- The hold a slot records, in progress or ended (R46). -/
def HoldUse.info : HoldUse → Option HoldInfo
  | .never => none
  | .active i _ => some i
  | .ended i _ => some i
def HoldUse.life : HoldUse → Option Nat
  | .active _ l => some l
  | _ => none
def HoldUse.reason : HoldUse → Option EndReason
  | .ended _ r => some r
  | _ => none

/-- The place of a slot in the free list, from 1 at the head (R54). -/
def freePosition (u : SeatUnit) (slot : Nat) : Option Nat :=
  if u.free.contains slot then some (u.free.idxOf slot + 1) else none

def wHoldSlot (x : HoldSlot) (pos : Option Nat) : List Byte :=
  w1 x.gen ++ wOpt (fun i => w2 i.key) x.use.info ++ wOpt (fun i => w1 i.zone.code) x.use.info ++
    wOpt (fun i => w1 i.seats) x.use.info ++ wOpt (fun i => w1 (portCode i.port) ++ [i.terminal]) x.use.info ++
    wOpt w2 x.use.life ++ wOpt (fun i => w1 i.extensions) x.use.info ++ wOpt (fun r => w1 r.code) x.use.reason ++
    wOpt w1 pos

def readHold (slot : Nat) : Owner := fun s =>
  if Config.holdSlots ≤ slot then deny .badArgument s
  else (s, okWith (wHoldSlot (s.holdSlot slot) (freePosition s.seat slot)))

def execReadHold (h : Hdr) (slot : Nat) (s : State) : StepOutcome := request (.readHold h slot) (readHold slot) s

end Sys2Proof.Machine
end

