-- ==== Sys2Proof/Machine/ExecSales.lean ====
section
/-! DEFINITION. The sales requests of the Seat Unit (R56 to R65). -/

namespace Sys2Proof.Machine

/-- Steps 1 to 5 of R56. -/
def saleRefusal (s : State) (key zone count : Nat) : Option Result :=
  match zoneOf zone with
  | none => some .badArgument
  | some z =>
    if count < 1 ∨ 16 < count then some .badArgument
    else if s.house.alert ≠ .normal then some .houseAlert
    else match s.findShow key with
      | none => some .noSuchShow
      | some sh =>
        if sh.state.sells = false then some .notSelling
        else if (sh.zone z).available < count then some .notEnough
        else none

/-- Steps 1 to 7 of R56. -/
def holdRefusal (s : State) (p : Port) (key zone count : Nat) : Option Result :=
  match saleRefusal s key zone count with
  | some c => some c
  | none =>
    if s.policy.quota p ≤ s.seat.portCount p then some .quotaFull
    else if s.seat.free.isEmpty then some .tableFull
    else none

/-- The zone a code names, once the tests have passed. -/
def zoneAt (zone : Nat) : Zone := (zoneOf zone).getD .standard

/-- The grant of R57, without the computation that follows. -/
def grantHold (h : Hdr) (key zone count : Nat) (s : State) : State :=
  let slot := s.seat.free.headD 0
  (s.withSeat (s.seat.grant slot ⟨key, zoneAt zone, count, h.port, h.terminal, 0⟩ s.policy.holdLife)).modifyShow key
    (addHeld (zoneAt zone) count)

def holdSeats (h : Hdr) (key zone count : Nat) : Owner := fun s =>
  match holdRefusal s h.port key zone count with
  | some c => deny c s
  | none =>
    let slot := s.seat.free.headD 0
    let s1 := grantHold h key zone count s
    (availability key s1, okWith (w1 slot ++ w1 (s1.holdSlot slot).gen ++ w2 s.policy.holdLife))

def execHoldSeats (h : Hdr) (key zone count : Nat) (s : State) : StepOutcome :=
  request (.holdSeats h key zone count) (holdSeats h key zone count) s

/-- HOLD_ENDED with its reason (R49, section 10.4). -/
def holdEnded (r : EndReason) : Reply := ⟨.holdEnded, false, w1 r.code⟩

/-- The lookup of R49: the ACTIVE hold with its life, or the answer. A hold that a tick has expired is answered
HOLD_ENDED(EXPIRED) to every request, also to an Extend Hold that would have been refused EXTEND_LIMIT before that tick:
where the sentences of R72 differ, that is the model's choice (log 37). -/
def lookupHold (p : Port) (slot gen : Nat) (s : State) : Except Reply (HoldInfo × Nat) :=
  if Config.holdSlots ≤ slot then .error (refuse .badArgument)
  else if (s.holdSlot slot).gen ≠ gen then .error (refuse .unknownHold)
  else match (s.holdSlot slot).use with
    | .never => .error (refuse .unknownHold)
    | .ended info r => .error (if info.port = p then holdEnded r else refuse .notOwner)
    | .active info life => if info.port = p then .ok (info, life) else .error (refuse .notOwner)

/-- A request on a hold, once it is found. -/
def holdRequest (p : Port) (slot gen : Nat) (act : HoldInfo → Nat → Owner) : Owner := fun s =>
  match lookupHold p slot gen s with
  | .error r => (s, r)
  | .ok x => act x.1 x.2 s

/-- Show key, zone and seat count. -/
def wSeats (key : Nat) (z : Zone) (count : Nat) : List Byte := w2 key ++ w1 z.code ++ w1 count

def confirmHold (p : Port) (slot gen : Nat) : Owner :=
  holdRequest p slot gen (fun info _ s =>
    (availability info.key ((endHold slot .confirmed s).modifyShow info.key (addSold info.zone info.seats)),
      okWith (wSeats info.key info.zone info.seats)))

def execConfirmHold (h : Hdr) (slot gen : Nat) (s : State) : StepOutcome :=
  request (.confirmHold h slot gen) (confirmHold h.port slot gen) s

def releaseHold (p : Port) (slot gen : Nat) : Owner :=
  holdRequest p slot gen (fun info _ s =>
    (availability info.key (endHold slot .released s), okWith (wSeats info.key info.zone info.seats)))

def execReleaseHold (h : Hdr) (slot gen : Nat) (s : State) : StepOutcome :=
  request (.releaseHold h slot gen) (releaseHold h.port slot gen) s

/-- Extend Hold (R60); EXTEND_LIMIT is an ACTIVE hold's answer alone (log 37). -/
def extendHold (p : Port) (slot gen : Nat) : Owner := fun s =>
  if Config.holdSlots ≤ slot then deny .badArgument s
  else if s.house.alert ≠ .normal then deny .houseAlert s
  else holdRequest p slot gen (fun info _ s =>
    if s.policy.holdExtends ≤ info.extensions then deny .extendLimit s
    else
      (s.withHoldSlot slot
        ⟨gen, .active { info with extensions := info.extensions + 1 } s.policy.holdLife⟩,
        okWith (w2 s.policy.holdLife ++ w1 (s.policy.holdExtends - (info.extensions + 1))))) s

def execExtendHold (h : Hdr) (slot gen : Nat) (s : State) : StepOutcome :=
  request (.extendHold h slot gen) (extendHold h.port slot gen) s

def queryHold (p : Port) (slot gen : Nat) : Owner :=
  holdRequest p slot gen (fun info life s =>
    (s, okWith (wSeats info.key info.zone info.seats ++ [info.terminal] ++ w2 life ++ w1 info.extensions)))

def execQueryHold (h : Hdr) (slot gen : Nat) (s : State) : StepOutcome :=
  request (.queryHold h slot gen) (queryHold h.port slot gen) s

def sellNow (key zone count : Nat) : Owner := fun s =>
  match saleRefusal s key zone count with
  | some c => deny c s
  | none => countsChanged key (addSold (zoneAt zone) count) (wSeats key (zoneAt zone) count) s

def execSellNow (h : Hdr) (key zone count : Nat) (s : State) : StepOutcome :=
  request (.sellNow h key zone count) (sellNow key zone count) s

/-- The tests of R63. -/
def refundRefusal (s : State) (key zone count : Nat) : Option Result :=
  match zoneOf zone with
  | none => some .badArgument
  | some z =>
    if count < 1 ∨ 16 < count then some .badArgument
    else match s.findShow key with
      | none => some .noSuchShow
      | some sh =>
        if sh.state = .ended then some .notRefundable
        else if (sh.zone z).sold < count then some .notSold
        else none

def refundSeats (key zone count : Nat) : Owner := fun s =>
  match refundRefusal s key zone count with
  | some c => deny c s
  | none => countsChanged key (subSold (zoneAt zone) count) (wSeats key (zoneAt zone) count) s

def execRefundSeats (h : Hdr) (key zone count : Nat) (s : State) : StepOutcome :=
  request (.refundSeats h key zone count) (refundSeats key zone count) s

/-- The fields of R64. -/
def wQuery (sh : Show) : List Byte :=
  w2 sh.key ++ w1 sh.day ++ w1 sh.state.code ++ w2 sh.effStart ++ w1 sh.delay ++ w2 sh.std.available ++
    w2 sh.prm.available ++ w2 sh.acc.available ++ w2 sh.available ++ w1 sh.band.code ++ wFigure sh.figure

def queryShow (key : Nat) : Owner := fun s =>
  match s.findShow key with
  | none => deny .noSuchShow s
  | some sh => (s, okWith (wQuery sh))

def execQueryShow (h : Hdr) (key : Nat) (s : State) : StepOutcome := request (.queryShow h key) (queryShow key) s

/-- The loaded shows of a day offset in board order (R65). -/
def showsOfDay (s : State) (day : Nat) : List Show :=
  sortBy (fun a b : Show => boardBefore (a.effStart, a.aud, a.key) (b.effStart, b.aud, b.key))
    (s.shows.shows.filter (fun sh => sh.day == day))

def listShows (day start : Nat) : Owner := fun s =>
  if 6 < day then deny .badArgument s
  else (s, okWith (w1 (showsOfDay s day).length ++
    wList (fun sh : Show => w2 sh.key ++ w1 sh.state.code) (((showsOfDay s day).drop start).take 32)))

def execListShows (h : Hdr) (day start : Nat) (s : State) : StepOutcome :=
  request (.listShows h day start) (listShows day start) s

end Sys2Proof.Machine
end

