-- ==== Sys2Proof/Machine/Dispatch.lean ====
section
/-! DEFINITION. One arm per command: each calls its meaning. -/

namespace Sys2Proof.Machine

def exec (i : Instr) (s : State) : Host.Outcome State Fault Refusal :=
  match i with
  | .hardReset => Sys2Proof.Machine.execHardReset s
  | .startUp lines imageHolds => Sys2Proof.Machine.execStartUp lines imageHolds s
  | .startUpAlertFound level => Sys2Proof.Machine.execStartUpAlertFound level s
  | .tick1ms lines alert order => Sys2Proof.Machine.execTick1ms lines alert order s
  | .tick1s order minute => Sys2Proof.Machine.execTick1s order minute s
  | .minuteBoundary order => Sys2Proof.Machine.execMinuteBoundary order s
  | .holdExpiry slot => Sys2Proof.Machine.execHoldExpiry slot s
  | .reelItemEnd reel => Sys2Proof.Machine.execReelItemEnd reel s
  | .startLineQualified line => Sys2Proof.Machine.execStartLineQualified line s
  | .alertLineActive => Sys2Proof.Machine.execAlertLineActive s
  | .alertLineInactive => Sys2Proof.Machine.execAlertLineInactive s
  | .chimeNoteEnd => Sys2Proof.Machine.execChimeNoteEnd s
  | .noticeExpiry => Sys2Proof.Machine.execNoticeExpiry s
  | .noticeInterval => Sys2Proof.Machine.execNoticeInterval s
  | .frameGapTimeout port => Sys2Proof.Machine.execFrameGapTimeout port s
  | .requestFrame port bytes => Sys2Proof.Machine.execRequestFrame port bytes s
  | .answerSent port => Sys2Proof.Machine.execAnswerSent port s
  | .panelPollDue addr => Sys2Proof.Machine.execPanelPollDue addr s
  | .panelProbeDue addr => Sys2Proof.Machine.execPanelProbeDue addr s
  | .panelGrant => Sys2Proof.Machine.execPanelGrant s
  | .beaconSend => Sys2Proof.Machine.execBeaconSend s
  | .beaconEnd => Sys2Proof.Machine.execBeaconEnd s
  | .panelFrameSent => Sys2Proof.Machine.execPanelFrameSent s
  | .panelAnswer bytes => Sys2Proof.Machine.execPanelAnswer bytes s
  | .responseTimeout => Sys2Proof.Machine.execResponseTimeout s
  | .storeEraseDone => Sys2Proof.Machine.execStoreEraseDone s
  | .storeWriteDone => Sys2Proof.Machine.execStoreWriteDone s
  | .storeCheckDone holds => Sys2Proof.Machine.execStoreCheckDone holds s
  | .storeFault => Sys2Proof.Machine.execStoreFault s
  | .holdSeats h key zone count => Sys2Proof.Machine.execHoldSeats h key zone count s
  | .confirmHold h slot gen => Sys2Proof.Machine.execConfirmHold h slot gen s
  | .releaseHold h slot gen => Sys2Proof.Machine.execReleaseHold h slot gen s
  | .extendHold h slot gen => Sys2Proof.Machine.execExtendHold h slot gen s
  | .queryHold h slot gen => Sys2Proof.Machine.execQueryHold h slot gen s
  | .sellNow h key zone count => Sys2Proof.Machine.execSellNow h key zone count s
  | .refundSeats h key zone count => Sys2Proof.Machine.execRefundSeats h key zone count s
  | .queryShow h key => Sys2Proof.Machine.execQueryShow h key s
  | .listShows h day start => Sys2Proof.Machine.execListShows h day start s
  | .postNotice h cls prio scope text life key minutes => Sys2Proof.Machine.execPostNotice h cls prio scope text life key minutes s
  | .withdrawNotice h slot gen => Sys2Proof.Machine.execWithdrawNotice h slot gen s
  | .readNotices h => Sys2Proof.Machine.execReadNotices h s
  | .readAlert h => Sys2Proof.Machine.execReadAlert h s
  | .readCauses h => Sys2Proof.Machine.execReadCauses h s
  | .setCauseMask h mask => Sys2Proof.Machine.execSetCauseMask h mask s
  | .readPortStatus h selector clear => Sys2Proof.Machine.execReadPortStatus h selector clear s
  | .loadShow h key day aud title start run delay caps hidden sibling sold withheld openNow => Sys2Proof.Machine.execLoadShow h key day aud title start run delay caps hidden sibling sold withheld openNow s
  | .amendShow h key start run aud title sibling hidden => Sys2Proof.Machine.execAmendShow h key start run aud title sibling hidden s
  | .openSales h key => Sys2Proof.Machine.execOpenSales h key s
  | .cancelShow h key => Sys2Proof.Machine.execCancelShow h key s
  | .removeShow h key => Sys2Proof.Machine.execRemoveShow h key s
  | .readShow h key => Sys2Proof.Machine.execReadShow h key s
  | .defineTitle h index text rating => Sys2Proof.Machine.execDefineTitle h index text rating s
  | .rollDay h => Sys2Proof.Machine.execRollDay h s
  | .dayClear h => Sys2Proof.Machine.execDayClear h s
  | .setPoolSplit h value => Sys2Proof.Machine.execSetPoolSplit h value s
  | .readPool h => Sys2Proof.Machine.execReadPool h s
  | .setCapacity h key zone value => Sys2Proof.Machine.execSetCapacity h key zone value s
  | .withhold h key zone n => Sys2Proof.Machine.execWithhold h key zone n s
  | .unwithhold h key zone n => Sys2Proof.Machine.execUnwithhold h key zone n s
  | .readSeatStatus h clear => Sys2Proof.Machine.execReadSeatStatus h clear s
  | .readHold h slot => Sys2Proof.Machine.execReadHold h slot s
  | .readBoard h start => Sys2Proof.Machine.execReadBoard h start s
  | .readDoor h aud => Sys2Proof.Machine.execReadDoor h aud s
  | .defineSpot h key media duration title => Sys2Proof.Machine.execDefineSpot h key media duration title s
  | .removeSpot h key => Sys2Proof.Machine.execRemoveSpot h key s
  | .buildReel h reel items step => Sys2Proof.Machine.execBuildReel h reel items step s
  | .clearReel h reel => Sys2Proof.Machine.execClearReel h reel s
  | .stopReel h reel => Sys2Proof.Machine.execStopReel h reel s
  | .startReel h reel => Sys2Proof.Machine.execStartReel h reel s
  | .readSpot h key => Sys2Proof.Machine.execReadSpot h key s
  | .readReel h reel => Sys2Proof.Machine.execReadReel h reel s
  | .setChimePattern h pattern notes => Sys2Proof.Machine.execSetChimePattern h pattern notes s
  | .readChime h => Sys2Proof.Machine.execReadChime h s
  | .setStartLine h line aud edge debounce => Sys2Proof.Machine.execSetStartLine h line aud edge debounce s
  | .setAlertLine h polarity debounce => Sys2Proof.Machine.execSetAlertLine h polarity debounce s
  | .clearAlert h => Sys2Proof.Machine.execClearAlert h s
  | .readHouseLines h => Sys2Proof.Machine.execReadHouseLines h s
  | .readJournal h start => Sys2Proof.Machine.execReadJournal h start s
  | .setPanel h addr present view group => Sys2Proof.Machine.execSetPanel h addr present view group s
  | .linkReset h => Sys2Proof.Machine.execLinkReset h s
  | .readPanel h addr clear => Sys2Proof.Machine.execReadPanel h addr clear s
  | .setPolicy h settings => Sys2Proof.Machine.execSetPolicy h settings s
  | .readPolicy h => Sys2Proof.Machine.execReadPolicy h s
  | .setClock h minute second => Sys2Proof.Machine.execSetClock h minute second s
  | .readClock h => Sys2Proof.Machine.execReadClock h s
  | .saveSetup h => Sys2Proof.Machine.execSaveSetup h s
  | .portByteReceived port byte stopLow => Sys2Proof.Machine.execPortByteReceived port byte stopLow s
  | .panelAnswerStart => Sys2Proof.Machine.execPanelAnswerStart s

end Sys2Proof.Machine
end

