-- ==== Sys2Proof/Safety.lean ====
section
/-! DEFINITION. The words the statements are written in: a request ready to be taken, its answer, what a command leaves
alone, and the laws every step keeps. -/

namespace Sys2Proof.Machine

/-! ### Requests and their answers -/

/-- The request is in its turn on a running part, and the port's own checks pass (R195, R196, log 3). -/
def Ready (c : Instr) (s : State) : Bool :=
  match requestBody c with
  | some (h, k, _) => s.phase == .running && (headerRefusal h k).isNone && inTurn c h.port (s.portAt h.port)
  | none => false

/-- The answer a request's kind and header give a reply (section 10.1). -/
def answerTo (h : Hdr) (kind : Nat) (r : Reply) : Answer := ⟨h.tag, BitVec.ofNat 8 kind, h.terminal, r⟩

/-- The answer has been made on the request's port: it stands on the answer list or waits for a place (R194, R195). -/
def Answered (h : Hdr) (kind : Nat) (r : Reply) (t : State) : Prop :=
  answerTo h kind r ∈ (t.portAt h.port).answers ∨ (t.portAt h.port).held = some (answerTo h kind r)

/-- `exec` answers the next state `t`, and the request is answered with `r`. -/
def Takes (c : Instr) (s : State) (h : Hdr) (kind : Nat) (r : Reply) (t : State) : Prop :=
  exec c s = .next t ∧ Answered h kind r t

/-! ### What a command leaves alone -/

/-- A port without its causes. -/
def PortState.quiet (x : PortState) : PortState := { x with causes := 0 }

/-- The ports without their causes. -/
def Ports.quiet (q : Ports) : Ports := ⟨q.a.quiet, q.b.quiet, q.p.quiet⟩

/-- A panel without what a filing may change (R185, R186). -/
def Panel.steady (p : Panel) : Panel := { p with state := .absent, shown := 0, batch := none, refresh := none }

/-- The link without what a filing may change (R185, R186). -/
def PanelLink.steady (l : PanelLink) : PanelLink :=
  { l with panels := l.panels.map Panel.steady, cond := l.cond.dropBatch }

/-- A request taken on port `p` changes no port but for causes, and on `p` only the request buffer and the answer list:
receivers, masks and counts stay (R194, R195). -/
def BuffersKept (p : Port) (s t : State) : Prop :=
  (∀ q, q ≠ p → (t.portAt q).quiet = (s.portAt q).quiet) ∧
  (t.portAt p).receiver = (s.portAt p).receiver ∧ (t.portAt p).mask = (s.portAt p).mask ∧
  (t.portAt p).frameErrors = (s.portAt p).frameErrors ∧ (t.portAt p).busy = (s.portAt p).busy ∧
  (t.portAt p).unanswered = (s.portAt p).unanswered

/-- No cause set changes. -/
def CausesKept (s t : State) : Prop := ∀ q, (t.portAt q).causes = (s.portAt q).causes

/-- A bit of a port's cause set stays. -/
def causeBit (q : Port) (n : Nat) (s : State) : Bool := (s.portAt q).causes.getLsbD n

/-- No cause but REFRESH_FORCED (bit 4 of the Programme Port, which any filing may raise) changes. -/
def OnlyForced (s t : State) : Prop :=
  ∀ q n, ¬ (q = .programme ∧ n = 4) → causeBit q n t = causeBit q n s

/-- No cause but REFRESH_FORCED (bit 4) and SHOW_CHANGE (bit 9) of the Programme Port and bits 1 to 3 of the sales ports
changes: what a show's change of state may raise (R13, R68, R155). -/
def OnlyShowCauses (s t : State) : Prop :=
  ∀ q n, ¬ (q = .programme ∧ (n = 4 ∨ n = 9)) → ¬ (q ≠ .programme ∧ (n = 1 ∨ n = 3)) → causeBit q n t = causeBit q n s

/-- The request changed nothing but its own port's buffer. -/
def NothingChanged (p : Port) (s t : State) : Prop :=
  t = { s with ports := t.ports } ∧ BuffersKept p s t ∧ CausesKept s t

/-- The request is taken and refused with a code, and nothing changes. -/
def Refuses (c : Instr) (s : State) (h : Hdr) (kind : Nat) (code : Result) : Prop :=
  ∃ t, Takes c s h kind (refuse code) t ∧ NothingChanged h.port s t

/-- The tests of a request in the order its rule gives: the first that holds is the answer. -/
def firstRefusal : List (Bool × Result) → Option Result
  | [] => none
  | (b, c) :: l => if b then some c else firstRefusal l

/-- In its turn, a request is answered with the first refusal its tests give and changes nothing; when no test holds,
`taken` says what it does. -/
def TakenOrRefused (c : Instr) (h : Hdr) (kind : Nat) (s : State) (tests : List (Bool × Result)) (taken : Prop) : Prop :=
  Ready c s = true →
    (∀ code, firstRefusal tests = some code → Refuses c s h kind code) ∧ (firstRefusal tests = none → taken)

/-- The request is answered OK with a body, and nothing changes. -/
def Reads (c : Instr) (s : State) (h : Hdr) (kind : Nat) (body : List Byte) : Prop :=
  ∃ t, Takes c s h kind (okWith body) t ∧ NothingChanged h.port s t

/-- The request changes no cause and, of its port, the request buffer and the answer list alone. -/
def Quietly (p : Port) (s t : State) : Prop := BuffersKept p s t ∧ CausesKept s t

/-- What filings and the answer may touch of the link and the ports, and no more: panels but for state, shown revision,
batch and refresh stay, and no cause but REFRESH_FORCED is raised. -/
def FilesOnly (p : Port) (s t : State) : Prop :=
  t.link.steady = s.link.steady ∧ BuffersKept p s t ∧ OnlyForced s t

/-- A change of one show's counts (R35, R41): beside the shows, the images and what filings touch, all stays. -/
def CountsFrame (p : Port) (s t : State) : Prop :=
  t = { s with seat := t.seat, shows := t.shows, board := t.board, journal := t.journal, link := t.link,
               ports := t.ports } ∧
  t.shows = { s.shows with shows := t.shows.shows } ∧ FilesOnly p s t

/-- The images of a show's line, of its door line when it is the door show of its auditorium (1..16, R4), and of the lines
that name it as sibling are what the Board Builder computes (R41, R84). -/
def Published (key : Nat) (t : State) : Prop :=
  t.lineImage key = computeLine t key ∧
  (∀ sh ∈ t.shows.shows, sh.sibling = some key → t.lineImage sh.key = computeLine t sh.key) ∧
  ∀ sh, t.findShow key = some sh → 1 ≤ sh.aud → t.doorShow sh.aud = some key → t.doorImage sh.aud = computeDoor t sh.aud

/-- `x` starts no later than `y`, the lower key first between equal effective starts (R20). -/
def Show.notAfter (x y : Show) : Prop :=
  x.start + x.delay < y.start + y.delay ∨ (x.start + x.delay = y.start + y.delay ∧ x.key ≤ y.key)

/-- The door show of an auditorium is the one R20 chooses: the earliest SEATING or RUNNING show of today, else the earliest
ON_SALE one, else none. -/
def DoorChosen (aud : Nat) (t : State) : Prop :=
  (∀ k, t.doorShow aud = some k → ∃ sh ∈ t.shows.shows, sh.key = k ∧ sh.day = 0 ∧ sh.aud = aud ∧
    (((sh.state = .seating ∨ sh.state = .running) ∧
        ∀ x ∈ t.shows.shows, x.day = 0 → x.aud = aud → x.state = .seating ∨ x.state = .running → sh.notAfter x) ∨
      (sh.state = .onSale ∧ ∀ x ∈ t.shows.shows, x.day = 0 → x.aud = aud →
        x.state ≠ .seating ∧ x.state ≠ .running ∧ (x.state = .onSale → sh.notAfter x)))) ∧
  (t.doorShow aud = none → ∀ x ∈ t.shows.shows, x.day = 0 → x.aud = aud →
    x.state ≠ .onSale ∧ x.state ≠ .seating ∧ x.state ≠ .running)

/-- An auditorium 1..16 has the door show of R20 and the door line computed for it (R84). -/
def DoorServed (aud : Nat) (t : State) : Prop :=
  1 ≤ aud → aud ≤ 16 → DoorChosen aud t ∧ t.doorImage aud = computeDoor t aud

/-- One show's record is changed by `f`, its availability is computed and published, and no other show changes (R35,
R41). -/
def Recounted (p : Port) (key : Nat) (f : Show → Show) (s t : State) : Prop :=
  t.findShow key = (s.findShow key).map (fun sh => (f sh).compute s.policy) ∧
  (∀ k, k ≠ key → t.findShow k = s.findShow k) ∧ Published key t ∧ CountsFrame p s t

/-- A change of a show's state or start (R13): the Seat Unit, the notices and the images may follow. -/
def ShowFrame (p : Port) (s t : State) : Prop :=
  t = { s with seat := t.seat, shows := t.shows, board := t.board, notice := t.notice, journal := t.journal,
               link := t.link, ports := t.ports } ∧
  t.shows = { s.shows with shows := t.shows.shows, doors := t.shows.doors } ∧
  t.link.steady = s.link.steady ∧ BuffersKept p s t ∧ OnlyShowCauses s t

/-- SHOW_CHANGE stands raised on the three ports (R13). -/
def ShowChangeRaised (t : State) : Prop := ∀ p, causeSet p .showChange t = true

/-- ALERT_CHANGE stands raised on the three ports (R142). -/
def AlertChangeRaised (t : State) : Prop := ∀ p, causeSet p .alertChange t = true

/-- A roll of the day (R24, R89): today's shows are gone with their holds and notices, the others stand a day nearer, and
every line and door is as computed. -/
def DayRolled (s t : State) : Prop :=
  (∀ y ∈ t.shows.shows, ∃ x ∈ s.shows.shows, x.key = y.key ∧ x.day = y.day + 1) ∧
  (∀ x ∈ s.shows.shows, 0 < x.day → ∃ y ∈ t.shows.shows, y.key = x.key) ∧
  (∀ x ∈ s.shows.shows, x.day = 0 →
    (∀ i info life, i < 192 → (s.holdSlot i).use = .active info life → info.key = x.key →
      t.holdSlot i = ⟨(s.holdSlot i).gen, .ended info .voided⟩ ∧
        (info.port ≠ .programme → causeSet info.port .holdVoided t = true)) ∧
    ∀ i n, (t.noticeSlot i).notice = some n → n.linked ≠ some x.key) ∧
  ((∃ x ∈ s.shows.shows, x.day = 0) → ShowChangeRaised t) ∧
  (∀ k, t.lineImage k = computeLine t k) ∧ ∀ a, DoorServed a t

/-- A life or interval after a minute boundary that does not end it (R125, R126). -/
def Life.minuteLater : Life → Life
  | .once l => .once (l - 1)
  | .repeats v l => .repeats v (if l ≤ 1 then v else l - 1)
  | .standing => .standing

/-- The notice is a CANCEL notice whose show's window has closed (R129). -/
def WindowOver (t : State) (n : Notice) : Prop :=
  n.cls = .cancel ∧ t.shows.clock.valid = true ∧
    ∃ k sh, n.linked = some k ∧ t.findShow k = some sh ∧ sh.day = 0 ∧ sh.start + sh.run ≤ t.shows.clock.minute

/-- A notice's show stands in the state it stood in, when the notice is a DELAY notice (R128). -/
def StateKept (s t : State) (n : Notice) : Prop :=
  n.cls = .delay → ∀ k, n.linked = some k → (t.findShow k).map (·.state) = (s.findShow k).map (·.state)

/-- The Notice Queue at a minute boundary (R125, R126, R129): every life and interval left falls by one, ONCE notices at
their last minute and CANCEL notices past their window leave, every other notice stays but for the withdrawals of R24 and
R128, NOTICE_ENDED is raised on the sales ports, and one REMINDER is handed when a HIGH interval is reached. -/
def NoticesCounted (s t : State) : Prop :=
  (∀ i, (t.noticeSlot i).gen = (s.noticeSlot i).gen) ∧
  (∀ i n', (t.noticeSlot i).notice = some n' → ∃ n, (s.noticeSlot i).notice = some n ∧
    n' = { n with life := n.life.minuteLater } ∧ (∀ l, n.life = .once l → 1 < l) ∧ ¬ WindowOver t n) ∧
  (∀ i n, (s.noticeSlot i).notice = some n → (∀ l, n.life = .once l → 1 < l) → ¬ WindowOver t n → StateKept s t n →
    (1439 ≤ s.shows.clock.minute → ∀ x ∈ s.shows.shows, x.day = 0 → n.linked ≠ some x.key) →
    (t.noticeSlot i).notice = some { n with life := n.life.minuteLater }) ∧
  (∀ i n l p tm, (s.noticeSlot i).notice = some n → n.life = .once l → l ≤ 1 → n.origin = .sales p tm →
    n.linked = none → p ≠ .programme → causeSet p .noticeEnded t = true) ∧
  ((∃ i n v l, (s.noticeSlot i).notice = some n ∧ n.linked = none ∧ n.prio = .high ∧ n.life = .repeats v l ∧ l ≤ 1) →
    t.chime = s.chime.trigger s.policy.chimeEnable .reminder) ∧
  ((∀ i n v l, (s.noticeSlot i).notice = some n → n.prio = .high → n.life = .repeats v l → 1 < l) → t.chime = s.chime)

/-- What a filing makes of the journal (R155 to R157, R159): an entry of the target leaves, with 64 left the oldest is dropped
and the floor becomes its revision, the new entry is the newest; at revision 65535 the journal wraps. -/
def JournalTakes (t : Target) (f : Form) (j k : Journal) : Prop :=
  ∀ rest, rest = j.entries.filter (fun e => decide (e.target ≠ t)) →
    (j.cur < 65535 →
      (rest.length < 64 → k = ⟨j.cur + 1, j.floor, rest ++ [⟨j.cur + 1, t, f⟩]⟩) ∧
      ∀ e l, rest = e :: l → 64 ≤ rest.length → k = ⟨j.cur + 1, e.rev, l ++ [⟨j.cur + 1, t, f⟩]⟩) ∧
    (65535 ≤ j.cur → k = ⟨1, 0, [⟨1, t, f⟩]⟩)

/-- What a hand-off of the journal `j` makes of a panel (R173, R185): CURRENT and BEHIND panels without a batch are classified
anew, and a refresh that stays is marked to restart when its snapshot lies below the floor. -/
def PanelHandedOff (j : Journal) (p q : Panel) : Prop :=
  ∀ rf, rf = p.refresh.map (fun r => if r.snapshot < j.floor then { r with restart := true } else r) →
    (¬ ((p.state = .current ∨ p.state = .behind) ∧ p.batch = none) → q = { p with refresh := rf }) ∧
    (p.state = .current ∨ p.state = .behind → p.batch = none →
      (p.shown < j.floor → q = { p with state := .syncing, refresh := none }) ∧
      (j.floor ≤ p.shown →
        ((∃ e ∈ j.entries, p.shown < e.rev ∧ relevant p.config e.target = true) →
          q = { p with state := .behind, refresh := rf }) ∧
        ((∀ e ∈ j.entries, p.shown < e.rev → relevant p.config e.target = false) →
          q = { p with state := .current, refresh := rf })))

/-- What the wrap makes of a panel (R186). -/
def PanelWrapped (p q : Panel) : Prop :=
  q = { p with shown := 0, batch := none, refresh := none,
               state := if p.state = .absent ∨ p.state = .offline then p.state else .syncing }

/-- What the journal's advance makes of the panels and of the transaction in flight (R159, R163, R185, R186). -/
def PanelsTold (s t : State) : Prop :=
  (s.journal.cur < 65535 → t.link.cond = s.link.cond ∧
    ∀ a, 1 ≤ a → a ≤ 24 → PanelHandedOff t.journal (s.panelAt a) (t.panelAt a)) ∧
  (65535 ≤ s.journal.cur →
    (∀ tr, s.link.cond = .transaction tr → t.link.cond = .transaction { tr with hasBatch := false }) ∧
    ((∀ tr, s.link.cond ≠ .transaction tr) → t.link.cond = s.link.cond) ∧
    ∀ a, 1 ≤ a → a ≤ 24 → PanelWrapped (s.panelAt a) (t.panelAt a))

/-- A filing whole: the journal, REFRESH_FORCED exactly at a drop or a wrap, the panels, and nothing else. -/
def FilingTaken (t : Target) (f : Form) (s u : State) : Prop :=
  JournalTakes t f s.journal u.journal ∧
  causeBit .programme 4 u = (causeBit .programme 4 s ||
    decide (64 ≤ (s.journal.entries.filter (fun e => decide (e.target ≠ t))).length) || decide (65535 ≤ s.journal.cur)) ∧
  PanelsTold s u ∧ OnlyForced s u ∧ u.ports.quiet = s.ports.quiet ∧
  u = { s with journal := u.journal, ports := u.ports,
               link := { s.link with panels := u.link.panels, cond := u.link.cond } }

/-- The journal has taken filings of board lines and door lines, and no other (R84, R86, R162). -/
def LinesFiled (j j' : Journal) : Prop :=
  ∃ fs : List (Target × Form), (∀ x ∈ fs, (∃ k, x.1 = .boardLine k) ∨ ∃ a, x.1 = .door a) ∧
    j' = fs.foldl (fun a x => a.filed x.1 x.2) j

/-- A notice stands before another in queue order (R120), ranks read off the lists of R118. -/
def Notice.notBehind (a b : Notice) : Prop :=
  a.prio.code < b.prio.code ∨ (a.prio = b.prio ∧
    (a.cls.code < b.cls.code ∨ (a.cls = b.cls ∧ a.seq ≤ b.seq)))

/-- Steps 1 to 5 of R56. -/
def saleTests (s : State) (key zone count : Nat) : List (Bool × Result) :=
  [((zoneOf zone).isNone || decide (count < 1) || decide (16 < count), .badArgument),
   (s.house.alert != .normal, .houseAlert),
   ((s.findShow key).isNone, .noSuchShow),
   ((s.findShow key).any (fun sh => !sh.state.sells), .notSelling),
   ((s.findShow key).any (fun sh => (zoneOf zone).any (fun z => decide ((sh.zone z).available < count))), .notEnough)]

/-- The refusals of the lookup of R49 that carry a code alone. -/
def lookupTests (s : State) (p : Port) (slot gen : Nat) : List (Bool × Result) :=
  [(decide (192 ≤ slot), .badArgument),
   ((s.holdSlot slot).gen != gen || (s.holdSlot slot).use == .never, .unknownHold),
   ((s.holdSlot slot).use.info.any (fun i => i.port != p), .notOwner)]

/-- A slot that has ended is answered HOLD_ENDED with its reason, and nothing changes (R49). -/
def AnswersEnded (c : Instr) (s : State) (h : Hdr) (kind slot : Nat) : Prop :=
  ∀ info r, (s.holdSlot slot).use = .ended info r → ∃ t, Takes c s h kind (holdEnded r) t ∧ NothingChanged h.port s t

/-- The first two tests of R30. -/
def zoneTests (s : State) (key zone : Nat) : List (Bool × Result) :=
  [((s.findShow key).isNone, .noSuchShow), ((zoneOf zone).isNone, .badArgument)]

/-- A test on the named show's zone. -/
def onZone (s : State) (key zone : Nat) (f : ZoneCounts → Bool) : Bool :=
  (s.findShow key).any (fun sh => (zoneOf zone).any (fun z => f (sh.zone z)))

/-- A setting's value after a Set Policy that carries `l` (R207). -/
def settingAfter (p : Policy) (l : List (Nat × Nat)) (id : Nat) : Nat :=
  match l.lookup id, settingRange id with
  | some v, some r => clampTo r.1 r.2 v
  | _, _ => p.value id

/-- The event that ends a transaction of the running part with a failure (R167, R169, R181). -/
def FailedBy (e : Instr) (tr : Transaction) (w : Nat) (f : Failure) : Prop :=
  (e = .responseTimeout ∧ w ≤ 1 ∧ f = if tr.begun then .check else .timeout) ∨
  (∃ bytes, e = .panelAnswer bytes ∧ checkAnswer tr.addr bytes = none ∧ f = .check) ∨
  ∃ bytes r reason, e = .panelAnswer bytes ∧ checkAnswer tr.addr bytes = some r ∧ r.nak = some reason ∧
    f = .nak reason r.report

/-- The failure is a NAK. -/
def Failure.isNak : Failure → Bool
  | .nak _ _ => true
  | _ => false

/-- The link's events leave the other panels, the arbiter's last-served address and the beacon alone, and every other
block but for the Programme Port's causes. -/
def LinkFrame (addr : Nat) (s t : State) : Prop :=
  t = { s with link := t.link, ports := t.ports } ∧ t.ports.quiet = s.ports.quiet ∧
  t.link.lastServed = s.link.lastServed ∧ t.link.beaconPending = s.link.beaconPending ∧ t.link.out = s.link.out ∧
  ∀ a, 1 ≤ a → a ≠ addr → t.panelAt a = s.panelAt a

/-! ### The laws -/

/-- The tables have their sizes (R6, R20, R46, R82, R96, R118, R137, R171). -/
def SetupImage.sized (i : SetupImage) : Prop :=
  i.map.length = 16 ∧ i.panels.length = 24 ∧ i.reels.length = 4

def Sized (s : State) : Prop :=
  s.shows.titles.length = 64 ∧ s.shows.doors.length = 16 ∧ s.seat.slots.length = 192 ∧ s.board.doors.length = 16 ∧
  s.board.titles.length = 64 ∧ s.reel.reels.length = 4 ∧ s.notice.slots.length = 32 ∧ s.house.map.length = 16 ∧
  s.house.lines.length = 16 ∧ s.link.panels.length = 24 ∧ ∀ i, s.store.image = some i → i.sized

/-- R154, with the bound of R153 and the range of R152. -/
def JournalLaw (j : Journal) : Prop :=
  j.entries.Pairwise (fun a b => a.rev < b.rev) ∧ j.entries.Pairwise (fun a b => a.target ≠ b.target) ∧
  (∀ e ∈ j.entries, j.floor < e.rev ∧ e.rev ≤ j.cur) ∧ j.entries.length ≤ 64 ∧ j.floor ≤ j.cur ∧ j.cur ≤ 65535

/-- A panel's revisions (R172, R177, R178). -/
def Panel.within (cur : Nat) (p : Panel) : Prop :=
  p.shown ≤ cur ∧ (∀ b r, p.batch = some b → b.rev = some r → r ≤ cur) ∧ ∀ f, p.refresh = some f → f.snapshot ≤ cur

/-- "No panel's shown revision exceeds the current revision" (R172). -/
def PanelLaw (s : State) : Prop := ∀ p ∈ s.link.panels, p.within s.journal.cur

/-- R191, R193, R194, R195, R197: the buffers' bounds, and where a request can stand. That no request is in execution
while an answer waits for a place is the model's choice (log 19). -/
def PortLaw (p : Port) (x : PortState) : Prop :=
  x.waiting.length ≤ 4 ∧ x.answers.length ≤ 8 ∧
  (x.held.isSome → x.answers.length = 8 ∧ x.execution = none) ∧
  (x.execution = none → x.held = none → x.waiting = []) ∧
  x.frameErrors ≤ 255 ∧ x.busy ≤ 255 ∧ x.unanswered ≤ 255 ∧
  (∀ n, causeBits p ≤ n → x.causes.getLsbD n = false ∧ x.mask.getLsbD n = false)

/-- Every request in execution between two events has passed the port's checks (R195, R196). -/
def PortChecked (p : Port) (x : PortState) : Prop := ∀ f, x.execution = some f → portCheck p f = none

def PortsLaw (s : State) : Prop := ∀ p, PortLaw p (s.portAt p) ∧ PortChecked p (s.portAt p)

/-- "The reading of the line is active exactly while the state is ALERT" (R142). -/
def AlertLaw (s : State) : Prop :=
  s.phase = .running →
    (s.house.alert = .alert ↔ readsActive s.house.alertEntry.polarity s.house.alertLine.stable = true)

/-- Seats of the ACTIVE holds that name a show and a zone (R27). -/
def HoldSlot.seatsOn (key : Nat) (z : Zone) (x : HoldSlot) : Nat :=
  match x.use with
  | .active info _ => if info.key = key ∧ info.zone = z then info.seats else 0
  | _ => 0

def heldSeats (s : State) (key : Nat) (z : Zone) : Nat := (s.seat.slots.map (HoldSlot.seatsOn key z)).sum

/-- The slot is ACTIVE for a port. -/
def HoldSlot.activeFor (p : Port) (x : HoldSlot) : Bool :=
  match x.use with
  | .active info _ => info.port == p
  | _ => false

/-- R48 and R50: every slot is on the free list or ACTIVE and never both, and the port counts count. -/
def HoldLaw (u : SeatUnit) : Prop :=
  u.slots.length = 192 ∧ u.free.Nodup ∧
  (∀ i, i ∈ u.free ↔ ∃ x, (u.slots)[i]? = some x ∧ x.isActive = false) ∧
  u.countA = u.slots.countP (HoldSlot.activeFor .salesA) ∧ u.countB = u.slots.countP (HoldSlot.activeFor .salesB)

/-- R26 and R27: sold, held and withheld do not exceed capacity, held counts equal the ACTIVE holds, and every ACTIVE
hold names a loaded show (R46). -/
def SeatLaw (s : State) : Prop :=
  HoldLaw s.seat ∧
  s.shows.shows.Pairwise (fun a b => a.key < b.key) ∧
  (∀ sh ∈ s.shows.shows, ∀ z,
    (sh.zone z).sold + (sh.zone z).held + (sh.zone z).withheld ≤ (sh.zone z).cap ∧
      (sh.zone z).held = heldSeats s sh.key z) ∧
  (∀ x ∈ s.seat.slots, ∀ info life, x.use = .active info life →
    1 ≤ info.seats ∧ info.port ≠ .programme ∧ ∃ sh ∈ s.shows.shows, sh.key = info.key)

end Sys2Proof.Machine
end

