-- ==== Sys2Proof/Certificates/Slice0/Obligations.lean ====
section
/-! DEFINITION. The statements for the provers. `Takes` says that exec answers a next state and that the request is
answered on its port (Sys2Proof/Safety.lean). -/

section

open Sys2Proof Sys2Proof.Machine

/-! ### The step, the encodings, the laws -/

/-- The model's step (log 2): the front command is carried out on the rest; an empty queue idles. -/
def Obligations.StepRunsTheFrontCommand : Prop :=
  (∀ c rest s, s.pending = c :: rest → step s = exec c (s.withPending rest)) ∧
  ∀ s, s.pending = [] → step s = .next s

/-- R192, in the field forms of log 11 to log 14: every request's body reads back as that request. -/
def Obligations.RequestBodiesReadBack : Prop :=
  ∀ i h k b, i.wf = true → requestBody i = some (h, k, b) → parseBody h k b = some i

/-- R191 to R193: a frame's bytes, received one by one by a HUNTING receiver, are the frame that was sent. -/
def Obligations.BytesMakeTheFrame : Prop :=
  ∀ p f x, f.body.length ≤ 255 → x.receiver = .hunting →
    frameOf (frameBytes f) = some f ∧
    (0xC3#8 :: frameBytes f).foldl (fun y b => PortState.takeByte p b false y) x = PortState.accept p f x

/-- Every law holds right after reset. -/
def Obligations.ResetHasTheLaws : Prop :=
  Sized State.reset ∧ JournalLaw State.reset.journal ∧ PanelLaw State.reset ∧ PortsLaw State.reset ∧
  AlertLaw State.reset ∧ SeatLaw State.reset

/-- The tables keep their sizes. -/
def Obligations.StepKeepsTheSizes : Prop := ∀ s t, Sized s → step s = .next t → Sized t

/-- R154, with the bounds of R152 and R153. -/
def Obligations.StepKeepsTheJournalLaw : Prop :=
  ∀ s t, JournalLaw s.journal → step s = .next t → JournalLaw t.journal

/-- R172: no panel's shown revision exceeds the current revision. -/
def Obligations.StepKeepsThePanelLaw : Prop :=
  ∀ s t, JournalLaw s.journal → PanelLaw s → step s = .next t → PanelLaw t

/-- R194 to R197: the bounds of a port's lists and counts, and where a request can stand. That no request is in execution
while an answer waits for a place, whatever frame completes meanwhile, is the model's choice (log 19). -/
def Obligations.StepKeepsThePortsLaw : Prop := ∀ s t, PortsLaw s → step s = .next t → PortsLaw t

/-- R142: the alert line reads active exactly while the state is ALERT. -/
def Obligations.StepKeepsTheAlertLaw : Prop := ∀ s t, AlertLaw s → step s = .next t → AlertLaw t

/-- R26, R27, R46, R48, R50: counts within capacity, held counts and port counts equal to the ACTIVE holds, every slot on
the free list or ACTIVE and never both. -/
def Obligations.StepKeepsTheSeatLaw : Prop := ∀ s t, SeatLaw s → step s = .next t → SeatLaw t

/-! ### Reset and start-up -/

/-- R208, R206: RESET ends a store operation, keeps the image unless it was being erased or written, and holds every
output inactive; the other blocks stand at their hard-reset values (log 23). -/
def Obligations.HardResetStopsThePart : Prop :=
  ∀ s, ∃ t, exec .hardReset s = .next t ∧ t.phase = .inReset ∧ t.pending = s.pending ∧ t.store.state = .idle ∧
    (s.store.state = .erasing ∨ s.store.state = .writing → t.store.image = none) ∧
    (s.store.state = .idle ∨ s.store.state = .checking → t.store.image = s.store.image) ∧
    (∀ p, attention p t = false) ∧ chimeLine t = none ∧ t.link.cond = .idle ∧
    t.shows.shows = [] ∧ t.journal = ⟨0, 0, []⟩ ∧ ∀ p, t.portAt p = PortState.reset

/-- R208 steps 1 to 4, R140, R205: the items or their defaults become the working values, the blocks take their
hard-reset values, each start line its first sample. -/
def Obligations.StartUpReadsTheImage : Prop :=
  ∀ lines holds s, s.phase = .inReset → ∃ t, exec (.startUp lines holds) s = .next t ∧ t.phase = .starting ∧
    (∀ i, holds = true → s.store.image = some i → itemsOf t = i ∧ t.storeInvalid = false) ∧
    (holds = false ∨ s.store.image = none → itemsOf t = .default ∧ t.storeInvalid = true) ∧
    t.shows.clock = ⟨false, 0, 0⟩ ∧ t.shows.shows = [] ∧ t.shows.titles = List.replicate 64 none ∧
    t.seat.free = List.range 192 ∧ t.journal = ⟨0, 0, []⟩ ∧ t.chime.playing = none ∧ t.store.state = .idle ∧
    (∀ p ∈ t.link.panels, p.state = if p.config.present then .unknown else .absent) ∧
    (∀ p, t.portAt p = PortState.reset) ∧ t.pending = s.pending ∧
    ∀ i, i < 16 → t.lineState i = ⟨lineLevel lines i, 0⟩

/-- R148, R97, R208 steps 5 to 7: the level found, the alert state, its effects, and nothing filed. Two points are the
model's choice: the sample at which the level is found (log 24), and that a reel held at start-up keeps its play count
(log 25). -/
def Obligations.StartUpFindsTheAlert : Prop :=
  ∀ level s, Sized s → s.phase = .starting → level = s.house.alertLine.stable → 0 < s.house.alertLine.count →
    s.house.alertEntry.debounce ≤ s.house.alertLine.count + 1 →
    ∃ t, exec (.startUpAlertFound level) s = .next t ∧ t.phase = .running ∧ t.house.alertLine = ⟨level, 0⟩ ∧
      t.journal = s.journal ∧ t.link = { s.link with beaconPending := true } ∧
      t.ports.a = s.ports.a ∧ t.ports.b = s.ports.b ∧
      (s.storeInvalid = true → causeSet .programme .storeInvalid t = true) ∧
      (s.storeInvalid = false → t.ports = s.ports) ∧
      (readsActive s.house.alertEntry.polarity level = true →
        t.house.alert = .alert ∧ t.chime = s.chime.trigger s.policy.chimeEnable .alarm ∧
        ((t.noticeSlot 31).notice.map (·.cls)) = some .evacuate ∧
        ∀ r, r < 4 → (s.reelAt r).slots ≠ [] → t.reelAt r = { s.reelAt r with state := .held }) ∧
      (readsActive s.house.alertEntry.polarity level = false →
        t.house.alert = .normal ∧ t.chime = s.chime ∧ t.notice = s.notice ∧
        ∀ r, r < 4 → (s.reelAt r).slots ≠ [] → t.reelAt r = cued s true (s.reelAt r)) ∧
      ∀ r, r < 4 → (s.reelAt r).slots = [] → t.reelAt r = s.reelAt r

/-! ### Ticks -/

/-- R134, R135, R138, R141, R167, R193: whatever the order of the receivers, a 1 ms tick samples every line, counts every gap,
lowers the response window and the milliseconds left of the note in progress; a note at its last millisecond ends as
chimeNoteEnd says, and an alert line that becomes active leaves an ALARM pass in progress. -/
def Obligations.MillisecondTick : Prop :=
  ∀ lines alert order s, Sized s → s.phase = .running →
    ∃ t, exec (.tick1ms lines alert order) s = .next t ∧
      (∀ i, i < 16 →
        t.lineState i = ((s.lineState i).sample (s.lineEntry i).debounce (lineLevel lines i)).1) ∧
      t.house.alertLine = (s.house.alertLine.sample s.house.alertEntry.debounce alert).1 ∧
      (∀ p bytes gap, (s.portAt p).receiver = .inFrame bytes gap →
        (t.portAt p).receiver = if 5 ≤ gap + 1 then .hunting else .inFrame bytes (gap + 1)) ∧
      (∀ p, (s.portAt p).receiver = .hunting → (t.portAt p).receiver = .hunting) ∧
      (∀ tr w, s.link.cond = .transaction tr → tr.window = some w → 1 < w →
        ∃ b, t.link.cond = .transaction { tr with window := some (w - 1), hasBatch := b }) ∧
      (∀ r, r = s.house.alertLine.sample s.house.alertEntry.debounce alert →
        ((r.2 = true → readsActive s.house.alertEntry.polarity alert = false) →
          (s.chime.playing = none → t.chime = s.chime) ∧
          ∀ pl, s.chime.playing = some pl →
            (1 < pl.left → t.chime = { s.chime with playing := some { pl with left := pl.left - 1 } }) ∧
            (pl.left ≤ 1 → r.2 = false → ∃ u, exec .chimeNoteEnd s = .next u ∧ t.chime = u.chime)) ∧
        (r.2 = true → readsActive s.house.alertEntry.polarity alert = true → s.house.alert ≠ .alert →
          s.policy.chimeEnable = true → s.chime.alarm ≠ [] →
          ∃ pl, t.chime.playing = some pl ∧ pl.pattern = .alarm)) ∧
      t.shows.clock = s.shows.clock ∧ t.policy = s.policy ∧ t.store = s.store ∧ t.house.map = s.house.map

/-- R7, R66, R104, R172: whatever the order of the receivers, a 1 s tick that brings no minute boundary advances a VALID
clock, lowers hold lives and countdowns only while the alert state is NORMAL, and raises idle times. -/
def Obligations.SecondTick : Prop :=
  ∀ order minute s, Sized s → s.phase ≠ .inReset → (s.shows.clock.valid = true → s.shows.clock.second < 59) →
    ∃ t, exec (.tick1s order minute) s = .next t ∧
      t.shows.clock =
        (if s.shows.clock.valid then { s.shows.clock with second := s.shows.clock.second + 1 } else s.shows.clock) ∧
      (s.house.alert ≠ .normal → t.seat = s.seat ∧ t.reel = s.reel) ∧
      (s.house.alert = .normal → ∀ i, i < 192 → ∀ info life, (s.holdSlot i).use = .active info life →
        t.holdSlot i = ⟨(s.holdSlot i).gen,
          if life ≤ 1 then .ended info .expired else .active info (life - 1)⟩) ∧
      (s.house.alert = .normal → ∀ r, r < 4 → (s.reelAt r).runs = true → 1 < (s.reelAt r).countdown →
        t.reelAt r = { s.reelAt r with countdown := (s.reelAt r).countdown - 1 }) ∧
      (∀ r, r < 4 → (s.reelAt r).runs = false → t.reelAt r = s.reelAt r) ∧
      (∀ a, 1 ≤ a → a ≤ 24 → (s.panelAt a).state ≠ .absent →
        (t.panelAt a).idle = Nat.min 300 ((s.panelAt a).idle + 1)) ∧
      t.notice = s.notice ∧ t.house = s.house ∧ t.chime = s.chime ∧ t.policy = s.policy

/-- R7, R8, R11, R24, R87, R125, R126, R129, R176: the minute advances or the day rolls, no show is left with a transition
due, lives and intervals are counted, cancellation windows are tested, and a beacon is queued, whatever the order of the
receivers. -/
def Obligations.MinuteBoundary : Prop :=
  ∀ order s, Sized s → s.phase ≠ .inReset → s.shows.clock.valid = true → 59 ≤ s.shows.clock.second →
    s.shows.shows.Pairwise (fun a b => a.key < b.key) →
    ∃ t, exec (.minuteBoundary order) s = .next t ∧
      t.shows.clock = ⟨true, if 1439 ≤ s.shows.clock.minute then 0 else s.shows.clock.minute + 1, 0⟩ ∧
      (∀ sh ∈ t.shows.shows, dueTransition t.policy t.shows.clock sh = none) ∧
      (s.shows.clock.minute < 1439 → ∀ k, (t.findShow k).map (·.day) = (s.findShow k).map (·.day)) ∧
      (1439 ≤ s.shows.clock.minute → DayRolled s t) ∧ NoticesCounted s t ∧
      (∀ sh ∈ t.shows.shows, sh.day = 0 → sh.state = .cancelled → t.lineImage sh.key = computeLine t sh.key) ∧
      t.link.beaconPending = true ∧ t.policy = s.policy ∧ t.house = s.house ∧ t.reel = s.reel

/-- R67: the expired hold's slot, the free list, the port's count, HOLD_LAPSED and the show's counts. -/
def Obligations.HoldExpires : Prop :=
  ∀ slot s info life, slot < s.seat.slots.length → s.phase ≠ .inReset → s.house.alert = .normal → life ≤ 1 →
    (s.holdSlot slot).use = .active info life →
    ∃ t, exec (.holdExpiry slot) s = .next t ∧
      t.holdSlot slot = ⟨(s.holdSlot slot).gen, .ended info .expired⟩ ∧
      (∀ i, i ≠ slot → t.holdSlot i = s.holdSlot i) ∧ t.seat.free = s.seat.free ++ [slot] ∧
      t.seat.portCount info.port = s.seat.portCount info.port - 1 ∧ t.seat.highWater = s.seat.highWater ∧
      (info.port ≠ .programme → causeSet info.port .holdLapsed t = true) ∧
      (∀ q n, ¬ (q = .programme ∧ n = 4) → ¬ (q = info.port ∧ n = 0) → causeBit q n t = causeBit q n s) ∧
      t.findShow info.key = (s.findShow info.key).map (fun sh => (subHeld info.zone info.seats sh).compute s.policy) ∧
      (∀ k, k ≠ info.key → t.findShow k = s.findShow k) ∧
      t = { s with seat := t.seat, shows := t.shows, board := t.board, journal := t.journal, link := t.link,
                   ports := t.ports } ∧
      t.link.steady = s.link.steady ∧ t.ports.quiet = s.ports.quiet

/-- R104: at the end of its item a reel makes an advancing search and files REEL(r). -/
def Obligations.ReelItemEnds : Prop :=
  ∀ r s, Sized s → r < 4 → s.phase ≠ .inReset → s.house.alert = .normal → (s.reelAt r).runs = true →
    (s.reelAt r).countdown ≤ 1 →
    ∃ t, exec (.reelItemEnd r) s = .next t ∧ t.reelAt r = cued s false (s.reelAt r) ∧
      (∀ q, q ≠ r → t.reelAt q = s.reelAt q) ∧ t.journal = s.journal.filed (.reel r) .update ∧
      t = { s with reel := t.reel, journal := t.journal, link := t.link, ports := t.ports } ∧
      t.link.steady = s.link.steady ∧ t.ports.quiet = s.ports.quiet

/-- R102, R103: what makes a spot eligible, the slots of a lap from the cursor or the slot after it; a cue search takes the
first eligible spot of its lap, or the filler with the cursor where it was. -/
def Obligations.CueSearch : Prop :=
  ∀ s starting x,
    (∀ key, eligible s key = true ↔ ∃ sp, s.findSpot key = some sp ∧
      (sp.title = none ∨ ∃ ti, sp.title = some ti ∧ ∃ sh ∈ s.shows.shows, sh.title = ti ∧
        (sh.state = .onSale ∨ sh.state = .seating) ∧ sh.band ≠ .soldOut)) ∧
    (searchOrder starting x).length = x.slots.length ∧
    (∀ i, i < x.slots.length →
      (searchOrder starting x)[i]? = some ((x.cursor + (if starting then i else i + 1)) % x.slots.length)) ∧
    (∀ i sp, searchSlot s starting x = some (i, sp) →
      (∃ pre post, searchOrder starting x = pre ++ i :: post ∧
        ∀ j ∈ pre, ∀ key, (x.slots)[j]? = some key → eligible s key = false) ∧ (∃ key, (x.slots)[i]? = some key ∧ eligible s key = true ∧ s.findSpot key = some sp) ∧
      cued s starting x = { x with cursor := i, item := .spot sp.media sp.duration, countdown := sp.duration,
                                   state := .playing, plays := (x.plays + 1) % 65536 }) ∧
    ((∀ i key, i ∈ searchOrder starting x → (x.slots)[i]? = some key → eligible s key = false) →
      cued s starting x = { x with item := .filler s.policy.fillerMedia s.policy.fillerDuration,
                                   countdown := s.policy.fillerDuration, state := .filler,
                                   plays := (x.plays + 1) % 65536 }) ∧
    (∀ i key, i ∈ searchOrder starting x → (x.slots)[i]? = some key → eligible s key = true →
      (searchSlot s starting x).isSome = true) ∧
    (x.cursor < x.slots.length → ∀ i, i ∈ searchOrder starting x ↔ i < x.slots.length)

/-- R138, R139: the line's level changes and its count ends; a change against the edge, or of an unused line, does
nothing else. That an arrival that qualifies during start-up is delivered as well is the model's choice (log 44). -/
def Obligations.StartLineQualifies : Prop :=
  ∀ i s, Sized s → i < 16 → s.phase ≠ .inReset → (s.lineEntry i).debounce ≤ (s.lineState i).count + 1 →
    ∃ t, exec (.startLineQualified i) s = .next t ∧
      t.lineState i = ⟨otherLevel (s.lineState i).stable, 0⟩ ∧ (∀ j, j ≠ i → t.lineState j = s.lineState j) ∧
      ((s.lineEntry i).edge.level ≠ otherLevel (s.lineState i).stable ∨ (s.lineEntry i).aud = 0 →
        t = s.withHouse t.house) ∧
      ((s.lineEntry i).edge.level = otherLevel (s.lineState i).stable → 1 ≤ (s.lineEntry i).aud →
        (s.lineEntry i).aud ≤ 16 →
        t = arrival (s.lineEntry i).aud (s.withLineState i ⟨otherLevel (s.lineState i).stable, 0⟩)) ∧
      t.house.map = s.house.map ∧ t.house.alert = s.house.alert ∧ t.policy = s.policy

/-- R21: an arrival is a repeat within two minutes of a start, a start of the earliest SEATING show by CONTACT with the
evaluation that follows, or a stray start. -/
def Obligations.ArrivalStartsTheShow : Prop :=
  ∀ aud s,
    (isRepeat s aud = true ↔ ∃ sh ∈ s.shows.shows, sh.day = 0 ∧ sh.aud = aud ∧
      ∃ b since, sh.started = some (b, since) ∧ since ≤ s.shows.clock.minute ∧ s.shows.clock.minute < since + 2) ∧
    (isRepeat s aud = true → arrival aud s = s) ∧
    (isRepeat s aud = false → (∀ sh ∈ s.shows.shows, sh.day = 0 → sh.aud = aud → sh.state ≠ .seating) →
      arrival aud s = raise .programme .strayStart s) ∧
    (isRepeat s aud = false → s.shows.shows.Pairwise (fun a b => a.key < b.key) →
      ∀ sh ∈ s.shows.shows, sh.day = 0 → sh.aud = aud → sh.state = .seating →
        (∀ x ∈ s.shows.shows, x.day = 0 → x.aud = aud → x.state = .seating → sh.notAfter x) →
        ∃ y, (arrival aud s).findShow sh.key = some y ∧ y.started = some (.contact, s.shows.clock.minute) ∧
          y.state = (if s.shows.clock.valid = false ∨ s.shows.clock.minute < sh.start + sh.delay + s.policy.lateSale then .running
            else if s.shows.clock.minute < sh.start + sh.delay + sh.run then .closed else .ended) ∧
          (∀ k, k ≠ sh.key → (arrival aud s).findShow k = s.findShow k) ∧ ShowChangeRaised (arrival aud s))

/-- R141, R142, R144, R145: the alert line becoming active, from NORMAL and from ALERT_HELD, and becoming inactive in
ALERT. That ALERT is filed after REEL and NOTICES is the model's choice (log 6). -/
def Obligations.AlertLineMovesTheState : Prop :=
  (∀ s, Sized s → s.phase = .running → s.house.alertEntry.debounce ≤ s.house.alertLine.count + 1 →
    readsActive s.house.alertEntry.polarity (otherLevel s.house.alertLine.stable) = true → s.house.alert ≠ .alert →
    ∃ t, exec .alertLineActive s = .next t ∧ t.house.alert = .alert ∧ AlertChangeRaised t ∧
      t.house.alertLine = ⟨otherLevel s.house.alertLine.stable, 0⟩ ∧
      t.chime = s.chime.trigger s.policy.chimeEnable .alarm ∧
      (s.house.alert = .normal →
        (t.noticeSlot 31).notice.map (·.cls) = some .evacuate ∧
        (t.noticeSlot 31).gen = ((s.noticeSlot 31).gen + 1) % 256 ∧
        (∀ r, r < 4 → t.reelAt r = if (s.reelAt r).runs then { s.reelAt r with state := .held } else s.reelAt r) ∧
        t.journal.entries.getLast? = some ⟨t.journal.cur, .alert, .update⟩) ∧
      (s.house.alert = .held → t.notice = s.notice ∧ t.reel = s.reel ∧ t.journal = s.journal) ∧
      t.shows = s.shows ∧ t.seat = s.seat ∧ t.board = s.board ∧ t.policy = s.policy) ∧
  ∀ s, s.phase = .running → s.house.alertEntry.debounce ≤ s.house.alertLine.count + 1 →
    readsActive s.house.alertEntry.polarity (otherLevel s.house.alertLine.stable) = false → s.house.alert = .alert →
    ∃ t, exec .alertLineInactive s = .next t ∧ t.house.alert = .held ∧ AlertChangeRaised t ∧
      t.house.alertLine = ⟨otherLevel s.house.alertLine.stable, 0⟩ ∧
      t = { s with house := t.house, ports := t.ports } ∧ t.ports.quiet = s.ports.quiet

/-- R133 to R136: how a pass begins, what a trigger does in each state of the chime, and the end of a note: the next note of
the copy, another ALARM pass while the state is ALERT, the pending pattern, or IDLE. -/
def Obligations.ChimeNoteEnds : Prop :=
  (∀ (c : ChimeUnit) n rest,
    (c.attention = n :: rest →
      c.begin_ .attention = { c with playing := some ⟨.attention, n :: rest, 0, n.length * 50⟩ }) ∧
    (c.reminder = n :: rest →
      c.begin_ .reminder = { c with playing := some ⟨.reminder, n :: rest, 0, n.length * 50⟩ }) ∧
    (c.alarm = n :: rest → c.begin_ .alarm = { c with playing := some ⟨.alarm, n :: rest, 0, n.length * 50⟩ })) ∧
  (∀ (c : ChimeUnit) p,
    c.trigger false p = c ∧
    (p ≠ .alarm →
      (c.playing = none → c.trigger true p = c.begin_ p) ∧
      ∀ pl, c.playing = some pl →
        (pl.pattern ≠ .alarm → c.trigger true p = { c with pending := some p }) ∧
        (pl.pattern = .alarm → c.trigger true p = c)) ∧
    ((∀ pl, c.playing = some pl → pl.pattern ≠ .alarm) →
      c.trigger true .alarm = { c with pending := none }.begin_ .alarm) ∧
    ∀ pl, c.playing = some pl → pl.pattern = .alarm → c.trigger true .alarm = c) ∧
  ∀ s pl, s.phase ≠ .inReset → s.chime.playing = some pl → pl.left ≤ 1 →
    ∃ t, exec .chimeNoteEnd s = .next t ∧ t = s.withChime t.chime ∧
      (∀ n, (pl.copy)[pl.note + 1]? = some n →
        t.chime = { s.chime with playing := some { pl with note := pl.note + 1, left := n.length * 50 } }) ∧
      ((pl.copy)[pl.note + 1]? = none →
        (pl.pattern = .alarm ∧ s.house.alert = .alert → t.chime = s.chime.begin_ .alarm) ∧
        (¬ (pl.pattern = .alarm ∧ s.house.alert = .alert) →
          (∀ q, s.chime.pending = some q → t.chime = { s.chime with pending := none }.begin_ q) ∧
          (s.chime.pending = none → t.chime = { s.chime with playing := none })))

/-- R125, R126, R129: at a minute boundary the due ONCE notices leave with one filing, and the due REPEAT notices reload with
one REMINDER when a HIGH one did; the Notice Queue's whole share of a boundary. That the rows of the two events are taken
at any second of a VALID clock is the model's choice (log 4); so is the one filing for expiries and CANCEL notices together,
and the REMINDER of a notice that leaves (log 10). -/
def Obligations.NoticesAtABoundary : Prop :=
  (∀ n : Notice, (lifeDue n = true ↔ ∃ l, n.life = .once l ∧ l ≤ 1) ∧
    (reminderDue n = true ↔ n.prio = .high ∧ ∃ v l, n.life = .repeats v l ∧ l ≤ 1) ∧
    ∀ s, windowClosed s n = true ↔ WindowOver s n) ∧
  (∀ s, s.phase ≠ .inReset → s.shows.clock.valid = true →
    (∃ t, exec .noticeExpiry s = .next t ∧
      (∀ i, i < s.notice.slots.length → t.noticeSlot i =
        ⟨(s.noticeSlot i).gen, (s.noticeSlot i).notice.filter (fun n => !lifeDue n)⟩) ∧
      (∀ i n p tm, (s.noticeSlot i).notice = some n → lifeDue n = true → n.origin = .sales p tm → p ≠ .programme →
        causeSet p .noticeEnded t = true) ∧
      ((∀ i n, (s.noticeSlot i).notice = some n → lifeDue n = false) → t = s) ∧
      ((∃ i n, (s.noticeSlot i).notice = some n ∧ lifeDue n = true) →
        t.journal = s.journal.filed .notices .update) ∧
      t = { s with notice := t.notice, journal := t.journal, link := t.link, ports := t.ports }) ∧
    ∃ t, exec .noticeInterval s = .next t ∧
      (∀ i, t.noticeSlot i = ⟨(s.noticeSlot i).gen, (s.noticeSlot i).notice.map (fun n =>
        { n with life := match n.life with
                | .repeats v l => .repeats v (if l ≤ 1 then v else l)
                | x => x })⟩) ∧
      ((∃ i n, (s.noticeSlot i).notice = some n ∧ reminderDue n = true) →
        t.chime = s.chime.trigger s.policy.chimeEnable .reminder) ∧
      ((∀ i n, (s.noticeSlot i).notice = some n → reminderDue n = false) → t.chime = s.chime) ∧
      t = { s with notice := t.notice, chime := t.chime }) ∧
  ∀ s t, t = noticeBoundary s →
    (∀ i, t.noticeSlot i = ⟨(s.noticeSlot i).gen,
      ((s.noticeSlot i).notice.filter (fun n => !lifeDue n && !windowClosed s n)).map
        (fun n => { n with life := n.life.minuteLater })⟩) ∧
    (∀ p, t.notice.portLive p = s.notice.portLive p - (liveNotices s.notice).countP
      (fun x => (lifeDue x.2.2 || windowClosed s x.2.2) && x.2.2.origin.isPort p)) ∧
    t.notice.counter = s.notice.counter ∧
    (∀ i n p tm, (s.noticeSlot i).notice = some n → lifeDue n = true → n.origin = .sales p tm → p ≠ .programme →
      causeSet p .noticeEnded t = true) ∧
    t.journal = (if (liveNotices s.notice).any (fun x => lifeDue x.2.2 || windowClosed s x.2.2)
      then s.journal.filed .notices .update else s.journal) ∧
    t.chime = (if (liveNotices s.notice).any (fun x => reminderDue x.2.2)
      then s.chime.trigger s.policy.chimeEnable .reminder else s.chime) ∧
    t = { s with notice := t.notice, chime := t.chime, journal := t.journal, link := t.link, ports := t.ports }

/-! ### The ports -/

/-- R191, R193: one byte at a port's receiver, and the tick that completes the gap count. -/
def Obligations.PortBytesAndGaps : Prop :=
  ∀ p b stopLow s, s.phase = .running →
    (∃ t, exec (.portByteReceived p b stopLow) s = .next t ∧ t = s.withPortAt p (t.portAt p) ∧
      ((s.portAt p).receiver = .hunting →
        t.portAt p =
          if stopLow = false ∧ b = 0xC3#8 then { s.portAt p with receiver := .inFrame [] 0 } else s.portAt p) ∧
      ∀ bytes gap, (s.portAt p).receiver = .inFrame bytes gap →
        (stopLow = true ∨ lengthBad (bytes ++ [b]) = true ∨
            (frameComplete (bytes ++ [b]) = true ∧ frameOf (bytes ++ [b]) = none) →
          t.portAt p =
            { s.portAt p with receiver := .hunting, frameErrors := bump255 (s.portAt p).frameErrors }) ∧
        (stopLow = false → lengthBad (bytes ++ [b]) = false → frameComplete (bytes ++ [b]) = false →
          t.portAt p = { s.portAt p with receiver := .inFrame (bytes ++ [b]) 0 }) ∧
        ∀ f, stopLow = false → frameOf (bytes ++ [b]) = some f →
          t.portAt p = PortState.accept p f { s.portAt p with receiver := .hunting }) ∧
    ∀ bytes gap, (s.portAt p).receiver = .inFrame bytes gap → 4 ≤ gap →
      ∃ t, exec (.frameGapTimeout p) s = .next t ∧ t = s.withPortAt p (t.portAt p) ∧
        t.portAt p =
          { s.portAt p with receiver := .hunting, frameErrors := bump255 (s.portAt p).frameErrors }

/-- R194, R196: a complete frame is put in execution, answered with the port's own refusal, put on the waiting list,
answered BUSY, or discarded and counted. That a frame waits, on a port with no request in execution, while an answer waits
for a place is the model's choice (log 19), and so is what becomes of bytes collected before it (log 41). -/
def Obligations.FrameIsTaken : Prop :=
  ∀ p f s, s.phase = .running → f.body.length ≤ 255 →
    ∃ t, exec (.requestFrame p (frameBytes f)) s = .next t ∧ t = s.withPortAt p (t.portAt p) ∧
      ((s.portAt p).isFree = true →
        (portCheck p f = none →
          t.portAt p = { s.portAt p with receiver := .hunting, execution := some f }) ∧
        ∀ code, portCheck p f = some code →
          ((s.portAt p).answers.length < 8 →
            t.portAt p = { s.portAt p with
              receiver := .hunting,
              answers := (s.portAt p).answers ++ [⟨f.tag, f.kind, f.terminal, refuse code⟩] }) ∧
          (8 ≤ (s.portAt p).answers.length →
            t.portAt p = { s.portAt p with
              receiver := .hunting,
              held := some ⟨f.tag, f.kind, f.terminal, refuse code⟩ })) ∧
      ((s.portAt p).isFree = false →
        ((s.portAt p).waiting.length < 4 →
          t.portAt p = { s.portAt p with receiver := .hunting, waiting := (s.portAt p).waiting ++ [f] }) ∧
        (4 ≤ (s.portAt p).waiting.length → (s.portAt p).answers.length < 8 →
          t.portAt p = { s.portAt p with
            receiver := .hunting,
            answers := (s.portAt p).answers ++ [⟨f.tag, f.kind, f.terminal, refuse .busy⟩],
            busy := bump255 (s.portAt p).busy }) ∧
        (4 ≤ (s.portAt p).waiting.length → 8 ≤ (s.portAt p).answers.length →
          t.portAt p = { s.portAt p with receiver := .hunting, unanswered := bump255 (s.portAt p).unanswered }))

/-- R194, R195: the answer at the head of the list has gone out; an answer made with the list full takes its place, and
the head of the waiting list then comes into execution. -/
def Obligations.AnswerIsSent : Prop :=
  ∀ p a rest s, s.phase = .running → (s.portAt p).answers = a :: rest →
    ∃ t, exec (.answerSent p) s = .next t ∧ t = s.withPortAt p (t.portAt p) ∧
      ((s.portAt p).held = none → t.portAt p = { s.portAt p with answers := rest }) ∧
      (∀ w, (s.portAt p).held = some w → (rest ++ [w]) <+: (t.portAt p).answers) ∧
      ((s.portAt p).execution = none → ∀ w, (s.portAt p).held = some w →
        ((s.portAt p).waiting = [] → t.portAt p = { s.portAt p with answers := rest ++ [w], held := none }) ∧
        ∀ f fs, (s.portAt p).waiting = f :: fs → portCheck p f = none →
          t.portAt p = { s.portAt p with answers := rest ++ [w], held := none, execution := some f, waiting := fs })

/-- R198: the attention line of a running part. -/
def Obligations.AttentionLine : Prop :=
  ∀ p s, s.phase = .running →
    (attention p s = true ↔ ∃ n, n < 16 ∧ (s.portAt p).causes.getLsbD n = true ∧ (s.portAt p).mask.getLsbD n = false) ∧
    ∀ c n, c.bit p = some n →
      (raise p c s).portAt p = { s.portAt p with causes := (s.portAt p).causes ||| ((1 : Word) <<< n) } ∧
      causeSet p c (raise p c s) = true ∧
      ((s.portAt p).mask.getLsbD n = false → attention p (raise p c s) = true) ∧
      ∀ m, m ≠ n → causeBit p m (raise p c s) = causeBit p m s

/-- R199 and Set Cause Mask, with the words of log 14: causes are given and cleared, the mask is replaced. -/
def Obligations.CausesAreRead : Prop :=
  ∀ h s,
    TakenOrRefused (.readCauses h) h 14 s [] (∃ t,
      Takes (.readCauses h) s h 14 (okWith (wCauses h.port (s.portAt h.port).causes ++ wCauses h.port (s.portAt h.port).mask)) t ∧
      t = { s with ports := t.ports } ∧ (t.portAt h.port).causes = 0 ∧ attention h.port t = false ∧
      BuffersKept h.port s t ∧ ∀ q, q ≠ h.port → t.portAt q = s.portAt q) ∧
    ∀ mask,
      TakenOrRefused (.setCauseMask h mask) h 15 s [(decide (2 ^ causeBits h.port ≤ mask), .badArgument)] (∃ t,
        Takes (.setCauseMask h mask) s h 15 (okWith (wCauses h.port (BitVec.ofNat 16 mask))) t ∧
        t = { s with ports := t.ports } ∧ (t.portAt h.port).mask = BitVec.ofNat 16 mask ∧ CausesKept s t ∧
        (t.portAt h.port).receiver = (s.portAt h.port).receiver ∧
        (t.portAt h.port).frameErrors = (s.portAt h.port).frameErrors ∧
        (t.portAt h.port).busy = (s.portAt h.port).busy ∧
        (t.portAt h.port).unanswered = (s.portAt h.port).unanswered ∧
        ∀ q, q ≠ h.port → t.portAt q = s.portAt q)

/-- R53, R189, R200: the status reads, and what their clear flags clear. The forms of the bodies are the model's choice: flags
as 1 and 0 (log 12), cause and mask words of one or two bytes (log 14), the groups and presence bytes of Read Panel
(log 15). -/
def Obligations.StatusReads : Prop :=
  ∀ h clear s, Sized s →
    (∀ selector,
      TakenOrRefused (.readPortStatus h selector clear) h 16 s
        [(decide (3 < selector), .badArgument),
         (decide (h.port ≠ .programme) && (selectedPort h.port selector).any (fun q => decide (q ≠ h.port)), .notPermitted)]
        (∀ q, selectedPort h.port selector = some q → ∃ t body,
          Takes (.readPortStatus h selector clear) s h 16 (okWith body) t ∧
          (∀ x, x = s.portAt q → q ≠ h.port → body = w1 x.frameErrors ++ w1 x.busy ++ w1 x.unanswered ++
            w1 x.waiting.length ++ wFlag x.execution.isSome ++ w1 x.answers.length ++ w1 x.receiver.code ++
            wCauses q x.causes ++ wCauses q x.mask) ∧
          (∀ x, x = s.portAt q → q = h.port → body = w1 x.frameErrors ++ w1 x.busy ++ w1 x.unanswered ++
            w1 x.waiting.length ++ w1 1 ++ w1 x.answers.length ++ w1 x.receiver.code ++ wCauses q x.causes ++
            wCauses q x.mask) ∧
          (clear = false → NothingChanged h.port s t) ∧
          (clear = true → (t.portAt q).frameErrors = 0 ∧ (t.portAt q).busy = 0 ∧ (t.portAt q).unanswered = 0 ∧
            (t.portAt q).receiver = (s.portAt q).receiver ∧ (t.portAt q).mask = (s.portAt q).mask) ∧
          t = { s with ports := t.ports } ∧ CausesKept s t ∧
          ∀ r, r ≠ h.port → r ≠ q → t.portAt r = s.portAt r)) ∧
    TakenOrRefused (.readSeatStatus h clear) h 51 s [] (∃ t,
      Takes (.readSeatStatus h clear) s h 51 (okWith (w1 s.activeHolds ++ w1 s.seat.free.length ++ w1 s.seat.countA ++
        w1 s.seat.countB ++ w1 s.policy.quotaA ++ w1 s.policy.quotaB ++ w1 s.seat.highWater)) t ∧
      t.seat = { s.seat with highWater := if clear then s.activeHolds else s.seat.highWater } ∧
      t = { s with seat := t.seat, ports := t.ports } ∧ Quietly h.port s t) ∧
    ∀ addr,
      TakenOrRefused (.readPanel h addr clear) h 106 s [(decide (addr = 0 ∨ 24 < addr), .badArgument)] (∃ t,
        Takes (.readPanel h addr clear) s h 106 (okWith (wPanel (s.panelAt addr) s.link)) t ∧
        t.panelAt addr = { s.panelAt addr with error := if clear then .clear else (s.panelAt addr).error } ∧
        (∀ a, 1 ≤ a → a ≠ addr → t.panelAt a = s.panelAt a) ∧
        t = { s with link := { s.link with panels := t.link.panels }, ports := t.ports } ∧ Quietly h.port s t)

/-- Every request that only reads is answered and changes nothing (the body in the field forms of log 11, log 12, log 13 and
log 15; a Read Journal start of 64 to 255 by log 42), and the notices read are the LIVE ones in queue order (R120, R124). -/
def Obligations.ReadsChangeNothing : Prop :=
  ∀ h s,
    ([NoticeClass.evacuate, .cancel, .delay, .desk, .info].map NoticeClass.code = [0, 1, 2, 3, 4] ∧
      [Priority.high, .normal].map Priority.code = [0, 1] ∧
      (queueOrder s.notice).Pairwise (fun a b => a.2.2.notBehind b.2.2) ∧ (queueOrder s.notice).Nodup ∧
      ∀ slot gen n, (slot, gen, n) ∈ queueOrder s.notice ↔ (s.notice.slots)[slot]? = some ⟨gen, some n⟩) ∧
    (∀ key, TakenOrRefused (.queryShow h key) h 8 s [((s.findShow key).isNone, .noSuchShow)]
      (∀ sh, s.findShow key = some sh → Reads (.queryShow h key) s h 8 (wQuery sh))) ∧
    (∀ day start, TakenOrRefused (.listShows h day start) h 9 s [(decide (6 < day), .badArgument)]
      (Reads (.listShows h day start) s h 9 (w1 (showsOfDay s day).length ++
        wList (fun sh : Show => w2 sh.key ++ w1 sh.state.code) (((showsOfDay s day).drop start).take 32)))) ∧
    TakenOrRefused (.readNotices h) h 12 s [] (Reads (.readNotices h) s h 12 (wList wNotice (queueOrder s.notice))) ∧
    TakenOrRefused (.readAlert h) h 13 s [] (Reads (.readAlert h) s h 13 (w1 s.house.alert.code)) ∧
    (∀ key, TakenOrRefused (.readShow h key) h 37 s [((s.findShow key).isNone, .noSuchShow)]
      (∀ sh, s.findShow key = some sh → Reads (.readShow h key) s h 37 (wShow sh))) ∧
    TakenOrRefused (.readPool h) h 42 s [] (Reads (.readPool h) s h 42 (w1 s.shows.poolSplit ++
      w1 (16 * s.shows.poolSplit) ++ w1 s.shows.shows.length ++ w1 (256 - 16 * s.shows.poolSplit) ++
      w1 s.reel.spots.length)) ∧
    (∀ slot, TakenOrRefused (.readHold h slot) h 52 s [(decide (192 ≤ slot), .badArgument)]
      (Reads (.readHold h slot) s h 52 (wHoldSlot (s.holdSlot slot) (freePosition s.seat slot)))) ∧
    (∀ start, TakenOrRefused (.readBoard h start) h 56 s [] (Reads (.readBoard h start) s h 56
      (w1 (boardOrder s).length ++ wList wBoardLine (((boardOrder s).drop start).take 16)))) ∧
    (∀ aud, TakenOrRefused (.readDoor h aud) h 57 s [(decide (aud = 0 ∨ 16 < aud), .badArgument)]
      (Reads (.readDoor h aud) s h 57 (wDoorImage aud (s.doorImage aud)))) ∧
    (∀ key, TakenOrRefused (.readSpot h key) h 70 s [((s.findSpot key).isNone, .badArgument)]
      (∀ sp, s.findSpot key = some sp → Reads (.readSpot h key) s h 70 (w2 sp.key ++ w2 sp.media ++ w1 sp.duration ++
        wOpt w1 sp.title ++ w1 sp.record ++ wList w1 (reelsNaming s key)))) ∧
    (∀ r, TakenOrRefused (.readReel h r) h 71 s [(decide (3 < r), .badArgument)]
      (Reads (.readReel h r) s h 71 (wReel (s.reelAt r)))) ∧
    TakenOrRefused (.readChime h) h 81 s [] (Reads (.readChime h) s h 81 (wNotes s.chime.attention ++
      wNotes s.chime.reminder ++ wNotes s.chime.alarm ++ w1 (if s.chime.playing.isSome then 1 else 0) ++
      wOpt (fun x : Playing => w1 x.pattern.code) s.chime.playing ++
      wOpt (fun p : ChimePattern => w1 p.code) s.chime.pending)) ∧
    TakenOrRefused (.readHouseLines h) h 91 s [] (Reads (.readHouseLines h) s h 91
      ((List.range 16).flatMap (fun i => w1 (s.lineEntry i).aud ++ w1 (s.lineEntry i).edge.code ++
        w2 (s.lineEntry i).debounce ++ w1 (levelCode (s.lineState i).stable) ++ w2 (s.lineState i).count) ++
      w1 s.house.alertEntry.polarity.code ++ w2 s.house.alertEntry.debounce ++
      (w1 (levelCode s.house.alertLine.stable) ++ w2 s.house.alertLine.count) ++ w1 s.house.alert.code)) ∧
    (∀ start, TakenOrRefused (.readJournal h start) h 96 s [] (Reads (.readJournal h start) s h 96
      (w2 s.journal.cur ++ w2 s.journal.floor ++ w1 s.journal.entries.length ++
        wList (fun e : Entry => w2 e.rev ++ wTarget e.target ++ w1 e.form.code)
          ((s.journal.entries.drop start).take 16)))) ∧
    TakenOrRefused (.readPolicy h) h 113 s [] (Reads (.readPolicy h) s h 113
      ((List.range 17).flatMap (fun id =>
        if settingWidth id = 2 then w2 (s.policy.value id) else w1 (s.policy.value id)))) ∧
    TakenOrRefused (.readClock h) h 115 s [] (Reads (.readClock h) s h 115
      (w1 (if s.shows.clock.valid then 0 else 1) ++ w2 s.shows.clock.minute ++ w1 s.shows.clock.second ++ w2 s.policy.dayStart ++
        w1 ((s.policy.dayStart + s.shows.clock.minute) % 1440 / 60) ++
        w1 ((s.policy.dayStart + s.shows.clock.minute) % 1440 % 60)))

/-! ### Holds and seats -/

/-- R47, R50, R52, R56, R57: a hold refused by the first of seven tests, or granted in one step. -/
def Obligations.HoldSeatsGrants : Prop :=
  ∀ h key zone count s, Sized s →
    TakenOrRefused (.holdSeats h key zone count) h 1 s
      (saleTests s key zone count ++
        [(decide (s.policy.quota h.port ≤ s.seat.portCount h.port), .quotaFull), (s.seat.free.isEmpty, .tableFull)])
      (∀ z slot rest, zoneOf zone = some z → s.seat.free = slot :: rest → slot < 192 → ∃ t gen,
        gen = ((s.holdSlot slot).gen + 1) % 256 ∧
        Takes (.holdSeats h key zone count) s h 1 (okWith (w1 slot ++ w1 gen ++ w2 s.policy.holdLife)) t ∧
        t.holdSlot slot = ⟨gen, .active ⟨key, z, count, h.port, h.terminal, 0⟩ s.policy.holdLife⟩ ∧
        (∀ i, i ≠ slot → t.holdSlot i = s.holdSlot i) ∧ t.seat.free = rest ∧
        t.seat.portCount h.port = s.seat.portCount h.port + 1 ∧
        (∀ p, p ≠ h.port → t.seat.portCount p = s.seat.portCount p) ∧
        t.seat.highWater = Nat.max s.seat.highWater t.activeHolds ∧
        Recounted h.port key (addHeld z count) s t)

/-- R49, R58, R59: the lookup's refusals, a confirmation and a release. -/
def Obligations.HoldsAreConfirmedAndReleased : Prop :=
  ∀ h slot gen s, Sized s →
    TakenOrRefused (.confirmHold h slot gen) h 2 s (lookupTests s h.port slot gen)
      (AnswersEnded (.confirmHold h slot gen) s h 2 slot ∧
        ∀ info life, (s.holdSlot slot).use = .active info life → ∃ t,
          Takes (.confirmHold h slot gen) s h 2 (okWith (w2 info.key ++ w1 info.zone.code ++ w1 info.seats)) t ∧
          t.holdSlot slot = ⟨gen, .ended info .confirmed⟩ ∧ (∀ i, i ≠ slot → t.holdSlot i = s.holdSlot i) ∧
          t.seat.free = s.seat.free ++ [slot] ∧
          t.seat.portCount info.port = s.seat.portCount info.port - 1 ∧
          (∀ p, p ≠ info.port → t.seat.portCount p = s.seat.portCount p) ∧ t.seat.highWater = s.seat.highWater ∧
          Recounted h.port info.key (fun sh => addSold info.zone info.seats (subHeld info.zone info.seats sh)) s t) ∧
    TakenOrRefused (.releaseHold h slot gen) h 3 s (lookupTests s h.port slot gen)
      (AnswersEnded (.releaseHold h slot gen) s h 3 slot ∧
        ∀ info life, (s.holdSlot slot).use = .active info life → ∃ t,
          Takes (.releaseHold h slot gen) s h 3 (okWith (w2 info.key ++ w1 info.zone.code ++ w1 info.seats)) t ∧
          t.holdSlot slot = ⟨gen, .ended info .released⟩ ∧ (∀ i, i ≠ slot → t.holdSlot i = s.holdSlot i) ∧
          t.seat.free = s.seat.free ++ [slot] ∧
          t.seat.portCount info.port = s.seat.portCount info.port - 1 ∧
          (∀ p, p ≠ info.port → t.seat.portCount p = s.seat.portCount p) ∧ t.seat.highWater = s.seat.highWater ∧
          Recounted h.port info.key (subHeld info.zone info.seats) s t)

/-- R60, R61: an extension sets the life anew until the extensions are used up; Query Hold reads. That Extend Hold on a
hold that has expired is answered HOLD_ENDED also when its extensions were used up is the model's choice (log 37). -/
def Obligations.HoldsAreExtendedAndQueried : Prop :=
  ∀ h slot gen s, Sized s →
    TakenOrRefused (.extendHold h slot gen) h 4 s
      ([(decide (192 ≤ slot), .badArgument), (s.house.alert != .normal, .houseAlert)] ++ lookupTests s h.port slot gen)
      (AnswersEnded (.extendHold h slot gen) s h 4 slot ∧
        ∀ info life, (s.holdSlot slot).use = .active info life →
          (s.policy.holdExtends ≤ info.extensions → Refuses (.extendHold h slot gen) s h 4 .extendLimit) ∧
          (info.extensions < s.policy.holdExtends → ∃ t,
            Takes (.extendHold h slot gen) s h 4
              (okWith (w2 s.policy.holdLife ++ w1 (s.policy.holdExtends - (info.extensions + 1)))) t ∧
            t.holdSlot slot =
              ⟨gen, .active { info with extensions := info.extensions + 1 } s.policy.holdLife⟩ ∧
            (∀ i, i ≠ slot → t.holdSlot i = s.holdSlot i) ∧
            t = { s with seat := { s.seat with slots := t.seat.slots }, ports := t.ports } ∧ Quietly h.port s t)) ∧
    TakenOrRefused (.queryHold h slot gen) h 5 s (lookupTests s h.port slot gen)
      (AnswersEnded (.queryHold h slot gen) s h 5 slot ∧
        ∀ info life, (s.holdSlot slot).use = .active info life →
          Reads (.queryHold h slot gen) s h 5
            (w2 info.key ++ w1 info.zone.code ++ w1 info.seats ++ [info.terminal] ++ w2 life ++ w1 info.extensions))

/-- R62, R63: seats sold without a hold, and sold seats refunded. That a refund on a CANCELLED show may change its line's hint
is the model's choice (log 36). -/
def Obligations.SeatsAreSoldAndRefunded : Prop :=
  ∀ h key zone count s, Sized s →
    TakenOrRefused (.sellNow h key zone count) h 6 s (saleTests s key zone count)
      (∀ z, zoneOf zone = some z → ∃ t,
        Takes (.sellNow h key zone count) s h 6 (okWith (w2 key ++ w1 z.code ++ w1 count)) t ∧ t.seat = s.seat ∧
        Recounted h.port key (addSold z count) s t) ∧
    TakenOrRefused (.refundSeats h key zone count) h 7 s
      [((zoneOf zone).isNone || decide (count < 1) || decide (16 < count), .badArgument),
       ((s.findShow key).isNone, .noSuchShow),
       ((s.findShow key).any (fun sh => sh.state == .ended), .notRefundable),
       (onZone s key zone (fun x => decide (x.sold < count)), .notSold)]
      (∀ z, zoneOf zone = some z → ∃ t,
        Takes (.refundSeats h key zone count) s h 7 (okWith (w2 key ++ w1 z.code ++ w1 count)) t ∧ t.seat = s.seat ∧
        Recounted h.port key (subSold z count) s t)

/-- R30 to R33: the programme server's changes of a zone's capacity and withheld count. -/
def Obligations.CapacityAndWithholding : Prop :=
  ∀ h key zone n s, Sized s →
    TakenOrRefused (.setCapacity h key zone n) h 48 s
      (zoneTests s key zone ++
        [(decide (1023 < n), .badArgument), (onZone s key zone (fun x => decide (n < x.sold + x.held + x.withheld)), .belowCommitted)])
      (∀ z sh, zoneOf zone = some z → s.findShow key = some sh →
        ((sh.zone z).cap = n → Reads (.setCapacity h key zone n) s h 48 []) ∧
        ((sh.zone z).cap ≠ n → ∃ t, Takes (.setCapacity h key zone n) s h 48 (okWith []) t ∧ t.seat = s.seat ∧
          Recounted h.port key (fun x => x.withZone z { x.zone z with cap := n }) s t)) ∧
    TakenOrRefused (.withhold h key zone n) h 49 s
      (zoneTests s key zone ++
        [(decide (n < 1 ∨ 1023 < n), .badArgument), (onZone s key zone (fun x => decide (x.available < n)), .notEnough)])
      (∀ z, zoneOf zone = some z → ∃ t, Takes (.withhold h key zone n) s h 49 (okWith []) t ∧ t.seat = s.seat ∧
        Recounted h.port key (fun x => x.withZone z { x.zone z with withheld := (x.zone z).withheld + n }) s t) ∧
    TakenOrRefused (.unwithhold h key zone n) h 50 s
      (zoneTests s key zone ++
        [(decide (n < 1 ∨ 1023 < n), .badArgument), (onZone s key zone (fun x => decide (x.withheld < n)), .notWithheld)])
      (∀ z, zoneOf zone = some z → ∃ t, Takes (.unwithhold h key zone n) s h 50 (okWith []) t ∧ t.seat = s.seat ∧
        Recounted h.port key (fun x => x.withZone z { x.zone z with withheld := (x.zone z).withheld - n }) s t)

/-- R36, R37, R39, R40: the four stages of the availability computation. -/
def Obligations.AvailabilityComputation : Prop :=
  ∀ (pol : Policy) (sh : Show) (o : Nat),
    o = (if sh.capacity = 0 then 256 else 256 * sh.committed / sh.capacity) →
    (∃ latch band figure, sh.compute pol = { sh with latch := latch, band := band, figure := figure }) ∧
    (sh.latch = false → ((sh.compute pol).latch = true ↔ 16 * pol.fillSixteenths ≤ o)) ∧
    (sh.latch = true → ((sh.compute pol).latch = false ↔ (o : Int) < 16 * pol.fillSixteenths - pol.hysteresis)) ∧
    (sh.available = 0 → (sh.compute pol).band = .soldOut) ∧
    (sh.available ≠ 0 → sh.available ≤ pol.fewLeft → (sh.compute pol).band = .fewLeft) ∧
    (sh.available ≠ 0 → pol.fewLeft < sh.available → (sh.compute pol).latch = true → (sh.compute pol).band = .filling) ∧
    (sh.available ≠ 0 → pol.fewLeft < sh.available → (sh.compute pol).latch = false → (sh.compute pol).band = .open_) ∧
    ((sh.compute pol).band = .soldOut ↔ sh.available = 0) ∧
    (sh.available ≤ pol.fewLeft → (sh.compute pol).figure = ⟨sh.available, false⟩) ∧
    (pol.fewLeft < sh.available →
      (sh.compute pol).figure = ⟨Nat.min 990 (sh.available / 10 * 10), true⟩)

/-- R43, R76, R78, R79, R80, R84, R155 to R157, R159, R173, R185, R186: what a filing makes of the journal, of REFRESH_FORCED
and of the panels; what a board line and a door line hold by the show's record; a line is recomputed whole, compared with
its image, and filed exactly when they differ. -/
def Obligations.PublicationByDifference : Prop :=
  (∀ t f s, Sized s → FilingTaken t f s (file t f s)) ∧
  (∀ s key, s.findShow key = none → computeLine s key = none) ∧
  (∀ s key sh, s.findShow key = some sh →
    ((computeLine s key).isSome = true ↔ sh.day = 0 ∧ sh.hidden = false ∧
      (sh.state = .onSale ∨ sh.state = .seating ∨ sh.state = .running ∨
        (sh.state = .cancelled ∧ (s.shows.clock.valid = false ∨ s.shows.clock.minute < sh.start + sh.run)))) ∧
    ∀ l, computeLine s key = some l → l.key = key ∧ l.aud = sh.aud ∧ l.title = sh.title ∧ l.start = sh.start + sh.delay ∧
      l.delay = (if sh.delay = 0 then none else some sh.delay) ∧ l.word = statusWord sh ∧
      l.figure = (if sh.state = .cancelled then none else some sh.figure) ∧
      ∀ x, l.hint = some x ↔ (sh.band = .soldOut ∨ sh.band = .fewLeft) ∧ ∃ k y, sh.sibling = some k ∧
        s.findShow k = some y ∧ (y.state = .onSale ∨ y.state = .seating) ∧ (y.band = .open_ ∨ y.band = .filling) ∧
        x = ⟨y.start + y.delay, y.aud⟩) ∧
  (∀ sh : Show,
    (sh.state = .cancelled → statusWord sh = .cancelled) ∧ (sh.state = .running → statusWord sh = .started) ∧
    (sh.state ≠ .cancelled → sh.state ≠ .running →
      (sh.band = .soldOut → statusWord sh = .soldOut) ∧
      (sh.band ≠ .soldOut →
        (sh.state = .seating → statusWord sh = .seatingNow) ∧
        (sh.state ≠ .seating →
          (0 < sh.delay → statusWord sh = .delayed) ∧
          (sh.delay = 0 → (sh.band = .fewLeft → statusWord sh = .fewLeft) ∧
            (sh.band = .filling → statusWord sh = .filling) ∧ (sh.band = .open_ → statusWord sh = .onSale)))))) ∧
  (∀ s aud, (s.doorShow aud = none → computeDoor s aud = none) ∧
    ∀ k sh, s.doorShow aud = some k → s.findShow k = some sh →
      computeDoor s aud = some ⟨k, sh.title, sh.start + sh.delay, statusWord sh, sh.figure⟩) ∧
  (∀ key s t, t = publishLine key s →
    (s.lineImage key = computeLine s key → t = s) ∧
    (s.lineImage key ≠ computeLine s key → t.lineImage key = computeLine s key ∧
      t.journal = s.journal.filed (.boardLine key) (if (computeLine s key).isSome then .update else .remove)) ∧
    (∀ k, k ≠ key → t.lineImage k = s.lineImage k) ∧ t.board.doors = s.board.doors ∧ t.board.titles = s.board.titles ∧
    t = { s with board := t.board, journal := t.journal, link := t.link, ports := t.ports } ∧
    t.link.steady = s.link.steady ∧ t.ports.quiet = s.ports.quiet ∧ OnlyForced s t) ∧
  ∀ aud s t, s.board.doors.length = 16 → 1 ≤ aud → aud ≤ 16 → t = publishDoor aud s →
    (s.doorImage aud = computeDoor s aud → t = s) ∧
    (s.doorImage aud ≠ computeDoor s aud → t.doorImage aud = computeDoor s aud ∧
      t.journal = s.journal.filed (.door aud) .update) ∧
    (∀ a, 1 ≤ a → a ≠ aud → t.doorImage a = s.doorImage a) ∧ t.board.lines = s.board.lines ∧
    t.board.titles = s.board.titles ∧
    t = { s with board := t.board, journal := t.journal, link := t.link, ports := t.ports } ∧
    t.link.steady = s.link.steady ∧ t.ports.quiet = s.ports.quiet ∧ OnlyForced s t

/-! ### Shows -/

/-- R1, R5, R13, R14, R38: a Load Show refused by the first of six tests, or a show made in the lowest free record. -/
def Obligations.ShowsAreLoaded : Prop :=
  ∀ h key day aud title start run delay caps hidden sibling sold withheld openNow s, Sized s →
    TakenOrRefused (.loadShow h key day aud title start run delay caps hidden sibling sold withheld openNow) h 32 s
      [(decide (key = 0 ∨ 6 < day ∨ aud = 0 ∨ 16 < aud ∨ 63 < title ∨ 1439 < start ∨ 1023 < caps.1 ∨
          1023 < caps.2.1 ∨ 1023 < caps.2.2 ∨ sibling = some 0 ∨ sibling = some key), .badArgument),
       (s.house.alert != .normal && decide (0 < sold.1.getD 0 + sold.2.1.getD 0 + sold.2.2.getD 0), .houseAlert),
       ((s.findShow key).isSome, .duplicate),
       (decide (caps.1 < sold.1.getD 0 + withheld.1.getD 0 ∨ caps.2.1 < sold.2.1.getD 0 + withheld.2.1.getD 0 ∨
          caps.2.2 < sold.2.2.getD 0 + withheld.2.2.getD 0), .belowCommitted),
       (openNow && decide (day = 0) && !s.shows.clock.valid, .clockNotSet),
       ((List.range (16 * s.shows.poolSplit)).all (fun r => s.shows.shows.any (fun x => x.record == r)), .tableFull)]
      (∃ t y, Takes (.loadShow h key day aud title start run delay caps hidden sibling sold withheld openNow) s h 32
          (okMarked (clampTo 10 300 run != run || Nat.min delay (Nat.min 180 (1439 - start)) != delay) []) t ∧
        t.findShow key = some y ∧ (∀ k, k ≠ key → t.findShow k = s.findShow k) ∧
        y.record < 16 * s.shows.poolSplit ∧ (∀ x ∈ s.shows.shows, x.record ≠ y.record) ∧
        (∀ r, r < y.record → ∃ x ∈ s.shows.shows, x.record = r) ∧
        y.day = day ∧ y.aud = aud ∧ y.title = title ∧ y.start = start ∧ y.run = clampTo 10 300 run ∧
        y.delay = Nat.min delay (Nat.min 180 (1439 - start)) ∧ y.hidden = hidden ∧ y.sibling = sibling ∧
        y.std = ⟨caps.1, sold.1.getD 0, withheld.1.getD 0, 0⟩ ∧
        y.prm = ⟨caps.2.1, sold.2.1.getD 0, withheld.2.1.getD 0, 0⟩ ∧
        y.acc = ⟨caps.2.2, sold.2.2.getD 0, withheld.2.2.getD 0, 0⟩ ∧
        (∀ z, z = Show.compute s.policy { y with latch := false } →
          y.latch = z.latch ∧ y.band = z.band ∧ y.figure = z.figure) ∧
        (openNow = false → y.state = .loaded ∧ y.started = none) ∧
        (openNow = true → y.state ≠ .loaded ∧ y.state ≠ .cancelled) ∧
        dueTransition t.policy t.shows.clock y = none ∧ ShowChangeRaised t ∧ Published key t ∧ DoorServed aud t ∧
        ShowFrame h.port s t)

/-- R15, R20: an Amend Show refused by the first of its tests, or every carried field written together; the doors of the
auditorium left and of the one entered follow. -/
def Obligations.ShowsAreAmended : Prop :=
  ∀ h key start run aud title sibling hidden s, Sized s →
    TakenOrRefused (.amendShow h key start run aud title sibling hidden) h 33 s
      [((s.findShow key).isNone, .noSuchShow),
       ((s.findShow key).any (fun sh =>
          sh.state == .running || sh.state == .closed || sh.state == .ended || sh.state == .cancelled), .notAmendable),
       ((s.findShow key).any (fun sh => decide (aud.getD sh.aud = 0 ∨ 16 < aud.getD sh.aud ∨ 63 < title.getD sh.title ∨
          1439 < start.getD sh.start ∨ sibling = some (some 0) ∨ sibling = some (some key))), .badArgument)]
      (∀ sh, s.findShow key = some sh → ∃ t y x,
        x = { sh with
                start := start.getD sh.start, run := clampTo 10 300 (run.getD sh.run),
                delay := Nat.min sh.delay (Nat.min 180 (1439 - start.getD sh.start)), aud := aud.getD sh.aud,
                title := title.getD sh.title, sibling := sibling.getD sh.sibling, hidden := hidden.getD sh.hidden } ∧
        Takes (.amendShow h key start run aud title sibling hidden) s h 33
          (okMarked (run.getD sh.run != x.run || x.delay != sh.delay) []) t ∧
        t.findShow key = some y ∧ (∀ k, k ≠ key → t.findShow k = s.findShow k) ∧
        (x.start = sh.start → x.run = sh.run → y = x) ∧
        (x.start ≠ sh.start ∨ x.run ≠ sh.run → dueTransition t.policy t.shows.clock y = none ∧
          (dueTransition s.policy s.shows.clock x = none → y = x)) ∧
        y.start = x.start ∧ y.run = x.run ∧ y.delay = x.delay ∧ y.aud = x.aud ∧ y.title = x.title ∧
        y.sibling = x.sibling ∧ y.hidden = x.hidden ∧ y.day = sh.day ∧
        (∀ z, (y.zone z).sold = (sh.zone z).sold ∧ (y.zone z).withheld = (sh.zone z).withheld ∧
          (y.zone z).cap = (sh.zone z).cap) ∧
        Published key t ∧ DoorServed sh.aud t ∧ DoorServed y.aud t ∧ ShowFrame h.port s t)

/-- R13, R16, R17, R20, R68: sales opened, and a show cancelled with its holds voided and its DELAY notice withdrawn. -/
def Obligations.SalesOpenAndShowsCancel : Prop :=
  ∀ h key s, Sized s →
    TakenOrRefused (.openSales h key) h 34 s
      [((s.findShow key).isNone, .noSuchShow),
       ((s.findShow key).any (fun sh => decide (sh.day = 0) && !s.shows.clock.valid), .clockNotSet),
       ((s.findShow key).any (fun sh => sh.state != .loaded && sh.state != .onSale), .notAmendable)]
      (∀ sh, s.findShow key = some sh →
        (sh.state = .onSale → Reads (.openSales h key) s h 34 []) ∧
        (sh.state = .loaded → ∃ t y, Takes (.openSales h key) s h 34 (okWith []) t ∧ t.findShow key = some y ∧
          (∀ k, k ≠ key → t.findShow k = s.findShow k) ∧ y.state ≠ .loaded ∧ y.state ≠ .cancelled ∧
          dueTransition t.policy t.shows.clock y = none ∧
          (dueTransition s.policy s.shows.clock { sh with state := .onSale } = none → y = { sh with state := .onSale }) ∧
          ShowChangeRaised t ∧ Published key t ∧ DoorServed sh.aud t ∧ ShowFrame h.port s t)) ∧
    TakenOrRefused (.cancelShow h key) h 35 s
      [((s.findShow key).isNone, .noSuchShow),
       ((s.findShow key).any (fun sh => sh.state == .closed || sh.state == .ended || sh.state == .cancelled), .notAmendable)]
      (∀ sh, s.findShow key = some sh → ∃ t y, Takes (.cancelShow h key) s h 35 (okWith []) t ∧
        t.findShow key = some y ∧ (∀ k, k ≠ key → t.findShow k = s.findShow k) ∧ y.state = .cancelled ∧
        y.delay = sh.delay ∧ y.started = sh.started ∧ y.start = sh.start ∧ y.run = sh.run ∧ y.day = sh.day ∧
        (∀ z, (y.zone z).sold = (sh.zone z).sold ∧ (y.zone z).withheld = (sh.zone z).withheld ∧
          (y.zone z).cap = (sh.zone z).cap) ∧
        (∀ i, i < 192 → t.holdSlot i = match (s.holdSlot i).use with
          | .active info _ => if info.key = key then ⟨(s.holdSlot i).gen, .ended info .voided⟩ else s.holdSlot i
          | _ => s.holdSlot i) ∧
        (∀ i info life, i < 192 → (s.holdSlot i).use = .active info life → info.key = key → info.port ≠ .programme →
          causeSet info.port .holdVoided t = true) ∧
        ((∀ i info life, i < 192 → (s.holdSlot i).use = .active info life → info.key ≠ key) →
          y = { sh with state := .cancelled } ∧ t.seat = s.seat) ∧
        (∀ i n, (t.noticeSlot i).notice = some n → ¬ (n.cls = .delay ∧ n.linked = some key)) ∧
        (∀ i n, (s.noticeSlot i).notice = some n → ¬ (n.cls = .delay ∧ n.linked = some key) →
          t.noticeSlot i = s.noticeSlot i) ∧
        ShowChangeRaised t ∧ Published key t ∧ DoorServed sh.aud t ∧ ShowFrame h.port s t)

/-- R18, R20: a show without sold, held or withheld seats is removed with its notices and its line, and the door of its auditorium
follows. -/
def Obligations.ShowsAreRemoved : Prop :=
  ∀ h key s, Sized s →
    TakenOrRefused (.removeShow h key) h 36 s
      [((s.findShow key).isNone, .noSuchShow),
       ((s.findShow key).any (fun sh => decide (0 < sh.committed)), .inUse)]
      (∃ t, Takes (.removeShow h key) s h 36 (okWith []) t ∧ t.findShow key = none ∧
        (∀ k, k ≠ key → t.findShow k = s.findShow k) ∧ t.lineImage key = none ∧
        (∀ i n, (t.noticeSlot i).notice = some n → n.linked ≠ some key) ∧
        (∀ i n, (s.noticeSlot i).notice = some n → n.linked ≠ some key → t.noticeSlot i = s.noticeSlot i) ∧
        (∀ sh, s.findShow key = some sh → DoorServed sh.aud t) ∧
        t.seat = s.seat ∧ ShowChangeRaised t ∧ Published key t ∧ ShowFrame h.port s t)

/-- R6, R83: a title takes its text and rating, its image follows, and TITLE is filed when the image changed. -/
def Obligations.TitlesAreDefined : Prop :=
  ∀ h index text rating s, Sized s →
    TakenOrRefused (.defineTitle h index text rating) h 38 s
      [(decide (63 < index) || decide (text.length = 0) || decide (32 < text.length) ||
          text.any (fun c => decide (c.toNat < 32) || decide (126 < c.toNat)) || decide (7 < rating), .badArgument)]
      (∃ t, Takes (.defineTitle h index text rating) s h 38 (okWith []) t ∧
        t.shows = { s.shows with titles := s.shows.titles.set index (some ⟨text, rating⟩) } ∧
        t.board = { s.board with titles := s.board.titles.set index ⟨text, rating⟩ } ∧
        ((s.board.titles)[index]? = some ⟨text, rating⟩ → t.journal = s.journal ∧ t.link = s.link) ∧
        ((s.board.titles)[index]? ≠ some ⟨text, rating⟩ → t.journal = s.journal.filed (.title index) .update) ∧
        t = { s with shows := t.shows, board := t.board, journal := t.journal, link := t.link, ports := t.ports } ∧
        FilesOnly h.port s t)

/-- R20, R23, R24, R25, R89, R163, R185, R186: the day rolled by request, with every line and every door, and the day cleared,
with what that makes of the panels and of REFRESH_FORCED. -/
def Obligations.DayRollsAndClears : Prop :=
  ∀ h s, Sized s → s.shows.shows.Pairwise (fun a b => a.key < b.key) →
    TakenOrRefused (.rollDay h) h 39 s [(!s.shows.clock.valid, .clockNotSet)]
      (∃ t, Takes (.rollDay h) s h 39 (okWith []) t ∧ t.shows.clock = ⟨true, 0, 0⟩ ∧ t.link.beaconPending = true ∧
        (∀ y ∈ t.shows.shows, dueTransition t.policy t.shows.clock y = none) ∧ DayRolled s t ∧
        t = { s with seat := t.seat, shows := t.shows, board := t.board, notice := t.notice, journal := t.journal,
                     link := t.link, ports := t.ports } ∧
        t.shows.titles = s.shows.titles ∧ t.shows.poolSplit = s.shows.poolSplit ∧ BuffersKept h.port s t ∧
        OnlyShowCauses s t) ∧
    TakenOrRefused (.dayClear h) h 40 s []
      (∃ t, Takes (.dayClear h) s h 40 (okWith []) t ∧
        t.shows = { s.shows with shows := [], titles := List.replicate 64 none, doors := List.replicate 16 none } ∧
        (∀ i, i < 192 → t.holdSlot i = match (s.holdSlot i).use with
          | .active info _ => ⟨(s.holdSlot i).gen, .ended info .voided⟩
          | _ => s.holdSlot i) ∧
        t.seat.free = List.range 192 ∧ t.seat.countA = 0 ∧ t.seat.countB = 0 ∧ t.seat.highWater = s.seat.highWater ∧
        t.board = ⟨[], List.replicate 16 none, List.replicate 64 ⟨[], 0⟩⟩ ∧
        (∀ i, i < 31 → t.noticeSlot i = ⟨(s.noticeSlot i).gen, none⟩) ∧ t.noticeSlot 31 = s.noticeSlot 31 ∧
        t.notice.liveA = 0 ∧ t.notice.liveB = 0 ∧ t.journal.entries = [] ∧ t.journal.floor = t.journal.cur ∧
        t.journal.cur = (if 65535 ≤ s.journal.cur then 1 else s.journal.cur + 1) ∧ ShowChangeRaised t ∧
        (∀ q, q ≠ .programme → ∀ n, n ≠ 3 → causeBit q n t = causeBit q n s) ∧
        causeBit .programme 4 t = (causeBit .programme 4 s || decide (65535 ≤ s.journal.cur)) ∧
        (∀ n, n ≠ 4 → n ≠ 9 → causeBit .programme n t = causeBit .programme n s) ∧ PanelsTold s t ∧
        t = { s with seat := t.seat, shows := t.shows, board := t.board, notice := t.notice, journal := t.journal,
                     link := t.link, ports := t.ports } ∧
        t.link.steady = s.link.steady ∧ BuffersKept h.port s t)

/-! ### The record pool, spots and reels -/

/-- R1, R2, R93 to R95: the pool split, and the spot library. -/
def Obligations.PoolAndSpots : Prop :=
  ∀ h s,
    (∀ value v, v = clampTo 1 15 value →
      TakenOrRefused (.setPoolSplit h value) h 41 s
        [(s.store.state != .idle, .storeBusy),
         (s.shows.shows.any (fun x => decide (16 * v ≤ x.record ∧ x.record < 16 * s.shows.poolSplit)) ||
            s.reel.spots.any (fun x => decide (16 * s.shows.poolSplit ≤ x.record ∧ x.record < 16 * v)), .inUse)]
        (∃ t, Takes (.setPoolSplit h value) s h 41 (okMarked (v != value) []) t ∧
          t = { s with shows := { s.shows with poolSplit := v }, ports := t.ports } ∧ Quietly h.port s t)) ∧
    (∀ key media duration title,
      TakenOrRefused (.defineSpot h key media duration title) h 64 s
        [(s.store.state != .idle, .storeBusy), (decide (key = 0 ∨ 63 < title.getD 0), .badArgument),
         ((s.findSpot key).isNone &&
            (List.range 256).all (fun r =>
              decide (r < 16 * s.shows.poolSplit) || s.reel.spots.any (fun x => x.record == r)), .tableFull)]
        (∃ t sp, Takes (.defineSpot h key media duration title) s h 64
            (okMarked (clampTo 5 180 duration != duration) []) t ∧
          t.findSpot key = some sp ∧ sp.media = media ∧ sp.duration = clampTo 5 180 duration ∧ sp.title = title ∧
          (∀ old, s.findSpot key = some old → sp.record = old.record) ∧
          (s.findSpot key = none → 16 * s.shows.poolSplit ≤ sp.record ∧ sp.record < 256 ∧
            (∀ x ∈ s.reel.spots, x.record ≠ sp.record) ∧
            ∀ r, sp.record < r → r < 256 → ∃ x ∈ s.reel.spots, x.record = r) ∧
          (∀ k, k ≠ key → t.findSpot k = s.findSpot k) ∧
          t = { s with reel := { s.reel with spots := t.reel.spots }, ports := t.ports } ∧ Quietly h.port s t)) ∧
    ∀ key, Sized s →
      TakenOrRefused (.removeSpot h key) h 65 s
        [(s.store.state != .idle, .storeBusy), ((s.findSpot key).isNone, .badArgument),
         (s.reel.reels.any (fun x => x.slots.contains key), .inUse)]
        (∃ t, Takes (.removeSpot h key) s h 65 (okWith []) t ∧ t.findSpot key = none ∧
          (∀ k, k ≠ key → t.findSpot k = s.findSpot k) ∧
          t = { s with reel := { s.reel with spots := t.reel.spots }, ports := t.ports } ∧ Quietly h.port s t)

/-- R98 to R101: the slot list a build forms, item by item in steps of k from the last one's place to the next free place;
a reel built, and a reel cleared. -/
def Obligations.ReelsAreBuiltAndCleared : Prop :=
  (∀ (items : List (Nat × Nat)) (k n st : Nat) (l : List Nat), l = items.flatMap (fun x => List.replicate x.2 x.1) →
    n = l.length → 0 < n → st = (if n ≤ k then (if k % n = 0 then 1 else k % n) else if k = 0 then 1 else k) →
    (buildSlots items k).length = n ∧ ∃ pos : Nat → Nat, pos 0 = 0 ∧
      (∀ i, i < n → pos i < n ∧ (buildSlots items k)[pos i]? = l[i]?) ∧
      (∀ i j, i < n → j < n → pos i = pos j → i = j) ∧
      ∀ i, i + 1 < n → ∃ m, pos (i + 1) = (pos i + st + m) % n ∧
        ∀ j, j < m → ∃ e, e ≤ i ∧ pos e = (pos i + st + j) % n) ∧
  ∀ h r s, Sized s →
    (∀ items k,
      TakenOrRefused (.buildReel h r items k) h 66 s
        [(s.store.state != .idle, .storeBusy),
         (decide (3 < r) || items.any (fun x => decide (x.2 < 1) || decide (4 < x.2) || (s.findSpot x.1).isNone),
            .badArgument),
         (decide ((items.map (·.2)).sum = 0), .reelEmpty), (decide (24 < (items.map (·.2)).sum), .reelTooLong)]
        (∃ t slots, Takes (.buildReel h r items k) s h 66 (okWith (wList w2 slots)) t ∧ slots = buildSlots items k ∧
          slots.Perm (items.flatMap (fun x => List.replicate x.2 x.1)) ∧
          (k = 1 → slots = items.flatMap (fun x => List.replicate x.2 x.1)) ∧
          (s.house.alert = .normal → t.reelAt r = cued s true
            { s.reelAt r with slots := slots, cursor := 0, item := .none, countdown := 0, state := .stopped }) ∧
          (s.house.alert ≠ .normal → t.reelAt r =
            { s.reelAt r with slots := slots, cursor := 0, item := .none, countdown := 0, state := .held }) ∧
          (∀ q, q ≠ r → t.reelAt q = s.reelAt q) ∧ t.reel.spots = s.reel.spots ∧
          t.journal = s.journal.filed (.reel r) .update ∧
          t = { s with reel := t.reel, journal := t.journal, link := t.link, ports := t.ports } ∧
          FilesOnly h.port s t)) ∧
    TakenOrRefused (.clearReel h r) h 67 s
      [(s.store.state != .idle, .storeBusy), (decide (3 < r), .badArgument)]
      (∃ t, Takes (.clearReel h r) s h 67 (okWith []) t ∧
        t.reelAt r = { s.reelAt r with slots := [], cursor := 0, item := .none, countdown := 0, state := .stopped } ∧
        (∀ q, q ≠ r → t.reelAt q = s.reelAt q) ∧ t.reel.spots = s.reel.spots ∧
        t.journal = (if (s.reelAt r).state = .stopped ∧ (s.reelAt r).slots = [] then s.journal
          else s.journal.filed (.reel r) .update) ∧
        t = { s with reel := t.reel, journal := t.journal, link := t.link, ports := t.ports } ∧ FilesOnly h.port s t)

/-- R109, R110: a reel stopped, and a stopped reel started from its cursor. -/
def Obligations.ReelsAreStoppedAndStarted : Prop :=
  ∀ h r s, Sized s →
    TakenOrRefused (.stopReel h r) h 68 s [(decide (3 < r), .badArgument)]
      (((s.reelAt r).state = .stopped → Reads (.stopReel h r) s h 68 []) ∧
        ((s.reelAt r).state ≠ .stopped → ∃ t, Takes (.stopReel h r) s h 68 (okWith []) t ∧
          t.reelAt r = { s.reelAt r with item := .none, countdown := 0, state := .stopped } ∧
          (∀ q, q ≠ r → t.reelAt q = s.reelAt q) ∧ t.reel.spots = s.reel.spots ∧
          t.journal = s.journal.filed (.reel r) .update ∧
          t = { s with reel := t.reel, journal := t.journal, link := t.link, ports := t.ports } ∧
          FilesOnly h.port s t)) ∧
    TakenOrRefused (.startReel h r) h 69 s
      [(decide (3 < r), .badArgument), (decide ((s.reelAt r).slots = []), .reelEmpty)]
      (((s.reelAt r).state ≠ .stopped → Reads (.startReel h r) s h 69 []) ∧
        ((s.reelAt r).state = .stopped → ∃ t, Takes (.startReel h r) s h 69 (okWith []) t ∧
          (s.house.alert = .normal → t.reelAt r = cued s true (s.reelAt r)) ∧
          (s.house.alert ≠ .normal → t.reelAt r = { s.reelAt r with state := .held }) ∧
          (∀ q, q ≠ r → t.reelAt q = s.reelAt q) ∧ t.reel.spots = s.reel.spots ∧
          t.journal = s.journal.filed (.reel r) .update ∧
          t = { s with reel := t.reel, journal := t.journal, link := t.link, ports := t.ports } ∧
          FilesOnly h.port s t))

/-! ### Notices and the chime -/

/-- R119, R121, R122, R123: a posting of no known class or without a field its class needs, a DESK or INFO notice posted in
the lowest free slot, and a notice withdrawn. The order of Withdraw Notice's tests, a slot that is not LIVE or another
generation before slot 31, is the model's choice (log 15), and so is that a DESK or INFO posting is taken whatever key and
minutes it carries (log 43). -/
def Obligations.NoticesArePostedAndWithdrawn : Prop :=
  (∀ h cls prio scope text life key minutes s,
    classOf cls = none ∨ ((classOf cls = some .delay ∨ classOf cls = some .cancel) ∧ key = none) ∨
      (classOf cls = some .delay ∧ minutes = none) →
    Ready (.postNotice h cls prio scope text life key minutes) s = true →
    Refuses (.postNotice h cls prio scope text life key minutes) s h 10 .badArgument) ∧
  (∀ cls, classOf cls = none ↔ 4 < cls) ∧
  (∀ h cls prio scope text life key minutes c s, Sized s → classOf cls = some c → c ≠ .delay → c ≠ .cancel →
    TakenOrRefused (.postNotice h cls prio scope text life key minutes) h 10 s
      [((priorityOf prio).isNone || (scopeOf scope).isNone || (lifeOf life).isNone || decide (48 < text.length) ||
          text.any (fun x => decide (x.toNat < 32) || decide (126 < x.toNat)), .badArgument),
       (c == .evacuate, .notPermitted),
       (decide (h.port ≠ .programme) && decide (8 ≤ s.notice.portLive h.port), .noticeLimit),
       ((List.range 31).all (fun i => (s.noticeSlot i).notice.isSome), .noticeFull)]
      (∀ pr sc li, priorityOf prio = some pr → scopeOf scope = some sc → lifeOf life = some li → ∃ t slot gen,
        slot < 31 ∧ (s.noticeSlot slot).notice = none ∧ (∀ i, i < slot → (s.noticeSlot i).notice.isSome = true) ∧
        gen = ((s.noticeSlot slot).gen + 1) % 256 ∧
        Takes (.postNotice h cls prio scope text life key minutes) s h 10
          (okMarked (lifeClamped life) (w1 slot ++ w1 gen ++ w1 li.minutes)) t ∧
        t.noticeSlot slot = ⟨gen, some ⟨originOf h, c, pr, sc, text, li, none, t.notice.counter⟩⟩ ∧
        (s.notice.counter < 65535 → t.notice.counter = s.notice.counter + 1 ∧
          ∀ i, i ≠ slot → t.noticeSlot i = s.noticeSlot i) ∧
        (∀ i, i ≠ slot → (t.noticeSlot i).gen = (s.noticeSlot i).gen ∧
          (t.noticeSlot i).notice.isSome = (s.noticeSlot i).notice.isSome) ∧
        (h.port ≠ .programme → t.notice.portLive h.port = s.notice.portLive h.port + 1) ∧
        (∀ p, p ≠ h.port → t.notice.portLive p = s.notice.portLive p) ∧
        t.chime = (if pr = .high then s.chime.trigger s.policy.chimeEnable .attention else s.chime) ∧
        t.journal = s.journal.filed .notices .update ∧
        t = { s with notice := t.notice, chime := t.chime, journal := t.journal, link := t.link, ports := t.ports } ∧
        FilesOnly h.port s t)) ∧
  ∀ h slot gen s, Sized s →
    TakenOrRefused (.withdrawNotice h slot gen) h 11 s
      [(decide (31 < slot) || (s.noticeSlot slot).notice.isNone || decide ((s.noticeSlot slot).gen ≠ gen), .badArgument),
       (decide (slot = 31), .notPermitted),
       (decide (h.port ≠ .programme) &&
          (s.noticeSlot slot).notice.any (fun n => !n.origin.isPort h.port), .notOwner)]
      (∀ n, (s.noticeSlot slot).notice = some n → ∃ t,
        Takes (.withdrawNotice h slot gen) s h 11 (okWith []) t ∧ t.noticeSlot slot = ⟨gen, none⟩ ∧
        (∀ i, i ≠ slot → t.noticeSlot i = s.noticeSlot i) ∧ t.notice.counter = s.notice.counter ∧
        (∀ q tm, n.origin = .sales q tm → t.notice.portLive q = s.notice.portLive q - 1 ∧
          (h.port = .programme → q ≠ .programme → causeSet q .noticeEnded t = true)) ∧
        (h.port ≠ .programme → OnlyForced s t) ∧ t.journal = s.journal.filed .notices .update ∧
        t = { s with notice := t.notice, journal := t.journal, link := t.link, ports := t.ports } ∧
        t.link.steady = s.link.steady ∧ BuffersKept h.port s t)

/-- R127, R128, R129: a show delayed with its notice, which leaves again when the new start carries the show into RUNNING,
and a show cancelled by its notice; NOTICES is filed once by each. The empty body of a posting of delay 0 is the model's
choice (log 15), and so is the place of the filing: before the show's lines in a DELAY posting, after them in a CANCEL
posting (log 10). That a CANCEL posting takes no notice of
minutes it carries is the model's choice (log 43). -/
def Obligations.DelayAndCancelNotices : Prop :=
  ∀ h prio scope text life key minutes s, Sized s →
    (∀ b, b = ((priorityOf prio).isNone || (scopeOf scope).isNone || (lifeOf life).isNone || decide (48 < text.length) ||
          text.any (fun x => decide (x.toNat < 32) || decide (126 < x.toNat))) →
    (TakenOrRefused (.postNotice h 2 prio scope text life (some key) (some minutes)) h 10 s
      [(b, .badArgument), (decide (h.port ≠ .programme), .notPermitted), ((s.findShow key).isNone, .noSuchShow),
       ((s.findShow key).any (fun sh =>
          sh.state == .running || sh.state == .closed || sh.state == .ended || sh.state == .cancelled), .notDelayable),
       ((s.findShow key).any (fun sh => decide (0 < Nat.min minutes (Nat.min 180 (1439 - sh.start))) &&
          (List.range 31).all (fun i => (s.noticeSlot i).notice.any (fun n => !isDelayOf key n))), .noticeFull)]
      (∀ sh pr sc li d, s.findShow key = some sh → priorityOf prio = some pr → scopeOf scope = some sc →
        lifeOf life = some li → d = Nat.min minutes (Nat.min 180 (1439 - sh.start)) → ∃ t y body,
        Takes (.postNotice h 2 prio scope text life (some key) (some minutes)) s h 10
          (okMarked (lifeClamped life || d != minutes) body) t ∧
        t.findShow key = some y ∧ (∀ k, k ≠ key → t.findShow k = s.findShow k) ∧ y.delay = d ∧
        (d = 0 → body = [] ∧ ∀ i n, (t.noticeSlot i).notice = some n → isDelayOf key n = false) ∧
        (dueTransition s.policy s.shows.clock { sh with delay := d } = none ∨ d = sh.delay → y = { sh with delay := d }) ∧
        (0 < d → ∃ slot gen, slot < 31 ∧ (s.noticeSlot slot).notice.any (fun n => !isDelayOf key n) = false ∧
          (∀ i, i < slot → (s.noticeSlot i).notice.any (fun n => !isDelayOf key n) = true) ∧
          gen = ((s.noticeSlot slot).gen + 1) % 256 ∧ body = w1 slot ++ w1 gen ++ w1 li.minutes ∧
          (∀ i n, i ≠ slot → (t.noticeSlot i).notice = some n → isDelayOf key n = false) ∧
          (y.state = .loaded ∨ y.state = .onSale ∨ y.state = .seating →
            t.noticeSlot slot = ⟨gen, some ⟨.programme, .delay, pr, sc, text, li, some key, t.notice.counter⟩⟩) ∧
          (y.state = .running ∨ y.state = .closed ∨ y.state = .ended → t.noticeSlot slot = ⟨gen, none⟩)) ∧
        (d = sh.delay → t.journal = if 0 < d ∨ (liveNotices s.notice).any (fun x => isDelayOf key x.2.2)
          then s.journal.filed .notices .update else s.journal) ∧
        LinesFiled (if 0 < d ∨ (liveNotices s.notice).any (fun x => isDelayOf key x.2.2)
          then s.journal.filed .notices .update else s.journal) t.journal ∧
        (d ≠ sh.delay → dueTransition t.policy t.shows.clock y = none ∧ Published key t ∧ DoorServed sh.aud t) ∧
        t.chime = (if 0 < d ∧ pr = .high then s.chime.trigger s.policy.chimeEnable .attention else s.chime) ∧
        t = { s with seat := t.seat, shows := t.shows, board := t.board, notice := t.notice, chime := t.chime,
                     journal := t.journal, link := t.link, ports := t.ports } ∧
        t.link.steady = s.link.steady ∧ BuffersKept h.port s t ∧ OnlyShowCauses s t)) ∧
    ∀ mn, TakenOrRefused (.postNotice h 1 prio scope text life (some key) mn) h 10 s
      [(b, .badArgument), (decide (h.port ≠ .programme), .notPermitted), ((s.findShow key).isNone, .noSuchShow),
       ((s.findShow key).any (fun sh => sh.state == .closed || sh.state == .ended || sh.state == .cancelled), .notAmendable),
       ((List.range 31).all (fun i => (s.noticeSlot i).notice.isSome), .noticeFull)]
      (∀ pr sc li, priorityOf prio = some pr → scopeOf scope = some sc → lifeOf life = some li → ∃ t y slot gen,
        slot < 31 ∧ (s.noticeSlot slot).notice = none ∧ (∀ i, i < slot → (s.noticeSlot i).notice.isSome = true) ∧
        gen = ((s.noticeSlot slot).gen + 1) % 256 ∧
        Takes (.postNotice h 1 prio scope text life (some key) mn) s h 10
          (okMarked (lifeClamped life) (w1 slot ++ w1 gen ++ w1 li.minutes)) t ∧
        t.findShow key = some y ∧ (∀ k, k ≠ key → t.findShow k = s.findShow k) ∧ y.state = .cancelled ∧
        t.noticeSlot slot = ⟨gen, some ⟨.programme, .cancel, pr, sc, text, li, some key, t.notice.counter⟩⟩ ∧
        (∀ i n, (t.noticeSlot i).notice = some n → isDelayOf key n = false) ∧
        (∀ i info life, i < 192 → (s.holdSlot i).use = .active info life → info.key = key →
          t.holdSlot i = ⟨(s.holdSlot i).gen, .ended info .voided⟩) ∧
        t.chime = (if pr = .high then s.chime.trigger s.policy.chimeEnable .attention else s.chime) ∧
        ShowChangeRaised t ∧ Published key t ∧ DoorServed y.aud t ∧
        (∃ j, LinesFiled s.journal j ∧ t.journal = j.filed .notices .update) ∧
        t = { s with seat := t.seat, shows := t.shows, board := t.board, notice := t.notice, chime := t.chime,
                     journal := t.journal, link := t.link, ports := t.ports } ∧
        t.link.steady = s.link.steady ∧ BuffersKept h.port s t ∧ OnlyShowCauses s t))

/-! ### Settings of the house, the alert -/

/-- R133, R137, R141, R142, R144, R145: the chime patterns, the start-line map and the alert line's settings, with what a new
polarity does to the alert state. That ALERT is filed after REEL and NOTICES is the model's choice (log 6). -/
def Obligations.HouseSettings : Prop :=
  ∀ h s, Sized s →
    (∀ pattern notes,
      TakenOrRefused (.setChimePattern h pattern notes) h 80 s
        [(s.store.state != .idle, .storeBusy),
         (decide (2 < pattern) || decide (notes.length < 1) || decide (4 < notes.length), .badArgument)]
        (∀ pt l, patternOf pattern = some pt →
          l = notes.map (fun x => (⟨clampTo 16 255 x.1, clampTo 1 40 x.2⟩ : Note)) → ∃ t,
          Takes (.setChimePattern h pattern notes) s h 80
            (okMarked (notes.any (fun x => clampTo 16 255 x.1 != x.1 || clampTo 1 40 x.2 != x.2)) []) t ∧
          t.chime.patternNotes pt = l ∧ (∀ q, q ≠ pt → t.chime.patternNotes q = s.chime.patternNotes q) ∧
          t.chime.playing = s.chime.playing ∧ t.chime.pending = s.chime.pending ∧
          t = { s with chime := t.chime, ports := t.ports } ∧ Quietly h.port s t)) ∧
    (∀ line aud edge debounce,
      TakenOrRefused (.setStartLine h line aud edge debounce) h 88 s
        [(s.store.state != .idle, .storeBusy), (decide (15 < line ∨ 16 < aud ∨ 1 < edge), .badArgument)]
        (∀ e, edgeOf edge = some e → ∃ t,
          Takes (.setStartLine h line aud edge debounce) s h 88 (okMarked (clampTo 10 500 debounce != debounce) []) t ∧
          t.lineEntry line = ⟨aud, e, clampTo 10 500 debounce⟩ ∧
          (∀ i, i ≠ line → t.lineEntry i = s.lineEntry i) ∧
          t = { s with house := { s.house with map := t.house.map }, ports := t.ports } ∧ Quietly h.port s t)) ∧
    ∀ polarity debounce,
      TakenOrRefused (.setAlertLine h polarity debounce) h 89 s
        [(s.store.state != .idle, .storeBusy), (decide (1 < polarity), .badArgument)]
        (∀ po, polarityOf polarity = some po → ∃ t,
          Takes (.setAlertLine h polarity debounce) s h 89 (okMarked (clampTo 10 500 debounce != debounce) []) t ∧
          t.house.alertEntry = ⟨po, clampTo 10 500 debounce⟩ ∧ t.house.alertLine = s.house.alertLine ∧
          t.house.map = s.house.map ∧ t.house.lines = s.house.lines ∧
          (po = s.house.alertEntry.polarity → t = { s with house := t.house, ports := t.ports } ∧
            t.house.alert = s.house.alert ∧ Quietly h.port s t) ∧
          (po ≠ s.house.alertEntry.polarity →
            (po.active = s.house.alertLine.stable → t.house.alert = .alert ∧
              (s.house.alert ≠ .alert → AlertChangeRaised t ∧
                t.chime = s.chime.trigger s.policy.chimeEnable .alarm) ∧
              (s.house.alert = .normal →
                (t.noticeSlot 31).notice.map (·.cls) = some .evacuate ∧
                (t.noticeSlot 31).gen = ((s.noticeSlot 31).gen + 1) % 256 ∧
                (∀ r, r < 4 →
                  t.reelAt r = if (s.reelAt r).runs then { s.reelAt r with state := .held } else s.reelAt r) ∧
                t.journal.entries.getLast? = some ⟨t.journal.cur, .alert, .update⟩) ∧
              (s.house.alert ≠ .normal → t.notice = s.notice ∧ t.reel = s.reel ∧ t.journal = s.journal)) ∧
            (po.active ≠ s.house.alertLine.stable →
              t.house.alert = (if s.house.alert = .alert then .held else s.house.alert) ∧
              (s.house.alert = .alert → AlertChangeRaised t) ∧
              t = { s with house := t.house, ports := t.ports })) ∧
          t.shows = s.shows ∧ t.seat = s.seat ∧ t.board = s.board ∧ t.policy = s.policy ∧ t.store = s.store ∧
          BuffersKept h.port s t)

/-- R112, R130, R142, R143, R146: Clear Alert is answered by the state it finds. That ALERT is filed after REEL and NOTICES
is the model's choice (log 6). -/
def Obligations.ClearAlertAnswersByState : Prop :=
  ∀ h s, Sized s →
    requestBody (.clearAlert h) = some (h, 90, []) ∧
    (∀ p f, p ≠ .programme → f.kind = 90#8 → portCheck p f = some .notPermitted) ∧
    TakenOrRefused (.clearAlert h) h 90 s
      [(s.house.alert == .normal, .noAlert), (s.house.alert == .alert, .alertActive)]
      (∃ t, Takes (.clearAlert h) s h 90 (okWith []) t ∧ s.house.alert = .held ∧ t.house.alert = .normal ∧
        t.house = { s.house with alert := .normal } ∧ AlertChangeRaised t ∧
        t.noticeSlot 31 = ⟨(s.noticeSlot 31).gen, none⟩ ∧ (∀ i, i ≠ 31 → t.noticeSlot i = s.noticeSlot i) ∧
        (∀ r, r < 4 →
          ((s.reelAt r).state ≠ .held → t.reelAt r = s.reelAt r) ∧
          ((s.reelAt r).state = .held →
            (∀ m d, (s.reelAt r).item = .spot m d → t.reelAt r = { s.reelAt r with state := .playing }) ∧
            (∀ m d, (s.reelAt r).item = .filler m d → t.reelAt r = { s.reelAt r with state := .filler }) ∧
            ((s.reelAt r).item = .none → t.reelAt r = cued s true (s.reelAt r)))) ∧
        t.journal.entries.getLast? = some ⟨t.journal.cur, .alert, .update⟩ ∧
        t = { s with house := t.house, notice := t.notice, reel := t.reel, journal := t.journal, link := t.link,
                     ports := t.ports } ∧
        t.link.steady = s.link.steady ∧ BuffersKept h.port s t)

/-! ### The panel link -/

/-- R77, R131, R160, R174, R175, R177, R178, R179: a panel reads the first three notices in queue order that apply to it (the
bit of a GROUPS mask that names a group is the model's choice, log 38, and so is that a REFRESH_BEGIN and an UPDATE of a
refresh have no batch revision, log 18); the targets relevant to each view; when a panel waits, the order of the grants and the refresh list of each view; the grant goes to the first waiting panel in turn and
sends the frame its state calls for, and with none waiting nothing is sent. -/
def Obligations.GrantServesTheNextPanel : Prop :=
  (∀ s c, readTarget s c .notices = .notices
    ((((queueOrder s.notice).filter (fun x => match x.2.2.scope with
      | .all => true
      | .groups mask => mask.getLsbD c.group
      | .door a => c.view == .door && c.aud == a)).take 3).map
        (fun x => ⟨x.1, x.2.1, x.2.2.cls, x.2.2.prio, x.2.2.linked, x.2.2.text⟩))) ∧
  (∀ c t, relevant c t = true ↔ t = .notices ∨ t = .alert ∨
    (c.view = .board ∧ ((∃ k, t = .boardLine k) ∨ ∃ i, t = .title i)) ∨
    (c.view = .door ∧ (t = .door c.aud ∨ ∃ i, t = .title i)) ∨ (c.view = .spot ∧ t = .reel c.reel)) ∧
  (∀ (j : Journal) v c,
    j.relevantAbove v c = j.entries.filter (fun e => decide (v < e.rev) && relevant c e.target) ∧
    (j.second v c = true ↔ j.relevantAbove v c ≠ [])) ∧
  (∀ last, last ≤ 24 →
    arbiterOrder last = (List.range (24 - last)).map (fun i => last + 1 + i) ++ (List.range last).map (fun i => i + 1)) ∧
  (∀ (pol : Policy) (p : Panel), p.waiting pol = true ↔ p.state ≠ .absent ∧
    (p.batch.isSome = true ∨ 0 < p.retry ∨ p.state = .unknown ∨ p.state = .syncing ∨ p.state = .behind ∨
      (p.state = .current ∧ pol.pollInterval ≤ p.idle) ∨ (p.state = .offline ∧ pol.probeInterval ≤ p.idle))) ∧
  (∀ s c,
    (c.view = .board → refreshList s c =
      .alert :: .notices :: ((List.range 64).map .title ++ (boardOrder s).map (fun l => .boardLine l.key))) ∧
    (c.view = .door → refreshList s c = .alert :: .notices :: ((List.range 64).map .title ++ [.door c.aud])) ∧
    (c.view = .spot → refreshList s c = [.alert, .notices, .reel c.reel]) ∧
    (c.view = .blank → refreshList s c = [.alert, .notices])) ∧
  (∀ s, (boardOrder s).Perm s.board.lines ∧ (boardOrder s).Pairwise (fun a b =>
    a.start < b.start ∨ (a.start = b.start ∧ (a.aud < b.aud ∨ (a.aud = b.aud ∧ a.key ≤ b.key))))) ∧
  (∀ s, s.phase = .running → s.link.cond = .idle → s.link.beaconPending = false →
    (∀ b, 1 ≤ b → b ≤ 24 → (s.panelAt b).waiting s.policy = false) → exec .panelGrant s = .next s) ∧
  ∀ s a p, Sized s → s.phase = .running → s.link.cond = .idle → s.link.beaconPending = false →
    nextWaiting s = some a → p = s.panelAt a →
    ∃ t q kind, exec .panelGrant s = .next t ∧ q = t.panelAt a ∧
      (∃ pre post, arbiterOrder s.link.lastServed = pre ++ a :: post ∧
        ∀ b ∈ pre, (s.panelAt b).waiting s.policy = false) ∧
      p.waiting s.policy = true ∧ 1 ≤ a ∧ a ≤ 24 ∧
      t.link.cond = .transaction ⟨a, kind, q.batch.isSome, none, false, false⟩ ∧ t.link.lastServed = a ∧
      t.link.out = grantFrame a kind q.batch ∧
      (∀ b, p.batch = some b → q = p ∧ kind = b.kind.frame) ∧
      (p.batch = none → p.state = .unknown ∨ p.state = .syncing →
        (p.refresh = none ∨ (∃ r, p.refresh = some r ∧ r.restart = true) →
          kind = .refreshBegin ∧
          q = { p with refresh := some ⟨s.journal.cur, refreshList s p.config, 0, false⟩,
                       batch := some ⟨.refreshBegin, [viewRecord p.config], none⟩ }) ∧
        ∀ r, p.refresh = some r → r.restart = false →
          kind = .update ∧
          q = { p with batch := some ⟨.refreshUpdate (decide (r.targets.length ≤ r.position + 8)),
                                      ((r.targets.drop r.position).take 8).map (readTarget s p.config), none⟩ }) ∧
      (p.batch = none → p.state = .behind →
        (p.shown < s.journal.floor → kind = .refreshBegin ∧ q.state = .syncing ∧
          q.refresh = some ⟨s.journal.cur, refreshList s p.config, 0, false⟩) ∧
        ∀ l, s.journal.floor ≤ p.shown → l = s.journal.relevantAbove p.shown p.config → l ≠ [] →
          kind = .update ∧
          q = { p with
            batch := some ⟨.update, (l.take 8).map (readEntry s p.config),
            if 8 < l.length then (l.take 8).getLast?.map (·.rev) else some s.journal.cur⟩ }) ∧
      (p.batch = none → p.state = .current → q = p ∧ kind = .poll) ∧
      (p.batch = none → p.state = .offline → q = p ∧ kind = .probe) ∧
      (∀ b, 1 ≤ b → b ≠ a → t.panelAt b = s.panelAt b) ∧ t.link.beaconPending = false ∧
      t = s.withLink t.link

/-- R166, R167, R172, R174, R176: the beacon goes first at a free point and ends with its last byte; the response window
opens with the frame's last byte, and an answer may begin in it; the tick at which a CURRENT or OFFLINE panel's idle time
reaches its interval makes it wait. -/
def Obligations.BeaconWindowAndIntervals : Prop :=
  (∀ s, s.phase = .running →
    (s.link.cond = .idle → s.link.beaconPending = true →
      exec .panelGrant s = .next s ∧
      ∀ m, m = (s.policy.dayStart + if s.shows.clock.valid then s.shows.clock.minute else 0) % 1440 →
        exec .beaconSend s = .next (s.withLink { s.link with
          cond := .beacon, beaconPending := false,
          out := linkFrame 0 5 0 (w1 (m / 60) ++ w1 (m % 60) ++ w1 (if s.shows.clock.valid then 1 else 0) ++
            w1 s.house.alert.code) })) ∧
    (s.link.cond = .beacon → exec .beaconEnd s = .next (s.withLink { s.link with cond := .idle })) ∧
    ∀ tr, s.link.cond = .transaction tr →
      (tr.window = none → exec .panelFrameSent s =
        .next (s.withLink { s.link with cond := .transaction { tr with window := some s.policy.responseWindow } })) ∧
      ∀ w, tr.window = some w →
        exec .panelAnswerStart s = .next (s.withLink { s.link with cond := .transaction { tr with begun := true } })) ∧
  ∀ s a, Sized s → s.phase = .running → 1 ≤ a → a ≤ 24 →
    ((s.panelAt a).state = .current → (s.panelAt a).idle + 1 = s.policy.pollInterval → s.policy.pollInterval ≤ 300 →
      ∃ t, exec (.panelPollDue a) s = .next t ∧
        t = s.withPanelAt a { s.panelAt a with idle := s.policy.pollInterval } ∧
        (t.panelAt a).waiting t.policy = true) ∧
    ((s.panelAt a).state = .offline → (s.panelAt a).idle + 1 = s.policy.probeInterval → s.policy.probeInterval ≤ 300 →
      ∃ t, exec (.panelProbeDue a) s = .next t ∧
        t = s.withPanelAt a { s.panelAt a with idle := s.policy.probeInterval } ∧
        (t.panelAt a).waiting t.policy = true)

/-- R169, R180, R183, R184: which nine bytes are an answer and what they say, and an ACK with the discard mark clear. That the
answer check comes high byte first is the model's choice (log 39). -/
def Obligations.PanelAcknowledges : Prop :=
  (∀ addr bytes r, checkAnswer addr bytes = some r ↔
    ∃ a kind reason request fault report hi lo, bytes = [0xB4#8, a, kind, reason, request, fault, report, hi, lo] ∧
      a.toNat = addr ∧ (crc16 [a, kind, reason, request, fault, report]).toNat = 256 * hi.toNat + lo.toNat ∧
      report.toNat ≤ 6 ∧
      ((kind = 1#8 ∧ reason = 0#8 ∧ request.toNat ≤ 2 ∧ (request = 2#8 ↔ fault ≠ 0#8) ∧
          r = ⟨none, request.toNat, fault.toNat, report.toNat⟩) ∨
        (kind = 2#8 ∧ request = 0#8 ∧ fault = 0#8 ∧
          ((reason = 3#8 ∧ r = ⟨some .bodyCheck, 0, 0, report.toNat⟩) ∨
            (reason = 4#8 ∧ r = ⟨some .unknownKind, 0, 0, report.toNat⟩) ∨
            (reason = 5#8 ∧ r = ⟨some .badLength, 0, 0, report.toNat⟩) ∨
            (reason = 6#8 ∧ r = ⟨some .overrun, 0, 0, report.toNat⟩))))) ∧
  ∀ s tr w bytes r p, Sized s → s.phase = .running → s.link.cond = .transaction tr → tr.window = some w →
    1 ≤ tr.addr → tr.addr ≤ 24 → tr.discard = false → checkAnswer tr.addr bytes = some r → r.nak = none →
    p = s.panelAt tr.addr →
    ∃ t q, exec (.panelAnswer bytes) s = .next t ∧ q = t.panelAt tr.addr ∧ t.link.cond = .idle ∧
      q.idle = 0 ∧ q.retry = 0 ∧ q.phase = .normal ∧ q.resync = false ∧ q.config = p.config ∧
      q.lastAnswer = (if s.shows.clock.valid then some s.shows.clock.minute else p.lastAnswer) ∧
      q.error.report = (if r.report = 0 then p.error.report else some r.report) ∧
      q.error.recovered = (p.error.recovered || decide (0 < p.retry) || decide (p.phase = .resync)) ∧
      q.error.fault = (if r.request = 2 then some r.fault else p.error.fault) ∧
      (p.phase = .resync → causeSet .programme .recovered t = true) ∧
      (r.request = 2 → causeSet .programme .panelFault t = true) ∧
      (p.phase = .normal → r.request ≠ 2 → t.ports = s.ports) ∧
      (tr.hasBatch = false ∨ p.batch = none → q.shown = p.shown) ∧
      (∀ b, tr.hasBatch = true → p.batch = some b → q.batch = none ∧
        (∀ rev, b.kind = .update → b.rev = some rev → q.shown = rev) ∧
        (b.kind = .refreshBegin → q.shown = p.shown) ∧
        (∀ rf, b.kind = .refreshUpdate false → p.refresh = some rf → q.shown = p.shown ∧
          (r.request ≠ 1 → p.resync = false → p.state = .syncing →
            q.refresh = some { rf with position := rf.position + b.records.length })) ∧
        (∀ rf, b.kind = .refreshUpdate true → p.refresh = some rf → q.shown = rf.snapshot ∧ q.refresh = none)) ∧
      (p.state = .unknown → (∀ b, p.batch = some b → b.kind = .refreshBegin) → q.state = .syncing) ∧
      (p.state = .offline → (∀ b, p.batch ≠ some b) → q.state = .syncing) ∧
      (r.request = 1 → q.state = .syncing ∧ ∀ rf, q.refresh = some rf → rf.restart = true) ∧
      (p.resync = true → q.state = .syncing ∧ ∀ rf, q.refresh = some rf → rf.restart = true) ∧
      (q.state = .current ∨ q.state = .behind → q.refresh = none →
        s.journal.floor ≤ q.shown ∧ (q.state = .behind ↔ s.journal.second q.shown q.config = true)) ∧
      LinkFrame tr.addr s t

/-- R167, R181, R182, R183: a NAK, a check error or a timeout with the discard mark clear; what passes the checks of an answer
is said in PanelAcknowledges, where its byte order is the model's choice (log 39). That the failed probe of an OFFLINE
panel clears resync pending is the model's choice (log 26). -/
def Obligations.PanelFails : Prop :=
  ∀ s tr w e f p, Sized s → s.phase = .running → s.link.cond = .transaction tr → tr.window = some w →
    1 ≤ tr.addr → tr.addr ≤ 24 → tr.discard = false → FailedBy e tr w f → p = s.panelAt tr.addr →
    ∃ t q, exec e s = .next t ∧ q = t.panelAt tr.addr ∧ t.link.cond = .idle ∧
      q.idle = 0 ∧ q.resync = false ∧ q.shown = p.shown ∧ q.config = p.config ∧
      q.error.timeouts = (if f = .timeout then bump255 p.error.timeouts else p.error.timeouts) ∧
      q.error.checks = (if f = .check then bump255 p.error.checks else p.error.checks) ∧
      q.error.naks = (if f.isNak then bump255 p.error.naks else p.error.naks) ∧
      (f = .timeout → q.error.last = some .timeout) ∧ (f = .check → q.error.last = some .answerCheck) ∧
      (∀ reason report, f = .nak reason report → q.error.last = some (.nak reason) ∧
        q.error.report = (if report = 0 then p.error.report else some report) ∧
        q.lastAnswer = (if s.shows.clock.valid then some s.shows.clock.minute else p.lastAnswer)) ∧
      (f.isNak = false → q.error.report = p.error.report ∧ q.lastAnswer = p.lastAnswer) ∧
      q.error.fault = p.error.fault ∧
      (p.state ≠ .offline → q.error.recovered = false ∧
        (p.retry < 3 → q.retry = p.retry + 1 ∧ q.phase = p.phase ∧
          (p.resync = false → q.batch = p.batch ∧ q.refresh = p.refresh ∧
            q.state = if p.state = .unknown ∧ f.isNak then .syncing else p.state) ∧
          (p.resync = true → q.batch = none ∧ (∀ rf, q.refresh = some rf → rf.restart = true) ∧
            q.state = if p.state = .unknown ∧ f.isNak = false then .unknown else .syncing)) ∧
        (3 ≤ p.retry → q.retry = 0 ∧ q.batch = none ∧ q.refresh = none ∧ q.phase = .resync ∧
          (p.phase = .normal → q.state = if p.state = .unknown ∧ f.isNak = false then .unknown else .syncing) ∧
          (p.phase = .resync → q.state = .offline ∧ causeSet .programme .panelOffline t = true)) ∧
        (p.retry < 3 ∨ p.phase = .normal → t.ports = s.ports)) ∧
      (p.state = .offline → q.retry = 0 ∧ q.phase = p.phase ∧ q.state = (if f.isNak then .syncing else .offline) ∧
        t.ports = s.ports) ∧
      LinkFrame tr.addr s t

/-- R171, R187 (in the reading of log 34): a panel's configuration written, and what that does to the panel. -/
def Obligations.PanelsAreConfigured : Prop :=
  ∀ h addr present view group s, Sized s →
    TakenOrRefused (.setPanel h addr present view group) h 104 s
      [(s.store.state != .idle, .storeBusy),
       (decide (addr = 0 ∨ 24 < addr ∨ 7 < group) ||
          (match view with | .unknown _ => true | .door a => decide (a = 0 ∨ 16 < a) | _ => false), .badArgument)]
      (∀ p c, p = s.panelAt addr →
        c = { (match view with
              | .board n d => { p.config with view := .board, page := clampTo 4 12 n, dwell := clampTo 5 60 d }
              | .door a => { p.config with view := .door, aud := a }
              | .spot r => { p.config with view := .spot, reel := clampTo 0 3 r }
              | _ => { p.config with view := .blank } : PanelConfig) with present := present, group := group } →
        ∃ t q, Takes (.setPanel h addr present view group) s h 104
            (okMarked (match view with
              | .board n d => clampTo 4 12 n != n || clampTo 5 60 d != d
              | .spot r => clampTo 0 3 r != r
              | _ => false) []) t ∧
          q = t.panelAt addr ∧ q.config = c ∧
          (p.state = .absent → present = true →
            q = { p with config := c, state := .unknown, shown := 0, phase := .normal, retry := 0, idle := 0 }) ∧
          (p.state = .absent → present = false → q = { p with config := c }) ∧
          (p.state ≠ .absent → present = false →
            q = { p with config := c, state := .absent, shown := 0, phase := .normal, retry := 0, batch := none,
                         refresh := none } ∧
            ∀ tr, s.link.cond = .transaction tr → tr.addr = addr →
              t.link.cond = .transaction { tr with discard := true }) ∧
          (p.state ≠ .absent → present = true → viewRecord p.config = viewRecord c → q = { p with config := c }) ∧
          (p.state ≠ .absent → present = true → viewRecord p.config ≠ viewRecord c →
            (inFlight s addr = true → q = { p with config := c, resync := true }) ∧
            (inFlight s addr = false →
              (p.state = .unknown ∨ p.state = .syncing →
                q = { p with config := c, batch := none, retry := 0,
                             refresh := p.refresh.map (fun r => { r with restart := true }) }) ∧
              (p.state = .current ∨ p.state = .behind →
                q = { p with config := c, state := .syncing, retry := 0, batch := none, refresh := none }) ∧
              (p.state = .offline → q = { p with config := c }))) ∧
          (inFlight s addr = false → t.link.cond = s.link.cond) ∧
          (∀ a, 1 ≤ a → a ≠ addr → t.panelAt a = s.panelAt a) ∧
          t = { s with link := { s.link with panels := t.link.panels, cond := t.link.cond }, ports := t.ports } ∧
          Quietly h.port s t)

/-- R188: Link Reset; R172: the end of a transaction sets the idle time of its panel to 0. That the end of a discarded
transaction leaves resync pending as it stands is the model's choice (log 34). -/
def Obligations.LinkResets : Prop :=
  ∀ h s, Sized s →
    TakenOrRefused (.linkReset h) h 105 s []
      (∃ t, Takes (.linkReset h) s h 105 (okWith []) t ∧
        (∀ a, 1 ≤ a → a ≤ 24 →
          ((s.panelAt a).state = .absent → t.panelAt a = s.panelAt a) ∧
          ((s.panelAt a).state ≠ .absent → t.panelAt a =
            { s.panelAt a with state := .unknown, shown := 0, phase := .normal, retry := 0, idle := 0, batch := none,
                               refresh := none, resync := false, error := .clear })) ∧
        (∀ tr, s.link.cond = .transaction tr → t.link.cond = .transaction { tr with discard := true }) ∧
        ((∀ tr, s.link.cond ≠ .transaction tr) → t.link.cond = s.link.cond) ∧
        t.link.lastServed = 0 ∧ t.link.beaconPending = true ∧ t.link.out = s.link.out ∧
        t = { s with link := t.link, ports := t.ports } ∧ Quietly h.port s t) ∧
    ∀ tr w bytes, s.phase = .running → s.link.cond = .transaction tr → tr.window = some w → tr.discard = true →
      1 ≤ tr.addr → tr.addr ≤ 24 →
      exec (.panelAnswer bytes) s =
        .next ((s.withCond .idle).withPanelAt tr.addr { s.panelAt tr.addr with idle := 0 })

/-! ### Policy, clock, store -/

/-- R12, R42, R136, R207: a Set Policy refused by the first of its tests, or every carried setting written together and
handed on. That chime_enable is 0 for on and 1 for off, a value above 1 BAD_ARGUMENT, is the model's choice (log 13). -/
def Obligations.PolicyIsSet : Prop :=
  ∀ h l s, s.shows.shows.Pairwise (fun a b => a.key < b.key) →
    TakenOrRefused (.setPolicy h l) h 112 s
      [(s.store.state != .idle, .storeBusy),
       (decide (l = []) || l.any (fun x => decide (16 < x.1)) || !decide ((l.map (·.1)).Nodup) ||
          l.any (fun x => decide (x.1 = 15) && decide (1 < x.2)), .badArgument),
       (decide (192 < settingAfter s.policy l 5 + settingAfter s.policy l 6), .quotaSum)]
      (∃ t, Takes (.setPolicy h l) s h 112
          (okMarked (l.any (fun x => settingAfter s.policy l x.1 != x.2)) []) t ∧
        (∀ id, id < 17 → t.policy.value id = settingAfter s.policy l id) ∧
        (timesChanged s.policy t.policy = true → ∀ sh ∈ t.shows.shows, dueTransition t.policy t.shows.clock sh = none) ∧
        (timesChanged s.policy t.policy = false → t.seat = s.seat ∧ t.notice = s.notice ∧
          ∀ k, t.findShow k =
            if bandsChanged s.policy t.policy then (s.findShow k).map (Show.compute t.policy) else s.findShow k) ∧
        (bandsChanged s.policy t.policy = true → Sized s → ∀ sh ∈ t.shows.shows, Published sh.key t) ∧
        (t.policy.chimeEnable = s.policy.chimeEnable → t.chime = s.chime) ∧
        (t.policy.chimeEnable = false → s.policy.chimeEnable = true →
          t.chime = { s.chime with playing := none, pending := none }) ∧
        (t.policy.chimeEnable = true → s.policy.chimeEnable = false →
          t.chime = if s.house.alert = .alert then { s.chime with pending := none }.begin_ .alarm else s.chime) ∧
        (timesChanged s.policy t.policy = false → bandsChanged s.policy t.policy = false →
          t = { s with policy := t.policy, chime := t.chime, ports := t.ports } ∧ Quietly h.port s t) ∧
        t.shows.clock = s.shows.clock ∧ t.house = s.house ∧ t.reel = s.reel ∧ t.store = s.store ∧
        t.link.steady = s.link.steady ∧ BuffersKept h.port s t)

/-- R87, R128, R129, R204: the clock is written, becomes VALID, and is handed on; no notice life is counted, and a notice
leaves only past its cancellation window or with its delayed show's start. -/
def Obligations.ClockIsSet : Prop :=
  ∀ h minute second s, s.shows.shows.Pairwise (fun a b => a.key < b.key) →
    TakenOrRefused (.setClock h minute second) h 114 s [(decide (1439 < minute ∨ 59 < second), .badArgument)]
      (∃ t, Takes (.setClock h minute second) s h 114 (okWith []) t ∧ t.shows.clock = ⟨true, minute, second⟩ ∧
        (∀ sh ∈ t.shows.shows, dueTransition t.policy t.shows.clock sh = none) ∧
        (∀ sh ∈ t.shows.shows, sh.day = 0 → sh.state = .cancelled → t.lineImage sh.key = computeLine t sh.key) ∧
        (∀ i n, (t.noticeSlot i).notice = some n → ¬ WindowOver t n) ∧
        (∀ i, t.noticeSlot i = s.noticeSlot i ∨ t.noticeSlot i = ⟨(s.noticeSlot i).gen, none⟩) ∧
        (∀ i n, (s.noticeSlot i).notice = some n → ¬ WindowOver t n → StateKept s t n → t.noticeSlot i = s.noticeSlot i) ∧
        t.link.beaconPending = true ∧
        t = { s with seat := t.seat, shows := t.shows, board := t.board, notice := t.notice, journal := t.journal,
                     link := t.link, ports := t.ports } ∧
        t.shows.titles = s.shows.titles ∧ t.shows.poolSplit = s.shows.poolSplit ∧ BuffersKept h.port s t ∧
        OnlyShowCauses s t)

/-- R206: a save passes from state to state, and ends with its cause; while it runs, Save Setup is answered
STORE_BUSY. -/
def Obligations.SetupIsSaved : Prop :=
  (∀ h s, TakenOrRefused (.saveSetup h) h 116 s [(s.store.state != .idle, .storeBusy)]
    (∃ t, Takes (.saveSetup h) s h 116 (okWith []) t ∧ t.store = ⟨.erasing, none⟩ ∧
      t = { s with store := t.store, ports := t.ports } ∧ Quietly h.port s t)) ∧
  ∀ s, s.phase = .running →
    (s.store.state = .erasing →
      exec .storeEraseDone s = .next (s.withStore { s.store with state := .writing })) ∧
    (s.store.state = .writing →
      exec .storeWriteDone s = .next (s.withStore ⟨.checking, some (itemsOf s)⟩)) ∧
    (s.store.state = .checking →
      exec (.storeCheckDone true) s =
        .next (raise .programme .storeDone (s.withStore { s.store with state := .idle })) ∧
      exec (.storeCheckDone false) s = .next (raise .programme .storeFailed (s.withStore ⟨.idle, none⟩))) ∧
    (s.store.state ≠ .idle →
      exec .storeFault s = .next (raise .programme .storeFailed (s.withStore ⟨.idle, none⟩)))

end
end

