-- ==== Sys2Proof/Laws/State.lean ====
section
/-! SUPPORT. One lemma per field per update of the state, and how updates and reads of one block meet. -/

namespace Sys2Proof.Machine

@[simp] theorem withPhase_phase (s : State) (x) : (s.withPhase x).phase = x := rfl
@[simp] theorem withPhase_storeInvalid (s : State) (x) : (s.withPhase x).storeInvalid = s.storeInvalid := rfl
@[simp] theorem withPhase_shows (s : State) (x) : (s.withPhase x).shows = s.shows := rfl
@[simp] theorem withPhase_seat (s : State) (x) : (s.withPhase x).seat = s.seat := rfl
@[simp] theorem withPhase_board (s : State) (x) : (s.withPhase x).board = s.board := rfl
@[simp] theorem withPhase_reel (s : State) (x) : (s.withPhase x).reel = s.reel := rfl
@[simp] theorem withPhase_notice (s : State) (x) : (s.withPhase x).notice = s.notice := rfl
@[simp] theorem withPhase_chime (s : State) (x) : (s.withPhase x).chime = s.chime := rfl
@[simp] theorem withPhase_house (s : State) (x) : (s.withPhase x).house = s.house := rfl
@[simp] theorem withPhase_journal (s : State) (x) : (s.withPhase x).journal = s.journal := rfl
@[simp] theorem withPhase_link (s : State) (x) : (s.withPhase x).link = s.link := rfl
@[simp] theorem withPhase_ports (s : State) (x) : (s.withPhase x).ports = s.ports := rfl
@[simp] theorem withPhase_policy (s : State) (x) : (s.withPhase x).policy = s.policy := rfl
@[simp] theorem withPhase_store (s : State) (x) : (s.withPhase x).store = s.store := rfl
@[simp] theorem withPhase_pending (s : State) (x) : (s.withPhase x).pending = s.pending := rfl
@[simp] theorem withPhase_twice (s : State) (x y) : (s.withPhase x).withPhase y = s.withPhase y := rfl

@[simp] theorem withStoreInvalid_phase (s : State) (x) : (s.withStoreInvalid x).phase = s.phase := rfl
@[simp] theorem withStoreInvalid_storeInvalid (s : State) (x) : (s.withStoreInvalid x).storeInvalid = x := rfl
@[simp] theorem withStoreInvalid_shows (s : State) (x) : (s.withStoreInvalid x).shows = s.shows := rfl
@[simp] theorem withStoreInvalid_seat (s : State) (x) : (s.withStoreInvalid x).seat = s.seat := rfl
@[simp] theorem withStoreInvalid_board (s : State) (x) : (s.withStoreInvalid x).board = s.board := rfl
@[simp] theorem withStoreInvalid_reel (s : State) (x) : (s.withStoreInvalid x).reel = s.reel := rfl
@[simp] theorem withStoreInvalid_notice (s : State) (x) : (s.withStoreInvalid x).notice = s.notice := rfl
@[simp] theorem withStoreInvalid_chime (s : State) (x) : (s.withStoreInvalid x).chime = s.chime := rfl
@[simp] theorem withStoreInvalid_house (s : State) (x) : (s.withStoreInvalid x).house = s.house := rfl
@[simp] theorem withStoreInvalid_journal (s : State) (x) : (s.withStoreInvalid x).journal = s.journal := rfl
@[simp] theorem withStoreInvalid_link (s : State) (x) : (s.withStoreInvalid x).link = s.link := rfl
@[simp] theorem withStoreInvalid_ports (s : State) (x) : (s.withStoreInvalid x).ports = s.ports := rfl
@[simp] theorem withStoreInvalid_policy (s : State) (x) : (s.withStoreInvalid x).policy = s.policy := rfl
@[simp] theorem withStoreInvalid_store (s : State) (x) : (s.withStoreInvalid x).store = s.store := rfl
@[simp] theorem withStoreInvalid_pending (s : State) (x) : (s.withStoreInvalid x).pending = s.pending := rfl
@[simp] theorem withStoreInvalid_twice (s : State) (x y) : (s.withStoreInvalid x).withStoreInvalid y = s.withStoreInvalid y := rfl

@[simp] theorem withShows_phase (s : State) (x) : (s.withShows x).phase = s.phase := rfl
@[simp] theorem withShows_storeInvalid (s : State) (x) : (s.withShows x).storeInvalid = s.storeInvalid := rfl
@[simp] theorem withShows_shows (s : State) (x) : (s.withShows x).shows = x := rfl
@[simp] theorem withShows_seat (s : State) (x) : (s.withShows x).seat = s.seat := rfl
@[simp] theorem withShows_board (s : State) (x) : (s.withShows x).board = s.board := rfl
@[simp] theorem withShows_reel (s : State) (x) : (s.withShows x).reel = s.reel := rfl
@[simp] theorem withShows_notice (s : State) (x) : (s.withShows x).notice = s.notice := rfl
@[simp] theorem withShows_chime (s : State) (x) : (s.withShows x).chime = s.chime := rfl
@[simp] theorem withShows_house (s : State) (x) : (s.withShows x).house = s.house := rfl
@[simp] theorem withShows_journal (s : State) (x) : (s.withShows x).journal = s.journal := rfl
@[simp] theorem withShows_link (s : State) (x) : (s.withShows x).link = s.link := rfl
@[simp] theorem withShows_ports (s : State) (x) : (s.withShows x).ports = s.ports := rfl
@[simp] theorem withShows_policy (s : State) (x) : (s.withShows x).policy = s.policy := rfl
@[simp] theorem withShows_store (s : State) (x) : (s.withShows x).store = s.store := rfl
@[simp] theorem withShows_pending (s : State) (x) : (s.withShows x).pending = s.pending := rfl
@[simp] theorem withShows_twice (s : State) (x y) : (s.withShows x).withShows y = s.withShows y := rfl

@[simp] theorem withSeat_phase (s : State) (x) : (s.withSeat x).phase = s.phase := rfl
@[simp] theorem withSeat_storeInvalid (s : State) (x) : (s.withSeat x).storeInvalid = s.storeInvalid := rfl
@[simp] theorem withSeat_shows (s : State) (x) : (s.withSeat x).shows = s.shows := rfl
@[simp] theorem withSeat_seat (s : State) (x) : (s.withSeat x).seat = x := rfl
@[simp] theorem withSeat_board (s : State) (x) : (s.withSeat x).board = s.board := rfl
@[simp] theorem withSeat_reel (s : State) (x) : (s.withSeat x).reel = s.reel := rfl
@[simp] theorem withSeat_notice (s : State) (x) : (s.withSeat x).notice = s.notice := rfl
@[simp] theorem withSeat_chime (s : State) (x) : (s.withSeat x).chime = s.chime := rfl
@[simp] theorem withSeat_house (s : State) (x) : (s.withSeat x).house = s.house := rfl
@[simp] theorem withSeat_journal (s : State) (x) : (s.withSeat x).journal = s.journal := rfl
@[simp] theorem withSeat_link (s : State) (x) : (s.withSeat x).link = s.link := rfl
@[simp] theorem withSeat_ports (s : State) (x) : (s.withSeat x).ports = s.ports := rfl
@[simp] theorem withSeat_policy (s : State) (x) : (s.withSeat x).policy = s.policy := rfl
@[simp] theorem withSeat_store (s : State) (x) : (s.withSeat x).store = s.store := rfl
@[simp] theorem withSeat_pending (s : State) (x) : (s.withSeat x).pending = s.pending := rfl
@[simp] theorem withSeat_twice (s : State) (x y) : (s.withSeat x).withSeat y = s.withSeat y := rfl

@[simp] theorem withBoard_phase (s : State) (x) : (s.withBoard x).phase = s.phase := rfl
@[simp] theorem withBoard_storeInvalid (s : State) (x) : (s.withBoard x).storeInvalid = s.storeInvalid := rfl
@[simp] theorem withBoard_shows (s : State) (x) : (s.withBoard x).shows = s.shows := rfl
@[simp] theorem withBoard_seat (s : State) (x) : (s.withBoard x).seat = s.seat := rfl
@[simp] theorem withBoard_board (s : State) (x) : (s.withBoard x).board = x := rfl
@[simp] theorem withBoard_reel (s : State) (x) : (s.withBoard x).reel = s.reel := rfl
@[simp] theorem withBoard_notice (s : State) (x) : (s.withBoard x).notice = s.notice := rfl
@[simp] theorem withBoard_chime (s : State) (x) : (s.withBoard x).chime = s.chime := rfl
@[simp] theorem withBoard_house (s : State) (x) : (s.withBoard x).house = s.house := rfl
@[simp] theorem withBoard_journal (s : State) (x) : (s.withBoard x).journal = s.journal := rfl
@[simp] theorem withBoard_link (s : State) (x) : (s.withBoard x).link = s.link := rfl
@[simp] theorem withBoard_ports (s : State) (x) : (s.withBoard x).ports = s.ports := rfl
@[simp] theorem withBoard_policy (s : State) (x) : (s.withBoard x).policy = s.policy := rfl
@[simp] theorem withBoard_store (s : State) (x) : (s.withBoard x).store = s.store := rfl
@[simp] theorem withBoard_pending (s : State) (x) : (s.withBoard x).pending = s.pending := rfl
@[simp] theorem withBoard_twice (s : State) (x y) : (s.withBoard x).withBoard y = s.withBoard y := rfl

@[simp] theorem withReel_phase (s : State) (x) : (s.withReel x).phase = s.phase := rfl
@[simp] theorem withReel_storeInvalid (s : State) (x) : (s.withReel x).storeInvalid = s.storeInvalid := rfl
@[simp] theorem withReel_shows (s : State) (x) : (s.withReel x).shows = s.shows := rfl
@[simp] theorem withReel_seat (s : State) (x) : (s.withReel x).seat = s.seat := rfl
@[simp] theorem withReel_board (s : State) (x) : (s.withReel x).board = s.board := rfl
@[simp] theorem withReel_reel (s : State) (x) : (s.withReel x).reel = x := rfl
@[simp] theorem withReel_notice (s : State) (x) : (s.withReel x).notice = s.notice := rfl
@[simp] theorem withReel_chime (s : State) (x) : (s.withReel x).chime = s.chime := rfl
@[simp] theorem withReel_house (s : State) (x) : (s.withReel x).house = s.house := rfl
@[simp] theorem withReel_journal (s : State) (x) : (s.withReel x).journal = s.journal := rfl
@[simp] theorem withReel_link (s : State) (x) : (s.withReel x).link = s.link := rfl
@[simp] theorem withReel_ports (s : State) (x) : (s.withReel x).ports = s.ports := rfl
@[simp] theorem withReel_policy (s : State) (x) : (s.withReel x).policy = s.policy := rfl
@[simp] theorem withReel_store (s : State) (x) : (s.withReel x).store = s.store := rfl
@[simp] theorem withReel_pending (s : State) (x) : (s.withReel x).pending = s.pending := rfl
@[simp] theorem withReel_twice (s : State) (x y) : (s.withReel x).withReel y = s.withReel y := rfl

@[simp] theorem withNotice_phase (s : State) (x) : (s.withNotice x).phase = s.phase := rfl
@[simp] theorem withNotice_storeInvalid (s : State) (x) : (s.withNotice x).storeInvalid = s.storeInvalid := rfl
@[simp] theorem withNotice_shows (s : State) (x) : (s.withNotice x).shows = s.shows := rfl
@[simp] theorem withNotice_seat (s : State) (x) : (s.withNotice x).seat = s.seat := rfl
@[simp] theorem withNotice_board (s : State) (x) : (s.withNotice x).board = s.board := rfl
@[simp] theorem withNotice_reel (s : State) (x) : (s.withNotice x).reel = s.reel := rfl
@[simp] theorem withNotice_notice (s : State) (x) : (s.withNotice x).notice = x := rfl
@[simp] theorem withNotice_chime (s : State) (x) : (s.withNotice x).chime = s.chime := rfl
@[simp] theorem withNotice_house (s : State) (x) : (s.withNotice x).house = s.house := rfl
@[simp] theorem withNotice_journal (s : State) (x) : (s.withNotice x).journal = s.journal := rfl
@[simp] theorem withNotice_link (s : State) (x) : (s.withNotice x).link = s.link := rfl
@[simp] theorem withNotice_ports (s : State) (x) : (s.withNotice x).ports = s.ports := rfl
@[simp] theorem withNotice_policy (s : State) (x) : (s.withNotice x).policy = s.policy := rfl
@[simp] theorem withNotice_store (s : State) (x) : (s.withNotice x).store = s.store := rfl
@[simp] theorem withNotice_pending (s : State) (x) : (s.withNotice x).pending = s.pending := rfl
@[simp] theorem withNotice_twice (s : State) (x y) : (s.withNotice x).withNotice y = s.withNotice y := rfl

@[simp] theorem withChime_phase (s : State) (x) : (s.withChime x).phase = s.phase := rfl
@[simp] theorem withChime_storeInvalid (s : State) (x) : (s.withChime x).storeInvalid = s.storeInvalid := rfl
@[simp] theorem withChime_shows (s : State) (x) : (s.withChime x).shows = s.shows := rfl
@[simp] theorem withChime_seat (s : State) (x) : (s.withChime x).seat = s.seat := rfl
@[simp] theorem withChime_board (s : State) (x) : (s.withChime x).board = s.board := rfl
@[simp] theorem withChime_reel (s : State) (x) : (s.withChime x).reel = s.reel := rfl
@[simp] theorem withChime_notice (s : State) (x) : (s.withChime x).notice = s.notice := rfl
@[simp] theorem withChime_chime (s : State) (x) : (s.withChime x).chime = x := rfl
@[simp] theorem withChime_house (s : State) (x) : (s.withChime x).house = s.house := rfl
@[simp] theorem withChime_journal (s : State) (x) : (s.withChime x).journal = s.journal := rfl
@[simp] theorem withChime_link (s : State) (x) : (s.withChime x).link = s.link := rfl
@[simp] theorem withChime_ports (s : State) (x) : (s.withChime x).ports = s.ports := rfl
@[simp] theorem withChime_policy (s : State) (x) : (s.withChime x).policy = s.policy := rfl
@[simp] theorem withChime_store (s : State) (x) : (s.withChime x).store = s.store := rfl
@[simp] theorem withChime_pending (s : State) (x) : (s.withChime x).pending = s.pending := rfl
@[simp] theorem withChime_twice (s : State) (x y) : (s.withChime x).withChime y = s.withChime y := rfl

@[simp] theorem withHouse_phase (s : State) (x) : (s.withHouse x).phase = s.phase := rfl
@[simp] theorem withHouse_storeInvalid (s : State) (x) : (s.withHouse x).storeInvalid = s.storeInvalid := rfl
@[simp] theorem withHouse_shows (s : State) (x) : (s.withHouse x).shows = s.shows := rfl
@[simp] theorem withHouse_seat (s : State) (x) : (s.withHouse x).seat = s.seat := rfl
@[simp] theorem withHouse_board (s : State) (x) : (s.withHouse x).board = s.board := rfl
@[simp] theorem withHouse_reel (s : State) (x) : (s.withHouse x).reel = s.reel := rfl
@[simp] theorem withHouse_notice (s : State) (x) : (s.withHouse x).notice = s.notice := rfl
@[simp] theorem withHouse_chime (s : State) (x) : (s.withHouse x).chime = s.chime := rfl
@[simp] theorem withHouse_house (s : State) (x) : (s.withHouse x).house = x := rfl
@[simp] theorem withHouse_journal (s : State) (x) : (s.withHouse x).journal = s.journal := rfl
@[simp] theorem withHouse_link (s : State) (x) : (s.withHouse x).link = s.link := rfl
@[simp] theorem withHouse_ports (s : State) (x) : (s.withHouse x).ports = s.ports := rfl
@[simp] theorem withHouse_policy (s : State) (x) : (s.withHouse x).policy = s.policy := rfl
@[simp] theorem withHouse_store (s : State) (x) : (s.withHouse x).store = s.store := rfl
@[simp] theorem withHouse_pending (s : State) (x) : (s.withHouse x).pending = s.pending := rfl
@[simp] theorem withHouse_twice (s : State) (x y) : (s.withHouse x).withHouse y = s.withHouse y := rfl

@[simp] theorem withJournal_phase (s : State) (x) : (s.withJournal x).phase = s.phase := rfl
@[simp] theorem withJournal_storeInvalid (s : State) (x) : (s.withJournal x).storeInvalid = s.storeInvalid := rfl
@[simp] theorem withJournal_shows (s : State) (x) : (s.withJournal x).shows = s.shows := rfl
@[simp] theorem withJournal_seat (s : State) (x) : (s.withJournal x).seat = s.seat := rfl
@[simp] theorem withJournal_board (s : State) (x) : (s.withJournal x).board = s.board := rfl
@[simp] theorem withJournal_reel (s : State) (x) : (s.withJournal x).reel = s.reel := rfl
@[simp] theorem withJournal_notice (s : State) (x) : (s.withJournal x).notice = s.notice := rfl
@[simp] theorem withJournal_chime (s : State) (x) : (s.withJournal x).chime = s.chime := rfl
@[simp] theorem withJournal_house (s : State) (x) : (s.withJournal x).house = s.house := rfl
@[simp] theorem withJournal_journal (s : State) (x) : (s.withJournal x).journal = x := rfl
@[simp] theorem withJournal_link (s : State) (x) : (s.withJournal x).link = s.link := rfl
@[simp] theorem withJournal_ports (s : State) (x) : (s.withJournal x).ports = s.ports := rfl
@[simp] theorem withJournal_policy (s : State) (x) : (s.withJournal x).policy = s.policy := rfl
@[simp] theorem withJournal_store (s : State) (x) : (s.withJournal x).store = s.store := rfl
@[simp] theorem withJournal_pending (s : State) (x) : (s.withJournal x).pending = s.pending := rfl
@[simp] theorem withJournal_twice (s : State) (x y) : (s.withJournal x).withJournal y = s.withJournal y := rfl

@[simp] theorem withLink_phase (s : State) (x) : (s.withLink x).phase = s.phase := rfl
@[simp] theorem withLink_storeInvalid (s : State) (x) : (s.withLink x).storeInvalid = s.storeInvalid := rfl
@[simp] theorem withLink_shows (s : State) (x) : (s.withLink x).shows = s.shows := rfl
@[simp] theorem withLink_seat (s : State) (x) : (s.withLink x).seat = s.seat := rfl
@[simp] theorem withLink_board (s : State) (x) : (s.withLink x).board = s.board := rfl
@[simp] theorem withLink_reel (s : State) (x) : (s.withLink x).reel = s.reel := rfl
@[simp] theorem withLink_notice (s : State) (x) : (s.withLink x).notice = s.notice := rfl
@[simp] theorem withLink_chime (s : State) (x) : (s.withLink x).chime = s.chime := rfl
@[simp] theorem withLink_house (s : State) (x) : (s.withLink x).house = s.house := rfl
@[simp] theorem withLink_journal (s : State) (x) : (s.withLink x).journal = s.journal := rfl
@[simp] theorem withLink_link (s : State) (x) : (s.withLink x).link = x := rfl
@[simp] theorem withLink_ports (s : State) (x) : (s.withLink x).ports = s.ports := rfl
@[simp] theorem withLink_policy (s : State) (x) : (s.withLink x).policy = s.policy := rfl
@[simp] theorem withLink_store (s : State) (x) : (s.withLink x).store = s.store := rfl
@[simp] theorem withLink_pending (s : State) (x) : (s.withLink x).pending = s.pending := rfl
@[simp] theorem withLink_twice (s : State) (x y) : (s.withLink x).withLink y = s.withLink y := rfl

@[simp] theorem withPorts_phase (s : State) (x) : (s.withPorts x).phase = s.phase := rfl
@[simp] theorem withPorts_storeInvalid (s : State) (x) : (s.withPorts x).storeInvalid = s.storeInvalid := rfl
@[simp] theorem withPorts_shows (s : State) (x) : (s.withPorts x).shows = s.shows := rfl
@[simp] theorem withPorts_seat (s : State) (x) : (s.withPorts x).seat = s.seat := rfl
@[simp] theorem withPorts_board (s : State) (x) : (s.withPorts x).board = s.board := rfl
@[simp] theorem withPorts_reel (s : State) (x) : (s.withPorts x).reel = s.reel := rfl
@[simp] theorem withPorts_notice (s : State) (x) : (s.withPorts x).notice = s.notice := rfl
@[simp] theorem withPorts_chime (s : State) (x) : (s.withPorts x).chime = s.chime := rfl
@[simp] theorem withPorts_house (s : State) (x) : (s.withPorts x).house = s.house := rfl
@[simp] theorem withPorts_journal (s : State) (x) : (s.withPorts x).journal = s.journal := rfl
@[simp] theorem withPorts_link (s : State) (x) : (s.withPorts x).link = s.link := rfl
@[simp] theorem withPorts_ports (s : State) (x) : (s.withPorts x).ports = x := rfl
@[simp] theorem withPorts_policy (s : State) (x) : (s.withPorts x).policy = s.policy := rfl
@[simp] theorem withPorts_store (s : State) (x) : (s.withPorts x).store = s.store := rfl
@[simp] theorem withPorts_pending (s : State) (x) : (s.withPorts x).pending = s.pending := rfl
@[simp] theorem withPorts_twice (s : State) (x y) : (s.withPorts x).withPorts y = s.withPorts y := rfl

@[simp] theorem withPolicy_phase (s : State) (x) : (s.withPolicy x).phase = s.phase := rfl
@[simp] theorem withPolicy_storeInvalid (s : State) (x) : (s.withPolicy x).storeInvalid = s.storeInvalid := rfl
@[simp] theorem withPolicy_shows (s : State) (x) : (s.withPolicy x).shows = s.shows := rfl
@[simp] theorem withPolicy_seat (s : State) (x) : (s.withPolicy x).seat = s.seat := rfl
@[simp] theorem withPolicy_board (s : State) (x) : (s.withPolicy x).board = s.board := rfl
@[simp] theorem withPolicy_reel (s : State) (x) : (s.withPolicy x).reel = s.reel := rfl
@[simp] theorem withPolicy_notice (s : State) (x) : (s.withPolicy x).notice = s.notice := rfl
@[simp] theorem withPolicy_chime (s : State) (x) : (s.withPolicy x).chime = s.chime := rfl
@[simp] theorem withPolicy_house (s : State) (x) : (s.withPolicy x).house = s.house := rfl
@[simp] theorem withPolicy_journal (s : State) (x) : (s.withPolicy x).journal = s.journal := rfl
@[simp] theorem withPolicy_link (s : State) (x) : (s.withPolicy x).link = s.link := rfl
@[simp] theorem withPolicy_ports (s : State) (x) : (s.withPolicy x).ports = s.ports := rfl
@[simp] theorem withPolicy_policy (s : State) (x) : (s.withPolicy x).policy = x := rfl
@[simp] theorem withPolicy_store (s : State) (x) : (s.withPolicy x).store = s.store := rfl
@[simp] theorem withPolicy_pending (s : State) (x) : (s.withPolicy x).pending = s.pending := rfl
@[simp] theorem withPolicy_twice (s : State) (x y) : (s.withPolicy x).withPolicy y = s.withPolicy y := rfl

@[simp] theorem withStore_phase (s : State) (x) : (s.withStore x).phase = s.phase := rfl
@[simp] theorem withStore_storeInvalid (s : State) (x) : (s.withStore x).storeInvalid = s.storeInvalid := rfl
@[simp] theorem withStore_shows (s : State) (x) : (s.withStore x).shows = s.shows := rfl
@[simp] theorem withStore_seat (s : State) (x) : (s.withStore x).seat = s.seat := rfl
@[simp] theorem withStore_board (s : State) (x) : (s.withStore x).board = s.board := rfl
@[simp] theorem withStore_reel (s : State) (x) : (s.withStore x).reel = s.reel := rfl
@[simp] theorem withStore_notice (s : State) (x) : (s.withStore x).notice = s.notice := rfl
@[simp] theorem withStore_chime (s : State) (x) : (s.withStore x).chime = s.chime := rfl
@[simp] theorem withStore_house (s : State) (x) : (s.withStore x).house = s.house := rfl
@[simp] theorem withStore_journal (s : State) (x) : (s.withStore x).journal = s.journal := rfl
@[simp] theorem withStore_link (s : State) (x) : (s.withStore x).link = s.link := rfl
@[simp] theorem withStore_ports (s : State) (x) : (s.withStore x).ports = s.ports := rfl
@[simp] theorem withStore_policy (s : State) (x) : (s.withStore x).policy = s.policy := rfl
@[simp] theorem withStore_store (s : State) (x) : (s.withStore x).store = x := rfl
@[simp] theorem withStore_pending (s : State) (x) : (s.withStore x).pending = s.pending := rfl
@[simp] theorem withStore_twice (s : State) (x y) : (s.withStore x).withStore y = s.withStore y := rfl

@[simp] theorem withPending_phase (s : State) (x) : (s.withPending x).phase = s.phase := rfl
@[simp] theorem withPending_storeInvalid (s : State) (x) : (s.withPending x).storeInvalid = s.storeInvalid := rfl
@[simp] theorem withPending_shows (s : State) (x) : (s.withPending x).shows = s.shows := rfl
@[simp] theorem withPending_seat (s : State) (x) : (s.withPending x).seat = s.seat := rfl
@[simp] theorem withPending_board (s : State) (x) : (s.withPending x).board = s.board := rfl
@[simp] theorem withPending_reel (s : State) (x) : (s.withPending x).reel = s.reel := rfl
@[simp] theorem withPending_notice (s : State) (x) : (s.withPending x).notice = s.notice := rfl
@[simp] theorem withPending_chime (s : State) (x) : (s.withPending x).chime = s.chime := rfl
@[simp] theorem withPending_house (s : State) (x) : (s.withPending x).house = s.house := rfl
@[simp] theorem withPending_journal (s : State) (x) : (s.withPending x).journal = s.journal := rfl
@[simp] theorem withPending_link (s : State) (x) : (s.withPending x).link = s.link := rfl
@[simp] theorem withPending_ports (s : State) (x) : (s.withPending x).ports = s.ports := rfl
@[simp] theorem withPending_policy (s : State) (x) : (s.withPending x).policy = s.policy := rfl
@[simp] theorem withPending_store (s : State) (x) : (s.withPending x).store = s.store := rfl
@[simp] theorem withPending_pending (s : State) (x) : (s.withPending x).pending = x := rfl
@[simp] theorem withPending_twice (s : State) (x y) : (s.withPending x).withPending y = s.withPending y := rfl

/-! ### Derived updates: what each leaves alone -/

@[simp] theorem withShowList_frame (s : State) (l : List Show) :
    (s.withShowList l).phase = s.phase ∧
    (s.withShowList l).storeInvalid = s.storeInvalid ∧
    (s.withShowList l).seat = s.seat ∧
    (s.withShowList l).board = s.board ∧
    (s.withShowList l).reel = s.reel ∧
    (s.withShowList l).notice = s.notice ∧
    (s.withShowList l).chime = s.chime ∧
    (s.withShowList l).house = s.house ∧
    (s.withShowList l).journal = s.journal ∧
    (s.withShowList l).link = s.link ∧
    (s.withShowList l).ports = s.ports ∧
    (s.withShowList l).policy = s.policy ∧
    (s.withShowList l).store = s.store ∧
    (s.withShowList l).pending = s.pending :=
  ⟨rfl, rfl, rfl, rfl, rfl, rfl, rfl, rfl, rfl, rfl, rfl, rfl, rfl, rfl⟩

@[simp] theorem withClock_frame (s : State) (c : Clock) :
    (s.withClock c).phase = s.phase ∧
    (s.withClock c).storeInvalid = s.storeInvalid ∧
    (s.withClock c).seat = s.seat ∧
    (s.withClock c).board = s.board ∧
    (s.withClock c).reel = s.reel ∧
    (s.withClock c).notice = s.notice ∧
    (s.withClock c).chime = s.chime ∧
    (s.withClock c).house = s.house ∧
    (s.withClock c).journal = s.journal ∧
    (s.withClock c).link = s.link ∧
    (s.withClock c).ports = s.ports ∧
    (s.withClock c).policy = s.policy ∧
    (s.withClock c).store = s.store ∧
    (s.withClock c).pending = s.pending :=
  ⟨rfl, rfl, rfl, rfl, rfl, rfl, rfl, rfl, rfl, rfl, rfl, rfl, rfl, rfl⟩

@[simp] theorem modifyShow_frame (s : State) (k : Nat) (f : Show → Show) :
    (s.modifyShow k f).phase = s.phase ∧
    (s.modifyShow k f).storeInvalid = s.storeInvalid ∧
    (s.modifyShow k f).seat = s.seat ∧
    (s.modifyShow k f).board = s.board ∧
    (s.modifyShow k f).reel = s.reel ∧
    (s.modifyShow k f).notice = s.notice ∧
    (s.modifyShow k f).chime = s.chime ∧
    (s.modifyShow k f).house = s.house ∧
    (s.modifyShow k f).journal = s.journal ∧
    (s.modifyShow k f).link = s.link ∧
    (s.modifyShow k f).ports = s.ports ∧
    (s.modifyShow k f).policy = s.policy ∧
    (s.modifyShow k f).store = s.store ∧
    (s.modifyShow k f).pending = s.pending :=
  ⟨rfl, rfl, rfl, rfl, rfl, rfl, rfl, rfl, rfl, rfl, rfl, rfl, rfl, rfl⟩

@[simp] theorem withHoldSlot_frame (s : State) (i : Nat) (x : HoldSlot) :
    (s.withHoldSlot i x).phase = s.phase ∧
    (s.withHoldSlot i x).storeInvalid = s.storeInvalid ∧
    (s.withHoldSlot i x).shows = s.shows ∧
    (s.withHoldSlot i x).board = s.board ∧
    (s.withHoldSlot i x).reel = s.reel ∧
    (s.withHoldSlot i x).notice = s.notice ∧
    (s.withHoldSlot i x).chime = s.chime ∧
    (s.withHoldSlot i x).house = s.house ∧
    (s.withHoldSlot i x).journal = s.journal ∧
    (s.withHoldSlot i x).link = s.link ∧
    (s.withHoldSlot i x).ports = s.ports ∧
    (s.withHoldSlot i x).policy = s.policy ∧
    (s.withHoldSlot i x).store = s.store ∧
    (s.withHoldSlot i x).pending = s.pending :=
  ⟨rfl, rfl, rfl, rfl, rfl, rfl, rfl, rfl, rfl, rfl, rfl, rfl, rfl, rfl⟩

@[simp] theorem withReelAt_frame (s : State) (r : Nat) (x : Reel) :
    (s.withReelAt r x).phase = s.phase ∧
    (s.withReelAt r x).storeInvalid = s.storeInvalid ∧
    (s.withReelAt r x).shows = s.shows ∧
    (s.withReelAt r x).seat = s.seat ∧
    (s.withReelAt r x).board = s.board ∧
    (s.withReelAt r x).notice = s.notice ∧
    (s.withReelAt r x).chime = s.chime ∧
    (s.withReelAt r x).house = s.house ∧
    (s.withReelAt r x).journal = s.journal ∧
    (s.withReelAt r x).link = s.link ∧
    (s.withReelAt r x).ports = s.ports ∧
    (s.withReelAt r x).policy = s.policy ∧
    (s.withReelAt r x).store = s.store ∧
    (s.withReelAt r x).pending = s.pending :=
  ⟨rfl, rfl, rfl, rfl, rfl, rfl, rfl, rfl, rfl, rfl, rfl, rfl, rfl, rfl⟩

@[simp] theorem withPanelAt_frame (s : State) (a : Nat) (x : Panel) :
    (s.withPanelAt a x).phase = s.phase ∧
    (s.withPanelAt a x).storeInvalid = s.storeInvalid ∧
    (s.withPanelAt a x).shows = s.shows ∧
    (s.withPanelAt a x).seat = s.seat ∧
    (s.withPanelAt a x).board = s.board ∧
    (s.withPanelAt a x).reel = s.reel ∧
    (s.withPanelAt a x).notice = s.notice ∧
    (s.withPanelAt a x).chime = s.chime ∧
    (s.withPanelAt a x).house = s.house ∧
    (s.withPanelAt a x).journal = s.journal ∧
    (s.withPanelAt a x).ports = s.ports ∧
    (s.withPanelAt a x).policy = s.policy ∧
    (s.withPanelAt a x).store = s.store ∧
    (s.withPanelAt a x).pending = s.pending :=
  ⟨rfl, rfl, rfl, rfl, rfl, rfl, rfl, rfl, rfl, rfl, rfl, rfl, rfl, rfl⟩

@[simp] theorem withCond_frame (s : State) (c : LinkCond) :
    (s.withCond c).phase = s.phase ∧
    (s.withCond c).storeInvalid = s.storeInvalid ∧
    (s.withCond c).shows = s.shows ∧
    (s.withCond c).seat = s.seat ∧
    (s.withCond c).board = s.board ∧
    (s.withCond c).reel = s.reel ∧
    (s.withCond c).notice = s.notice ∧
    (s.withCond c).chime = s.chime ∧
    (s.withCond c).house = s.house ∧
    (s.withCond c).journal = s.journal ∧
    (s.withCond c).ports = s.ports ∧
    (s.withCond c).policy = s.policy ∧
    (s.withCond c).store = s.store ∧
    (s.withCond c).pending = s.pending :=
  ⟨rfl, rfl, rfl, rfl, rfl, rfl, rfl, rfl, rfl, rfl, rfl, rfl, rfl, rfl⟩

@[simp] theorem setBeacon_frame (s : State) :
    (s.setBeacon).phase = s.phase ∧
    (s.setBeacon).storeInvalid = s.storeInvalid ∧
    (s.setBeacon).shows = s.shows ∧
    (s.setBeacon).seat = s.seat ∧
    (s.setBeacon).board = s.board ∧
    (s.setBeacon).reel = s.reel ∧
    (s.setBeacon).notice = s.notice ∧
    (s.setBeacon).chime = s.chime ∧
    (s.setBeacon).house = s.house ∧
    (s.setBeacon).journal = s.journal ∧
    (s.setBeacon).ports = s.ports ∧
    (s.setBeacon).policy = s.policy ∧
    (s.setBeacon).store = s.store ∧
    (s.setBeacon).pending = s.pending :=
  ⟨rfl, rfl, rfl, rfl, rfl, rfl, rfl, rfl, rfl, rfl, rfl, rfl, rfl, rfl⟩

@[simp] theorem withPortAt_frame (s : State) (p : Port) (x : PortState) :
    (s.withPortAt p x).phase = s.phase ∧
    (s.withPortAt p x).storeInvalid = s.storeInvalid ∧
    (s.withPortAt p x).shows = s.shows ∧
    (s.withPortAt p x).seat = s.seat ∧
    (s.withPortAt p x).board = s.board ∧
    (s.withPortAt p x).reel = s.reel ∧
    (s.withPortAt p x).notice = s.notice ∧
    (s.withPortAt p x).chime = s.chime ∧
    (s.withPortAt p x).house = s.house ∧
    (s.withPortAt p x).journal = s.journal ∧
    (s.withPortAt p x).link = s.link ∧
    (s.withPortAt p x).policy = s.policy ∧
    (s.withPortAt p x).store = s.store ∧
    (s.withPortAt p x).pending = s.pending :=
  ⟨rfl, rfl, rfl, rfl, rfl, rfl, rfl, rfl, rfl, rfl, rfl, rfl, rfl, rfl⟩

/-! ### Derived updates: what each writes -/

@[simp] theorem withShowList_shows (s : State) (l : List Show) :
    (s.withShowList l).shows = { s.shows with shows := l } := rfl
@[simp] theorem withClock_shows (s : State) (c : Clock) : (s.withClock c).shows = { s.shows with clock := c } := rfl
@[simp] theorem modifyShow_shows (s : State) (k : Nat) (f : Show → Show) :
    (s.modifyShow k f).shows = { s.shows with shows := updateShows k f s.shows.shows } := rfl
@[simp] theorem withHoldSlot_seat (s : State) (i : Nat) (x : HoldSlot) :
    (s.withHoldSlot i x).seat = { s.seat with slots := s.seat.slots.set i x } := rfl
@[simp] theorem withReelAt_reel (s : State) (r : Nat) (x : Reel) :
    (s.withReelAt r x).reel = { s.reel with reels := s.reel.reels.set r x } := rfl
@[simp] theorem withPanelAt_link (s : State) (a : Nat) (x : Panel) :
    (s.withPanelAt a x).link = { s.link with panels := s.link.panels.set (a - 1) x } := rfl
@[simp] theorem withCond_link (s : State) (c : LinkCond) : (s.withCond c).link = { s.link with cond := c } := rfl
@[simp] theorem setBeacon_link (s : State) : s.setBeacon.link = { s.link with beaconPending := true } := rfl
@[simp] theorem withPortAt_ports (s : State) (p : Port) (x : PortState) :
    (s.withPortAt p x).ports = s.ports.put p x := rfl

/-! ### Ports -/

@[simp] theorem put_at_same (q : Ports) (p : Port) (x : PortState) : (q.put p x).at_ p = x := by cases p <;> rfl

theorem put_at_other (q : Ports) (p r : Port) (x : PortState) (h : r ≠ p) : (q.put p x).at_ r = q.at_ r := by
  cases p <;> cases r <;> first | rfl | exact absurd rfl h

theorem put_at (q : Ports) (p r : Port) (x : PortState) : (q.put p x).at_ r = if r = p then x else q.at_ r := by
  cases p <;> cases r <;> rfl

@[simp] theorem portAt_withPortAt_same (s : State) (p : Port) (x : PortState) : (s.withPortAt p x).portAt p = x := by
  cases p <;> rfl

theorem portAt_withPortAt (s : State) (p r : Port) (x : PortState) :
    (s.withPortAt p x).portAt r = if r = p then x else s.portAt r := by cases p <;> cases r <;> rfl

theorem portAt_eq (s : State) (p : Port) : s.portAt p = s.ports.at_ p := rfl

/-- Two sets of ports are equal when they agree at every port. -/
theorem ports_ext (q r : Ports) (h : ∀ p, q.at_ p = r.at_ p) : q = r := by
  have ha : q.a = r.a := h .salesA
  have hb : q.b = r.b := h .salesB
  have hp : q.p = r.p := h .programme
  cases q; cases r; simp_all

/-! ### Shows -/

theorem updateShows_map (k : Nat) (f : Show → Show) (l : List Show) (hf : ∀ x, (f x).key = x.key) :
    (updateShows k f l).map (·.key) = l.map (·.key) := by
  induction l with
  | nil => rfl
  | cons x l ih => simp only [updateShows, List.map_cons, List.map_map] at ih ⊢; split <;> simp_all

theorem mem_updateShows {k : Nat} {f : Show → Show} {l : List Show} {y : Show} :
    y ∈ updateShows k f l ↔ ∃ x ∈ l, (if x.key = k then f x else x) = y := by simp [updateShows]

/-- The show an update finds under its own key. -/
theorem findShow_modifyShow_same (s : State) (k : Nat) (f : Show → Show) (hf : ∀ x, (f x).key = x.key) :
    (s.modifyShow k f).findShow k = (s.findShow k).map f := by
  simp only [State.findShow, modifyShow_shows, updateShows]
  induction s.shows.shows with
  | nil => rfl
  | cons x l ih =>
    by_cases h : x.key = k
    · have : (f x).key = k := by rw [hf, h]
      simp [List.find?, h, this]
    · have hk : (x.key == k) = false := by simp [h]
      simp only [List.map_cons, if_neg h, List.find?, hk, ih]

/-- The show an update finds under another key. -/
theorem findShow_modifyShow_other (s : State) (k j : Nat) (f : Show → Show) (hf : ∀ x, (f x).key = x.key) (h : j ≠ k) :
    (s.modifyShow k f).findShow j = s.findShow j := by
  simp only [State.findShow, modifyShow_shows, updateShows]
  induction s.shows.shows with
  | nil => rfl
  | cons x l ih =>
    by_cases hx : x.key = k
    · have h1 : (f x).key ≠ j := by rw [hf, hx]; exact fun e => h e.symm
      have h2 : x.key ≠ j := by rw [hx]; exact fun e => h e.symm
      have e1 : ((f x).key == j) = false := by simp [h1]
      have e2 : (x.key == j) = false := by simp [h2]
      simp only [List.map_cons, if_pos hx, List.find?, e1, e2, ih]
    · simp only [List.map_cons, hx, if_false, List.find?]
      split <;> simp_all

theorem findShow_key {s : State} {k : Nat} {sh : Show} (h : s.findShow k = some sh) : sh.key = k := by
  have := List.find?_some h
  simpa using this

theorem findShow_mem {s : State} {k : Nat} {sh : Show} (h : s.findShow k = some sh) : sh ∈ s.shows.shows :=
  List.mem_of_find?_eq_some h

/-! ### Zones -/

@[simp] theorem withZone_same (sh : Show) (z : Zone) (c : ZoneCounts) : (sh.withZone z c).zone z = c := by
  cases z <;> rfl
theorem withZone_other (sh : Show) (z y : Zone) (c : ZoneCounts) (h : y ≠ z) : (sh.withZone z c).zone y = sh.zone y := by
  cases z <;> cases y <;> first | rfl | exact absurd rfl h
@[simp] theorem withZone_key (sh : Show) (z : Zone) (c : ZoneCounts) : (sh.withZone z c).key = sh.key := by
  cases z <;> rfl

/-! ### Folds and sorted lists -/

/-- A read that no step of a fold changes is not changed by the fold. -/
theorem foldl_keep {σ α β : Type} (f : σ → β) (g : σ → α → σ) (h : ∀ s a, f (g s a) = f s) (l : List α) (s : σ) :
    f (l.foldl g s) = f s := by
  induction l generalizing s with
  | nil => rfl
  | cons a l ih => rw [List.foldl_cons, ih, h]

/-- A property every step of a fold keeps is kept by the fold. -/
theorem foldl_inv {σ α : Type} (P : σ → Prop) (g : σ → α → σ) (h : ∀ s a, P s → P (g s a)) (l : List α) (s : σ)
    (hs : P s) : P (l.foldl g s) := by
  induction l generalizing s with
  | nil => exact hs
  | cons a l ih => exact ih _ (h s a hs)

theorem mem_insertBy {α : Type} (b : α → α → Bool) (x y : α) (l : List α) :
    y ∈ insertBy b x l ↔ y = x ∨ y ∈ l := by
  induction l with
  | nil => simp [insertBy]
  | cons z l ih =>
    simp only [insertBy]
    split
    · simp only [List.mem_cons, ih]; tauto
    · simp

theorem length_insertBy {α : Type} (b : α → α → Bool) (x : α) (l : List α) :
    (insertBy b x l).length = l.length + 1 := by
  induction l with
  | nil => rfl
  | cons z l ih => simp only [insertBy]; split <;> simp_all

theorem mem_sortBy {α : Type} (b : α → α → Bool) (y : α) (l : List α) : y ∈ sortBy b l ↔ y ∈ l := by
  induction l with
  | nil => simp [sortBy]
  | cons z l ih => simp [sortBy, mem_insertBy, ih]

theorem length_sortBy {α : Type} (b : α → α → Bool) (l : List α) : (sortBy b l).length = l.length := by
  induction l with
  | nil => rfl
  | cons z l ih => simp [sortBy, length_insertBy, ih]

end Sys2Proof.Machine
end

