-- ==== Sys2Proof/Laws/Frames.lean ====
section
/-! SUPPORT. What each shared operation leaves alone: one lemma per operation, every block it does not touch, the ports
but for causes, the panels but for what a filing may change. -/

namespace Sys2Proof.Machine

/-! ### Panels under filings -/

theorem steady_markRestart (p : Panel) : p.markRestart.steady = p.steady := rfl

theorem steady_toSyncing (p : Panel) : p.toSyncing.steady = p.steady := by
  unfold Panel.toSyncing; split <;> rfl

theorem steady_classify (j : Journal) (p : Panel) : (p.classify j).steady = p.steady := by
  unfold Panel.classify
  split
  · exact steady_toSyncing p
  · split <;> rfl

theorem steady_handOff (j : Journal) (p : Panel) : (p.handOff j).steady = p.steady := by
  have h : ∀ (f : Nat) (x : Panel), (x.restartBelow f).steady = x.steady := by
    intro f x
    unfold Panel.restartBelow
    split
    · split
      · exact steady_markRestart x
      · rfl
    · rfl
  unfold Panel.handOff
  rw [h]
  split
  · exact steady_classify j p
  · rfl

@[simp] theorem dropBatch_dropBatch (c : LinkCond) : c.dropBatch.dropBatch = c.dropBatch := by cases c <;> rfl

/-! ### Frames -/

@[simp] theorem raise_frame (p : Port) (c : Cause) (s : State) :
    (raise p c s).phase = s.phase ∧
    (raise p c s).storeInvalid = s.storeInvalid ∧
    (raise p c s).shows = s.shows ∧
    (raise p c s).seat = s.seat ∧
    (raise p c s).board = s.board ∧
    (raise p c s).reel = s.reel ∧
    (raise p c s).notice = s.notice ∧
    (raise p c s).chime = s.chime ∧
    (raise p c s).house = s.house ∧
    (raise p c s).journal = s.journal ∧
    (raise p c s).link = s.link ∧
    (raise p c s).policy = s.policy ∧
    (raise p c s).store = s.store ∧
    (raise p c s).pending = s.pending ∧
    (raise p c s).ports.quiet = s.ports.quiet := by
  cases p <;> simp [raise, Ports.quiet, Ports.put, PortState.quiet, State.portAt, Ports.at_]

@[simp] theorem raiseAll_frame (c : Cause) (s : State) :
    (raiseAll c s).phase = s.phase ∧
    (raiseAll c s).storeInvalid = s.storeInvalid ∧
    (raiseAll c s).shows = s.shows ∧
    (raiseAll c s).seat = s.seat ∧
    (raiseAll c s).board = s.board ∧
    (raiseAll c s).reel = s.reel ∧
    (raiseAll c s).notice = s.notice ∧
    (raiseAll c s).chime = s.chime ∧
    (raiseAll c s).house = s.house ∧
    (raiseAll c s).journal = s.journal ∧
    (raiseAll c s).link = s.link ∧
    (raiseAll c s).policy = s.policy ∧
    (raiseAll c s).store = s.store ∧
    (raiseAll c s).pending = s.pending ∧
    (raiseAll c s).ports.quiet = s.ports.quiet := by
  simp [raiseAll]

@[simp] theorem handOff_frame (s : State) :
    (handOff s).phase = s.phase ∧
    (handOff s).storeInvalid = s.storeInvalid ∧
    (handOff s).shows = s.shows ∧
    (handOff s).seat = s.seat ∧
    (handOff s).board = s.board ∧
    (handOff s).reel = s.reel ∧
    (handOff s).notice = s.notice ∧
    (handOff s).chime = s.chime ∧
    (handOff s).house = s.house ∧
    (handOff s).journal = s.journal ∧
    (handOff s).ports = s.ports ∧
    (handOff s).policy = s.policy ∧
    (handOff s).store = s.store ∧
    (handOff s).pending = s.pending ∧
    (handOff s).link.steady = s.link.steady := by
  simp [handOff, PanelLink.steady]
  intro p _
  exact steady_handOff _ p

@[simp] theorem panelsAtWrap_frame (s : State) :
    (panelsAtWrap s).phase = s.phase ∧
    (panelsAtWrap s).storeInvalid = s.storeInvalid ∧
    (panelsAtWrap s).shows = s.shows ∧
    (panelsAtWrap s).seat = s.seat ∧
    (panelsAtWrap s).board = s.board ∧
    (panelsAtWrap s).reel = s.reel ∧
    (panelsAtWrap s).notice = s.notice ∧
    (panelsAtWrap s).chime = s.chime ∧
    (panelsAtWrap s).house = s.house ∧
    (panelsAtWrap s).journal = s.journal ∧
    (panelsAtWrap s).ports = s.ports ∧
    (panelsAtWrap s).policy = s.policy ∧
    (panelsAtWrap s).store = s.store ∧
    (panelsAtWrap s).pending = s.pending ∧
    (panelsAtWrap s).link.steady = s.link.steady := by
  simp [panelsAtWrap, PanelLink.steady]
  intro p _
  rfl

@[simp] theorem file_frame (t : Target) (f : Form) (s : State) :
    (file t f s).phase = s.phase ∧
    (file t f s).storeInvalid = s.storeInvalid ∧
    (file t f s).shows = s.shows ∧
    (file t f s).seat = s.seat ∧
    (file t f s).board = s.board ∧
    (file t f s).reel = s.reel ∧
    (file t f s).notice = s.notice ∧
    (file t f s).chime = s.chime ∧
    (file t f s).house = s.house ∧
    (file t f s).policy = s.policy ∧
    (file t f s).store = s.store ∧
    (file t f s).pending = s.pending ∧
    (file t f s).ports.quiet = s.ports.quiet ∧
    (file t f s).link.steady = s.link.steady := by
  simp only [file]
  split_ifs
  all_goals simp

@[simp] theorem journalDayClear_frame (s : State) :
    (journalDayClear s).phase = s.phase ∧
    (journalDayClear s).storeInvalid = s.storeInvalid ∧
    (journalDayClear s).shows = s.shows ∧
    (journalDayClear s).seat = s.seat ∧
    (journalDayClear s).board = s.board ∧
    (journalDayClear s).reel = s.reel ∧
    (journalDayClear s).notice = s.notice ∧
    (journalDayClear s).chime = s.chime ∧
    (journalDayClear s).house = s.house ∧
    (journalDayClear s).policy = s.policy ∧
    (journalDayClear s).store = s.store ∧
    (journalDayClear s).pending = s.pending ∧
    (journalDayClear s).ports.quiet = s.ports.quiet ∧
    (journalDayClear s).link.steady = s.link.steady := by
  simp only [journalDayClear]
  split_ifs
  all_goals simp

@[simp] theorem publishLine_frame (key : Nat) (s : State) :
    (publishLine key s).phase = s.phase ∧
    (publishLine key s).storeInvalid = s.storeInvalid ∧
    (publishLine key s).shows = s.shows ∧
    (publishLine key s).seat = s.seat ∧
    (publishLine key s).reel = s.reel ∧
    (publishLine key s).notice = s.notice ∧
    (publishLine key s).chime = s.chime ∧
    (publishLine key s).house = s.house ∧
    (publishLine key s).policy = s.policy ∧
    (publishLine key s).store = s.store ∧
    (publishLine key s).pending = s.pending ∧
    (publishLine key s).ports.quiet = s.ports.quiet ∧
    (publishLine key s).link.steady = s.link.steady := by
  unfold publishLine
  repeat' split
  all_goals simp [State.withLines]

@[simp] theorem publishDoor_frame (aud : Nat) (s : State) :
    (publishDoor aud s).phase = s.phase ∧
    (publishDoor aud s).storeInvalid = s.storeInvalid ∧
    (publishDoor aud s).shows = s.shows ∧
    (publishDoor aud s).seat = s.seat ∧
    (publishDoor aud s).reel = s.reel ∧
    (publishDoor aud s).notice = s.notice ∧
    (publishDoor aud s).chime = s.chime ∧
    (publishDoor aud s).house = s.house ∧
    (publishDoor aud s).policy = s.policy ∧
    (publishDoor aud s).store = s.store ∧
    (publishDoor aud s).pending = s.pending ∧
    (publishDoor aud s).ports.quiet = s.ports.quiet ∧
    (publishDoor aud s).link.steady = s.link.steady := by
  unfold publishDoor
  repeat' split
  all_goals simp

@[simp] theorem publishTitle_frame (index : Nat) (s : State) :
    (publishTitle index s).phase = s.phase ∧
    (publishTitle index s).storeInvalid = s.storeInvalid ∧
    (publishTitle index s).shows = s.shows ∧
    (publishTitle index s).seat = s.seat ∧
    (publishTitle index s).reel = s.reel ∧
    (publishTitle index s).notice = s.notice ∧
    (publishTitle index s).chime = s.chime ∧
    (publishTitle index s).house = s.house ∧
    (publishTitle index s).policy = s.policy ∧
    (publishTitle index s).store = s.store ∧
    (publishTitle index s).pending = s.pending ∧
    (publishTitle index s).ports.quiet = s.ports.quiet ∧
    (publishTitle index s).link.steady = s.link.steady := by
  simp only [publishTitle]
  split
  all_goals simp

@[simp] theorem publishLines_frame (keys : List Nat) (s : State) :
    (publishLines keys s).phase = s.phase ∧
    (publishLines keys s).storeInvalid = s.storeInvalid ∧
    (publishLines keys s).shows = s.shows ∧
    (publishLines keys s).seat = s.seat ∧
    (publishLines keys s).reel = s.reel ∧
    (publishLines keys s).notice = s.notice ∧
    (publishLines keys s).chime = s.chime ∧
    (publishLines keys s).house = s.house ∧
    (publishLines keys s).policy = s.policy ∧
    (publishLines keys s).store = s.store ∧
    (publishLines keys s).pending = s.pending ∧
    (publishLines keys s).ports.quiet = s.ports.quiet ∧
    (publishLines keys s).link.steady = s.link.steady := by
  exact ⟨foldl_keep (fun t : State => t.phase) _ (by intros; simp) _ _,
    foldl_keep (fun t : State => t.storeInvalid) _ (by intros; simp) _ _,
    foldl_keep (fun t : State => t.shows) _ (by intros; simp) _ _,
    foldl_keep (fun t : State => t.seat) _ (by intros; simp) _ _,
    foldl_keep (fun t : State => t.reel) _ (by intros; simp) _ _,
    foldl_keep (fun t : State => t.notice) _ (by intros; simp) _ _,
    foldl_keep (fun t : State => t.chime) _ (by intros; simp) _ _,
    foldl_keep (fun t : State => t.house) _ (by intros; simp) _ _,
    foldl_keep (fun t : State => t.policy) _ (by intros; simp) _ _,
    foldl_keep (fun t : State => t.store) _ (by intros; simp) _ _,
    foldl_keep (fun t : State => t.pending) _ (by intros; simp) _ _,
    foldl_keep (fun t : State => t.ports.quiet) _ (by intros; simp) _ _,
    foldl_keep (fun t : State => t.link.steady) _ (by intros; simp) _ _⟩

@[simp] theorem publishDoors_frame (auds : List Nat) (s : State) :
    (publishDoors auds s).phase = s.phase ∧
    (publishDoors auds s).storeInvalid = s.storeInvalid ∧
    (publishDoors auds s).shows = s.shows ∧
    (publishDoors auds s).seat = s.seat ∧
    (publishDoors auds s).reel = s.reel ∧
    (publishDoors auds s).notice = s.notice ∧
    (publishDoors auds s).chime = s.chime ∧
    (publishDoors auds s).house = s.house ∧
    (publishDoors auds s).policy = s.policy ∧
    (publishDoors auds s).store = s.store ∧
    (publishDoors auds s).pending = s.pending ∧
    (publishDoors auds s).ports.quiet = s.ports.quiet ∧
    (publishDoors auds s).link.steady = s.link.steady := by
  exact ⟨foldl_keep (fun t : State => t.phase) _ (by intros; simp) _ _,
    foldl_keep (fun t : State => t.storeInvalid) _ (by intros; simp) _ _,
    foldl_keep (fun t : State => t.shows) _ (by intros; simp) _ _,
    foldl_keep (fun t : State => t.seat) _ (by intros; simp) _ _,
    foldl_keep (fun t : State => t.reel) _ (by intros; simp) _ _,
    foldl_keep (fun t : State => t.notice) _ (by intros; simp) _ _,
    foldl_keep (fun t : State => t.chime) _ (by intros; simp) _ _,
    foldl_keep (fun t : State => t.house) _ (by intros; simp) _ _,
    foldl_keep (fun t : State => t.policy) _ (by intros; simp) _ _,
    foldl_keep (fun t : State => t.store) _ (by intros; simp) _ _,
    foldl_keep (fun t : State => t.pending) _ (by intros; simp) _ _,
    foldl_keep (fun t : State => t.ports.quiet) _ (by intros; simp) _ _,
    foldl_keep (fun t : State => t.link.steady) _ (by intros; simp) _ _⟩

@[simp] theorem publishShow_frame (key : Nat) (auds : List Nat) (s : State) :
    (publishShow key auds s).phase = s.phase ∧
    (publishShow key auds s).storeInvalid = s.storeInvalid ∧
    (publishShow key auds s).shows = s.shows ∧
    (publishShow key auds s).seat = s.seat ∧
    (publishShow key auds s).reel = s.reel ∧
    (publishShow key auds s).notice = s.notice ∧
    (publishShow key auds s).chime = s.chime ∧
    (publishShow key auds s).house = s.house ∧
    (publishShow key auds s).policy = s.policy ∧
    (publishShow key auds s).store = s.store ∧
    (publishShow key auds s).pending = s.pending ∧
    (publishShow key auds s).ports.quiet = s.ports.quiet ∧
    (publishShow key auds s).link.steady = s.link.steady := by
  simp [publishShow]

@[simp] theorem publishAll_frame (s : State) :
    (publishAll s).phase = s.phase ∧
    (publishAll s).storeInvalid = s.storeInvalid ∧
    (publishAll s).shows = s.shows ∧
    (publishAll s).seat = s.seat ∧
    (publishAll s).reel = s.reel ∧
    (publishAll s).notice = s.notice ∧
    (publishAll s).chime = s.chime ∧
    (publishAll s).house = s.house ∧
    (publishAll s).policy = s.policy ∧
    (publishAll s).store = s.store ∧
    (publishAll s).pending = s.pending ∧
    (publishAll s).ports.quiet = s.ports.quiet ∧
    (publishAll s).link.steady = s.link.steady := by
  simp [publishAll]

@[simp] theorem testWindows_frame (s : State) :
    (testWindows s).phase = s.phase ∧
    (testWindows s).storeInvalid = s.storeInvalid ∧
    (testWindows s).shows = s.shows ∧
    (testWindows s).seat = s.seat ∧
    (testWindows s).reel = s.reel ∧
    (testWindows s).notice = s.notice ∧
    (testWindows s).chime = s.chime ∧
    (testWindows s).house = s.house ∧
    (testWindows s).policy = s.policy ∧
    (testWindows s).store = s.store ∧
    (testWindows s).pending = s.pending ∧
    (testWindows s).ports.quiet = s.ports.quiet ∧
    (testWindows s).link.steady = s.link.steady := by
  simp [testWindows]

@[simp] theorem computeShow_frame (key : Nat) (s : State) :
    (computeShow key s).phase = s.phase ∧
    (computeShow key s).storeInvalid = s.storeInvalid ∧
    (computeShow key s).seat = s.seat ∧
    (computeShow key s).board = s.board ∧
    (computeShow key s).reel = s.reel ∧
    (computeShow key s).notice = s.notice ∧
    (computeShow key s).chime = s.chime ∧
    (computeShow key s).house = s.house ∧
    (computeShow key s).journal = s.journal ∧
    (computeShow key s).link = s.link ∧
    (computeShow key s).ports = s.ports ∧
    (computeShow key s).policy = s.policy ∧
    (computeShow key s).store = s.store ∧
    (computeShow key s).pending = s.pending := by
  simp [computeShow]

@[simp] theorem handOn_frame (key : Nat) (s : State) :
    (handOn key s).phase = s.phase ∧
    (handOn key s).storeInvalid = s.storeInvalid ∧
    (handOn key s).shows = s.shows ∧
    (handOn key s).seat = s.seat ∧
    (handOn key s).reel = s.reel ∧
    (handOn key s).notice = s.notice ∧
    (handOn key s).chime = s.chime ∧
    (handOn key s).house = s.house ∧
    (handOn key s).policy = s.policy ∧
    (handOn key s).store = s.store ∧
    (handOn key s).pending = s.pending ∧
    (handOn key s).ports.quiet = s.ports.quiet ∧
    (handOn key s).link.steady = s.link.steady := by
  simp [handOn]

@[simp] theorem availability_frame (key : Nat) (s : State) :
    (availability key s).phase = s.phase ∧
    (availability key s).storeInvalid = s.storeInvalid ∧
    (availability key s).seat = s.seat ∧
    (availability key s).reel = s.reel ∧
    (availability key s).notice = s.notice ∧
    (availability key s).chime = s.chime ∧
    (availability key s).house = s.house ∧
    (availability key s).policy = s.policy ∧
    (availability key s).store = s.store ∧
    (availability key s).pending = s.pending ∧
    (availability key s).ports.quiet = s.ports.quiet ∧
    (availability key s).link.steady = s.link.steady := by
  simp [availability]

@[simp] theorem computeAll_frame (s : State) :
    (computeAll s).phase = s.phase ∧
    (computeAll s).storeInvalid = s.storeInvalid ∧
    (computeAll s).seat = s.seat ∧
    (computeAll s).reel = s.reel ∧
    (computeAll s).notice = s.notice ∧
    (computeAll s).chime = s.chime ∧
    (computeAll s).house = s.house ∧
    (computeAll s).policy = s.policy ∧
    (computeAll s).store = s.store ∧
    (computeAll s).pending = s.pending ∧
    (computeAll s).ports.quiet = s.ports.quiet ∧
    (computeAll s).link.steady = s.link.steady :=
  ⟨foldl_keep (fun t : State => t.phase) _ (by intros; simp) _ _,
    foldl_keep (fun t : State => t.storeInvalid) _ (by intros; simp) _ _,
    foldl_keep (fun t : State => t.seat) _ (by intros; simp) _ _,
    foldl_keep (fun t : State => t.reel) _ (by intros; simp) _ _,
    foldl_keep (fun t : State => t.notice) _ (by intros; simp) _ _,
    foldl_keep (fun t : State => t.chime) _ (by intros; simp) _ _,
    foldl_keep (fun t : State => t.house) _ (by intros; simp) _ _,
    foldl_keep (fun t : State => t.policy) _ (by intros; simp) _ _,
    foldl_keep (fun t : State => t.store) _ (by intros; simp) _ _,
    foldl_keep (fun t : State => t.pending) _ (by intros; simp) _ _,
    foldl_keep (fun t : State => t.ports.quiet) _ (by intros; simp) _ _,
    foldl_keep (fun t : State => t.link.steady) _ (by intros; simp) _ _⟩

@[simp] theorem endHold_frame (slot : Nat) (r : EndReason) (s : State) :
    (endHold slot r s).phase = s.phase ∧
    (endHold slot r s).storeInvalid = s.storeInvalid ∧
    (endHold slot r s).board = s.board ∧
    (endHold slot r s).reel = s.reel ∧
    (endHold slot r s).notice = s.notice ∧
    (endHold slot r s).chime = s.chime ∧
    (endHold slot r s).house = s.house ∧
    (endHold slot r s).journal = s.journal ∧
    (endHold slot r s).link = s.link ∧
    (endHold slot r s).ports = s.ports ∧
    (endHold slot r s).policy = s.policy ∧
    (endHold slot r s).store = s.store ∧
    (endHold slot r s).pending = s.pending := by
  unfold endHold
  repeat' split
  all_goals simp

@[simp] theorem expireHold_frame (slot : Nat) (s : State) :
    (expireHold slot s).phase = s.phase ∧
    (expireHold slot s).storeInvalid = s.storeInvalid ∧
    (expireHold slot s).reel = s.reel ∧
    (expireHold slot s).notice = s.notice ∧
    (expireHold slot s).chime = s.chime ∧
    (expireHold slot s).house = s.house ∧
    (expireHold slot s).policy = s.policy ∧
    (expireHold slot s).store = s.store ∧
    (expireHold slot s).pending = s.pending ∧
    (expireHold slot s).ports.quiet = s.ports.quiet ∧
    (expireHold slot s).link.steady = s.link.steady := by
  unfold expireHold
  repeat' split
  all_goals simp

@[simp] theorem voidHold_frame (slot : Nat) (s : State) :
    (voidHold slot s).phase = s.phase ∧
    (voidHold slot s).storeInvalid = s.storeInvalid ∧
    (voidHold slot s).board = s.board ∧
    (voidHold slot s).reel = s.reel ∧
    (voidHold slot s).notice = s.notice ∧
    (voidHold slot s).chime = s.chime ∧
    (voidHold slot s).house = s.house ∧
    (voidHold slot s).journal = s.journal ∧
    (voidHold slot s).link = s.link ∧
    (voidHold slot s).policy = s.policy ∧
    (voidHold slot s).store = s.store ∧
    (voidHold slot s).pending = s.pending ∧
    (voidHold slot s).ports.quiet = s.ports.quiet := by
  unfold voidHold
  repeat' split
  all_goals simp

@[simp] theorem voidHolds_frame (keys : List Nat) (s : State) :
    (voidHolds keys s).phase = s.phase ∧
    (voidHolds keys s).storeInvalid = s.storeInvalid ∧
    (voidHolds keys s).board = s.board ∧
    (voidHolds keys s).reel = s.reel ∧
    (voidHolds keys s).notice = s.notice ∧
    (voidHolds keys s).chime = s.chime ∧
    (voidHolds keys s).house = s.house ∧
    (voidHolds keys s).journal = s.journal ∧
    (voidHolds keys s).link = s.link ∧
    (voidHolds keys s).policy = s.policy ∧
    (voidHolds keys s).store = s.store ∧
    (voidHolds keys s).pending = s.pending ∧
    (voidHolds keys s).ports.quiet = s.ports.quiet := by
  exact ⟨foldl_keep (fun t : State => t.phase) _ (by intros; simp) _ _,
    foldl_keep (fun t : State => t.storeInvalid) _ (by intros; simp) _ _,
    foldl_keep (fun t : State => t.board) _ (by intros; simp) _ _,
    foldl_keep (fun t : State => t.reel) _ (by intros; simp) _ _,
    foldl_keep (fun t : State => t.notice) _ (by intros; simp) _ _,
    foldl_keep (fun t : State => t.chime) _ (by intros; simp) _ _,
    foldl_keep (fun t : State => t.house) _ (by intros; simp) _ _,
    foldl_keep (fun t : State => t.journal) _ (by intros; simp) _ _,
    foldl_keep (fun t : State => t.link) _ (by intros; simp) _ _,
    foldl_keep (fun t : State => t.policy) _ (by intros; simp) _ _,
    foldl_keep (fun t : State => t.store) _ (by intros; simp) _ _,
    foldl_keep (fun t : State => t.pending) _ (by intros; simp) _ _,
    foldl_keep (fun t : State => t.ports.quiet) _ (by intros; simp) _ _⟩

@[simp] theorem voidShow_frame (key : Nat) (s : State) :
    (voidShow key s).phase = s.phase ∧
    (voidShow key s).storeInvalid = s.storeInvalid ∧
    (voidShow key s).board = s.board ∧
    (voidShow key s).reel = s.reel ∧
    (voidShow key s).notice = s.notice ∧
    (voidShow key s).chime = s.chime ∧
    (voidShow key s).house = s.house ∧
    (voidShow key s).journal = s.journal ∧
    (voidShow key s).link = s.link ∧
    (voidShow key s).policy = s.policy ∧
    (voidShow key s).store = s.store ∧
    (voidShow key s).pending = s.pending ∧
    (voidShow key s).ports.quiet = s.ports.quiet := by
  unfold voidShow
  repeat' split
  all_goals simp

@[simp] theorem tickSlot_frame (slot : Nat) (s : State) :
    (tickSlot slot s).phase = s.phase ∧
    (tickSlot slot s).storeInvalid = s.storeInvalid ∧
    (tickSlot slot s).reel = s.reel ∧
    (tickSlot slot s).notice = s.notice ∧
    (tickSlot slot s).chime = s.chime ∧
    (tickSlot slot s).house = s.house ∧
    (tickSlot slot s).policy = s.policy ∧
    (tickSlot slot s).store = s.store ∧
    (tickSlot slot s).pending = s.pending ∧
    (tickSlot slot s).ports.quiet = s.ports.quiet ∧
    (tickSlot slot s).link.steady = s.link.steady := by
  unfold tickSlot
  repeat' split
  all_goals simp

@[simp] theorem seatTick_frame (s : State) :
    (seatTick s).phase = s.phase ∧
    (seatTick s).storeInvalid = s.storeInvalid ∧
    (seatTick s).reel = s.reel ∧
    (seatTick s).notice = s.notice ∧
    (seatTick s).chime = s.chime ∧
    (seatTick s).house = s.house ∧
    (seatTick s).policy = s.policy ∧
    (seatTick s).store = s.store ∧
    (seatTick s).pending = s.pending ∧
    (seatTick s).ports.quiet = s.ports.quiet ∧
    (seatTick s).link.steady = s.link.steady := by
  unfold seatTick
  split
  · exact ⟨foldl_keep (fun t : State => t.phase) _ (by intros; simp) _ _,
      foldl_keep (fun t : State => t.storeInvalid) _ (by intros; simp) _ _,
      foldl_keep (fun t : State => t.reel) _ (by intros; simp) _ _,
      foldl_keep (fun t : State => t.notice) _ (by intros; simp) _ _,
      foldl_keep (fun t : State => t.chime) _ (by intros; simp) _ _,
      foldl_keep (fun t : State => t.house) _ (by intros; simp) _ _,
      foldl_keep (fun t : State => t.policy) _ (by intros; simp) _ _,
      foldl_keep (fun t : State => t.store) _ (by intros; simp) _ _,
      foldl_keep (fun t : State => t.pending) _ (by intros; simp) _ _,
      foldl_keep (fun t : State => t.ports.quiet) _ (by intros; simp) _ _,
      foldl_keep (fun t : State => t.link.steady) _ (by intros; simp) _ _⟩
  · simp

@[simp] theorem chimeTrigger_frame (p : ChimePattern) (s : State) :
    (chimeTrigger p s).phase = s.phase ∧
    (chimeTrigger p s).storeInvalid = s.storeInvalid ∧
    (chimeTrigger p s).shows = s.shows ∧
    (chimeTrigger p s).seat = s.seat ∧
    (chimeTrigger p s).board = s.board ∧
    (chimeTrigger p s).reel = s.reel ∧
    (chimeTrigger p s).notice = s.notice ∧
    (chimeTrigger p s).house = s.house ∧
    (chimeTrigger p s).journal = s.journal ∧
    (chimeTrigger p s).link = s.link ∧
    (chimeTrigger p s).ports = s.ports ∧
    (chimeTrigger p s).policy = s.policy ∧
    (chimeTrigger p s).store = s.store ∧
    (chimeTrigger p s).pending = s.pending := by
  simp [chimeTrigger]

@[simp] theorem chimeTick_frame (s : State) :
    (chimeTick s).phase = s.phase ∧
    (chimeTick s).storeInvalid = s.storeInvalid ∧
    (chimeTick s).shows = s.shows ∧
    (chimeTick s).seat = s.seat ∧
    (chimeTick s).board = s.board ∧
    (chimeTick s).reel = s.reel ∧
    (chimeTick s).notice = s.notice ∧
    (chimeTick s).house = s.house ∧
    (chimeTick s).journal = s.journal ∧
    (chimeTick s).link = s.link ∧
    (chimeTick s).ports = s.ports ∧
    (chimeTick s).policy = s.policy ∧
    (chimeTick s).store = s.store ∧
    (chimeTick s).pending = s.pending := by
  simp [chimeTick]

@[simp] theorem chimeEnableChanged_frame (on : Bool) (s : State) :
    (chimeEnableChanged on s).phase = s.phase ∧
    (chimeEnableChanged on s).storeInvalid = s.storeInvalid ∧
    (chimeEnableChanged on s).shows = s.shows ∧
    (chimeEnableChanged on s).seat = s.seat ∧
    (chimeEnableChanged on s).board = s.board ∧
    (chimeEnableChanged on s).reel = s.reel ∧
    (chimeEnableChanged on s).notice = s.notice ∧
    (chimeEnableChanged on s).house = s.house ∧
    (chimeEnableChanged on s).journal = s.journal ∧
    (chimeEnableChanged on s).link = s.link ∧
    (chimeEnableChanged on s).ports = s.ports ∧
    (chimeEnableChanged on s).policy = s.policy ∧
    (chimeEnableChanged on s).store = s.store ∧
    (chimeEnableChanged on s).pending = s.pending := by
  unfold chimeEnableChanged
  repeat' split
  all_goals simp

@[simp] theorem fileNotices_frame (s : State) :
    (fileNotices s).phase = s.phase ∧
    (fileNotices s).storeInvalid = s.storeInvalid ∧
    (fileNotices s).shows = s.shows ∧
    (fileNotices s).seat = s.seat ∧
    (fileNotices s).board = s.board ∧
    (fileNotices s).reel = s.reel ∧
    (fileNotices s).notice = s.notice ∧
    (fileNotices s).chime = s.chime ∧
    (fileNotices s).house = s.house ∧
    (fileNotices s).policy = s.policy ∧
    (fileNotices s).store = s.store ∧
    (fileNotices s).pending = s.pending ∧
    (fileNotices s).ports.quiet = s.ports.quiet ∧
    (fileNotices s).link.steady = s.link.steady := by
  simp [fileNotices]

@[simp] theorem withdrawPosted_frame (x : Posting) (sh : Show) (d : Nat) (s : State) :
    (withdrawPosted x sh d s).phase = s.phase ∧
    (withdrawPosted x sh d s).storeInvalid = s.storeInvalid ∧
    (withdrawPosted x sh d s).policy = s.policy ∧
    (withdrawPosted x sh d s).shows = s.shows ∧
    (withdrawPosted x sh d s).seat = s.seat ∧
    (withdrawPosted x sh d s).board = s.board ∧
    (withdrawPosted x sh d s).reel = s.reel ∧
    (withdrawPosted x sh d s).chime = s.chime ∧
    (withdrawPosted x sh d s).house = s.house ∧
    (withdrawPosted x sh d s).journal = s.journal ∧
    (withdrawPosted x sh d s).link = s.link ∧
    (withdrawPosted x sh d s).ports = s.ports ∧
    (withdrawPosted x sh d s).store = s.store ∧
    (withdrawPosted x sh d s).pending = s.pending := by
  unfold withdrawPosted
  split
  all_goals simp

@[simp] theorem withdrawWhere_frame (f : Notice → Bool) (s : State) :
    (withdrawWhere f s).phase = s.phase ∧
    (withdrawWhere f s).storeInvalid = s.storeInvalid ∧
    (withdrawWhere f s).shows = s.shows ∧
    (withdrawWhere f s).seat = s.seat ∧
    (withdrawWhere f s).board = s.board ∧
    (withdrawWhere f s).reel = s.reel ∧
    (withdrawWhere f s).chime = s.chime ∧
    (withdrawWhere f s).house = s.house ∧
    (withdrawWhere f s).policy = s.policy ∧
    (withdrawWhere f s).store = s.store ∧
    (withdrawWhere f s).pending = s.pending ∧
    (withdrawWhere f s).ports.quiet = s.ports.quiet ∧
    (withdrawWhere f s).link.steady = s.link.steady := by
  simp only [withdrawWhere]
  split
  all_goals simp

@[simp] theorem withdrawDelay_frame (key : Nat) (s : State) :
    (withdrawDelay key s).phase = s.phase ∧
    (withdrawDelay key s).storeInvalid = s.storeInvalid ∧
    (withdrawDelay key s).shows = s.shows ∧
    (withdrawDelay key s).seat = s.seat ∧
    (withdrawDelay key s).board = s.board ∧
    (withdrawDelay key s).reel = s.reel ∧
    (withdrawDelay key s).chime = s.chime ∧
    (withdrawDelay key s).house = s.house ∧
    (withdrawDelay key s).policy = s.policy ∧
    (withdrawDelay key s).store = s.store ∧
    (withdrawDelay key s).pending = s.pending ∧
    (withdrawDelay key s).ports.quiet = s.ports.quiet ∧
    (withdrawDelay key s).link.steady = s.link.steady := by
  simp [withdrawDelay]

@[simp] theorem noticesAtClockSet_frame (s : State) :
    (noticesAtClockSet s).phase = s.phase ∧
    (noticesAtClockSet s).storeInvalid = s.storeInvalid ∧
    (noticesAtClockSet s).shows = s.shows ∧
    (noticesAtClockSet s).seat = s.seat ∧
    (noticesAtClockSet s).board = s.board ∧
    (noticesAtClockSet s).reel = s.reel ∧
    (noticesAtClockSet s).chime = s.chime ∧
    (noticesAtClockSet s).house = s.house ∧
    (noticesAtClockSet s).policy = s.policy ∧
    (noticesAtClockSet s).store = s.store ∧
    (noticesAtClockSet s).pending = s.pending ∧
    (noticesAtClockSet s).ports.quiet = s.ports.quiet ∧
    (noticesAtClockSet s).link.steady = s.link.steady := by
  simp [noticesAtClockSet]

@[simp] theorem raiseEnded_frame (gone : List Notice) (s : State) :
    (raiseEnded gone s).phase = s.phase ∧
    (raiseEnded gone s).storeInvalid = s.storeInvalid ∧
    (raiseEnded gone s).shows = s.shows ∧
    (raiseEnded gone s).seat = s.seat ∧
    (raiseEnded gone s).board = s.board ∧
    (raiseEnded gone s).reel = s.reel ∧
    (raiseEnded gone s).notice = s.notice ∧
    (raiseEnded gone s).chime = s.chime ∧
    (raiseEnded gone s).house = s.house ∧
    (raiseEnded gone s).journal = s.journal ∧
    (raiseEnded gone s).link = s.link ∧
    (raiseEnded gone s).policy = s.policy ∧
    (raiseEnded gone s).store = s.store ∧
    (raiseEnded gone s).pending = s.pending ∧
    (raiseEnded gone s).ports.quiet = s.ports.quiet := by
  exact ⟨foldl_keep (fun t : State => t.phase) _ (by intro s n; split <;> simp) _ _,
    foldl_keep (fun t : State => t.storeInvalid) _ (by intro s n; split <;> simp) _ _,
    foldl_keep (fun t : State => t.shows) _ (by intro s n; split <;> simp) _ _,
    foldl_keep (fun t : State => t.seat) _ (by intro s n; split <;> simp) _ _,
    foldl_keep (fun t : State => t.board) _ (by intro s n; split <;> simp) _ _,
    foldl_keep (fun t : State => t.reel) _ (by intro s n; split <;> simp) _ _,
    foldl_keep (fun t : State => t.notice) _ (by intro s n; split <;> simp) _ _,
    foldl_keep (fun t : State => t.chime) _ (by intro s n; split <;> simp) _ _,
    foldl_keep (fun t : State => t.house) _ (by intro s n; split <;> simp) _ _,
    foldl_keep (fun t : State => t.journal) _ (by intro s n; split <;> simp) _ _,
    foldl_keep (fun t : State => t.link) _ (by intro s n; split <;> simp) _ _,
    foldl_keep (fun t : State => t.policy) _ (by intro s n; split <;> simp) _ _,
    foldl_keep (fun t : State => t.store) _ (by intro s n; split <;> simp) _ _,
    foldl_keep (fun t : State => t.pending) _ (by intro s n; split <;> simp) _ _,
    foldl_keep (fun t : State => t.ports.quiet) _ (by intro s n; split <;> simp) _ _⟩

@[simp] theorem expireNotices_frame (s : State) :
    (expireNotices s).phase = s.phase ∧
    (expireNotices s).storeInvalid = s.storeInvalid ∧
    (expireNotices s).shows = s.shows ∧
    (expireNotices s).seat = s.seat ∧
    (expireNotices s).board = s.board ∧
    (expireNotices s).reel = s.reel ∧
    (expireNotices s).chime = s.chime ∧
    (expireNotices s).house = s.house ∧
    (expireNotices s).policy = s.policy ∧
    (expireNotices s).store = s.store ∧
    (expireNotices s).pending = s.pending ∧
    (expireNotices s).ports.quiet = s.ports.quiet ∧
    (expireNotices s).link.steady = s.link.steady := by
  simp only [expireNotices]
  split
  all_goals simp

@[simp] theorem reachIntervals_frame (s : State) :
    (reachIntervals s).phase = s.phase ∧
    (reachIntervals s).storeInvalid = s.storeInvalid ∧
    (reachIntervals s).shows = s.shows ∧
    (reachIntervals s).seat = s.seat ∧
    (reachIntervals s).board = s.board ∧
    (reachIntervals s).reel = s.reel ∧
    (reachIntervals s).house = s.house ∧
    (reachIntervals s).journal = s.journal ∧
    (reachIntervals s).link = s.link ∧
    (reachIntervals s).ports = s.ports ∧
    (reachIntervals s).policy = s.policy ∧
    (reachIntervals s).store = s.store ∧
    (reachIntervals s).pending = s.pending := by
  simp only [reachIntervals]
  split
  all_goals simp

@[simp] theorem noticeBoundary_frame (s : State) :
    (noticeBoundary s).phase = s.phase ∧
    (noticeBoundary s).storeInvalid = s.storeInvalid ∧
    (noticeBoundary s).shows = s.shows ∧
    (noticeBoundary s).seat = s.seat ∧
    (noticeBoundary s).board = s.board ∧
    (noticeBoundary s).reel = s.reel ∧
    (noticeBoundary s).house = s.house ∧
    (noticeBoundary s).policy = s.policy ∧
    (noticeBoundary s).store = s.store ∧
    (noticeBoundary s).pending = s.pending ∧
    (noticeBoundary s).ports.quiet = s.ports.quiet ∧
    (noticeBoundary s).link.steady = s.link.steady := by
  simp only [noticeBoundary]
  repeat' split
  all_goals simp

@[simp] theorem postEvacuate_frame (s : State) :
    (postEvacuate s).phase = s.phase ∧
    (postEvacuate s).storeInvalid = s.storeInvalid ∧
    (postEvacuate s).shows = s.shows ∧
    (postEvacuate s).seat = s.seat ∧
    (postEvacuate s).board = s.board ∧
    (postEvacuate s).reel = s.reel ∧
    (postEvacuate s).chime = s.chime ∧
    (postEvacuate s).house = s.house ∧
    (postEvacuate s).journal = s.journal ∧
    (postEvacuate s).link = s.link ∧
    (postEvacuate s).ports = s.ports ∧
    (postEvacuate s).policy = s.policy ∧
    (postEvacuate s).store = s.store ∧
    (postEvacuate s).pending = s.pending := by
  simp [postEvacuate]

@[simp] theorem dropEvacuate_frame (s : State) :
    (dropEvacuate s).phase = s.phase ∧
    (dropEvacuate s).storeInvalid = s.storeInvalid ∧
    (dropEvacuate s).shows = s.shows ∧
    (dropEvacuate s).seat = s.seat ∧
    (dropEvacuate s).board = s.board ∧
    (dropEvacuate s).reel = s.reel ∧
    (dropEvacuate s).chime = s.chime ∧
    (dropEvacuate s).house = s.house ∧
    (dropEvacuate s).journal = s.journal ∧
    (dropEvacuate s).link = s.link ∧
    (dropEvacuate s).ports = s.ports ∧
    (dropEvacuate s).policy = s.policy ∧
    (dropEvacuate s).store = s.store ∧
    (dropEvacuate s).pending = s.pending := by
  simp [dropEvacuate]

@[simp] theorem recomputeDoor_frame (s : State) (aud : Nat) :
    (recomputeDoor s aud).phase = s.phase ∧
    (recomputeDoor s aud).storeInvalid = s.storeInvalid ∧
    (recomputeDoor s aud).seat = s.seat ∧
    (recomputeDoor s aud).board = s.board ∧
    (recomputeDoor s aud).reel = s.reel ∧
    (recomputeDoor s aud).notice = s.notice ∧
    (recomputeDoor s aud).chime = s.chime ∧
    (recomputeDoor s aud).house = s.house ∧
    (recomputeDoor s aud).journal = s.journal ∧
    (recomputeDoor s aud).link = s.link ∧
    (recomputeDoor s aud).ports = s.ports ∧
    (recomputeDoor s aud).policy = s.policy ∧
    (recomputeDoor s aud).store = s.store ∧
    (recomputeDoor s aud).pending = s.pending := by
  simp [recomputeDoor]

@[simp] theorem recomputeDoors_frame (auds : List Nat) (s : State) :
    (recomputeDoors auds s).phase = s.phase ∧
    (recomputeDoors auds s).storeInvalid = s.storeInvalid ∧
    (recomputeDoors auds s).seat = s.seat ∧
    (recomputeDoors auds s).board = s.board ∧
    (recomputeDoors auds s).reel = s.reel ∧
    (recomputeDoors auds s).notice = s.notice ∧
    (recomputeDoors auds s).chime = s.chime ∧
    (recomputeDoors auds s).house = s.house ∧
    (recomputeDoors auds s).journal = s.journal ∧
    (recomputeDoors auds s).link = s.link ∧
    (recomputeDoors auds s).ports = s.ports ∧
    (recomputeDoors auds s).policy = s.policy ∧
    (recomputeDoors auds s).store = s.store ∧
    (recomputeDoors auds s).pending = s.pending := by
  exact ⟨foldl_keep (fun t : State => t.phase) _ (by intros; simp) _ _,
    foldl_keep (fun t : State => t.storeInvalid) _ (by intros; simp) _ _,
    foldl_keep (fun t : State => t.seat) _ (by intros; simp) _ _,
    foldl_keep (fun t : State => t.board) _ (by intros; simp) _ _,
    foldl_keep (fun t : State => t.reel) _ (by intros; simp) _ _,
    foldl_keep (fun t : State => t.notice) _ (by intros; simp) _ _,
    foldl_keep (fun t : State => t.chime) _ (by intros; simp) _ _,
    foldl_keep (fun t : State => t.house) _ (by intros; simp) _ _,
    foldl_keep (fun t : State => t.journal) _ (by intros; simp) _ _,
    foldl_keep (fun t : State => t.link) _ (by intros; simp) _ _,
    foldl_keep (fun t : State => t.ports) _ (by intros; simp) _ _,
    foldl_keep (fun t : State => t.policy) _ (by intros; simp) _ _,
    foldl_keep (fun t : State => t.store) _ (by intros; simp) _ _,
    foldl_keep (fun t : State => t.pending) _ (by intros; simp) _ _⟩

@[simp] theorem seatAtEntry_frame (key : Nat) (st : ShowState) (s : State) :
    (seatAtEntry key st s).phase = s.phase ∧
    (seatAtEntry key st s).storeInvalid = s.storeInvalid ∧
    (seatAtEntry key st s).board = s.board ∧
    (seatAtEntry key st s).reel = s.reel ∧
    (seatAtEntry key st s).notice = s.notice ∧
    (seatAtEntry key st s).chime = s.chime ∧
    (seatAtEntry key st s).house = s.house ∧
    (seatAtEntry key st s).journal = s.journal ∧
    (seatAtEntry key st s).link = s.link ∧
    (seatAtEntry key st s).policy = s.policy ∧
    (seatAtEntry key st s).store = s.store ∧
    (seatAtEntry key st s).pending = s.pending ∧
    (seatAtEntry key st s).ports.quiet = s.ports.quiet := by
  unfold seatAtEntry
  repeat' split
  all_goals simp

@[simp] theorem noticeAtEntry_frame (key : Nat) (st : ShowState) (s : State) :
    (noticeAtEntry key st s).phase = s.phase ∧
    (noticeAtEntry key st s).storeInvalid = s.storeInvalid ∧
    (noticeAtEntry key st s).shows = s.shows ∧
    (noticeAtEntry key st s).seat = s.seat ∧
    (noticeAtEntry key st s).board = s.board ∧
    (noticeAtEntry key st s).reel = s.reel ∧
    (noticeAtEntry key st s).chime = s.chime ∧
    (noticeAtEntry key st s).house = s.house ∧
    (noticeAtEntry key st s).policy = s.policy ∧
    (noticeAtEntry key st s).store = s.store ∧
    (noticeAtEntry key st s).pending = s.pending ∧
    (noticeAtEntry key st s).ports.quiet = s.ports.quiet ∧
    (noticeAtEntry key st s).link.steady = s.link.steady := by
  unfold noticeAtEntry
  repeat' split
  all_goals simp

@[simp] theorem enterState_frame (b : Bool) (key : Nat) (st : ShowState) (x : Option (StartedBy × Nat)) (s : State) :
    (enterState b key st x s).phase = s.phase ∧
    (enterState b key st x s).storeInvalid = s.storeInvalid ∧
    (enterState b key st x s).reel = s.reel ∧
    (enterState b key st x s).chime = s.chime ∧
    (enterState b key st x s).house = s.house ∧
    (enterState b key st x s).policy = s.policy ∧
    (enterState b key st x s).store = s.store ∧
    (enterState b key st x s).pending = s.pending ∧
    (enterState b key st x s).ports.quiet = s.ports.quiet ∧
    (enterState b key st x s).link.steady = s.link.steady := by
  unfold enterState
  split
  · simp
  · dsimp only
    split <;> simp

@[simp] theorem evalOnce_frame (b : Bool) (key : Nat) (s : State) :
    (evalOnce b key s).phase = s.phase ∧
    (evalOnce b key s).storeInvalid = s.storeInvalid ∧
    (evalOnce b key s).reel = s.reel ∧
    (evalOnce b key s).chime = s.chime ∧
    (evalOnce b key s).house = s.house ∧
    (evalOnce b key s).policy = s.policy ∧
    (evalOnce b key s).store = s.store ∧
    (evalOnce b key s).pending = s.pending ∧
    (evalOnce b key s).ports.quiet = s.ports.quiet ∧
    (evalOnce b key s).link.steady = s.link.steady := by
  unfold evalOnce
  repeat' split
  all_goals simp

@[simp] theorem evaluate_frame (b : Bool) (key : Nat) (s : State) :
    (evaluate b key s).phase = s.phase ∧
    (evaluate b key s).storeInvalid = s.storeInvalid ∧
    (evaluate b key s).reel = s.reel ∧
    (evaluate b key s).chime = s.chime ∧
    (evaluate b key s).house = s.house ∧
    (evaluate b key s).policy = s.policy ∧
    (evaluate b key s).store = s.store ∧
    (evaluate b key s).pending = s.pending ∧
    (evaluate b key s).ports.quiet = s.ports.quiet ∧
    (evaluate b key s).link.steady = s.link.steady := by
  simp [evaluate]

@[simp] theorem evaluateKeys_frame (b : Bool) (keys : List Nat) (s : State) :
    (evaluateKeys b keys s).phase = s.phase ∧
    (evaluateKeys b keys s).storeInvalid = s.storeInvalid ∧
    (evaluateKeys b keys s).reel = s.reel ∧
    (evaluateKeys b keys s).chime = s.chime ∧
    (evaluateKeys b keys s).house = s.house ∧
    (evaluateKeys b keys s).policy = s.policy ∧
    (evaluateKeys b keys s).store = s.store ∧
    (evaluateKeys b keys s).pending = s.pending ∧
    (evaluateKeys b keys s).ports.quiet = s.ports.quiet ∧
    (evaluateKeys b keys s).link.steady = s.link.steady := by
  exact ⟨foldl_keep (fun t : State => t.phase) _ (by intros; simp) _ _,
    foldl_keep (fun t : State => t.storeInvalid) _ (by intros; simp) _ _,
    foldl_keep (fun t : State => t.reel) _ (by intros; simp) _ _,
    foldl_keep (fun t : State => t.chime) _ (by intros; simp) _ _,
    foldl_keep (fun t : State => t.house) _ (by intros; simp) _ _,
    foldl_keep (fun t : State => t.policy) _ (by intros; simp) _ _,
    foldl_keep (fun t : State => t.store) _ (by intros; simp) _ _,
    foldl_keep (fun t : State => t.pending) _ (by intros; simp) _ _,
    foldl_keep (fun t : State => t.ports.quiet) _ (by intros; simp) _ _,
    foldl_keep (fun t : State => t.link.steady) _ (by intros; simp) _ _⟩

@[simp] theorem evaluateAll_frame (s : State) :
    (evaluateAll s).phase = s.phase ∧
    (evaluateAll s).storeInvalid = s.storeInvalid ∧
    (evaluateAll s).reel = s.reel ∧
    (evaluateAll s).chime = s.chime ∧
    (evaluateAll s).house = s.house ∧
    (evaluateAll s).policy = s.policy ∧
    (evaluateAll s).store = s.store ∧
    (evaluateAll s).pending = s.pending ∧
    (evaluateAll s).ports.quiet = s.ports.quiet ∧
    (evaluateAll s).link.steady = s.link.steady := by
  simp [evaluateAll]

@[simp] theorem startChanged_frame (key aud : Nat) (s : State) :
    (startChanged key aud s).phase = s.phase ∧
    (startChanged key aud s).storeInvalid = s.storeInvalid ∧
    (startChanged key aud s).reel = s.reel ∧
    (startChanged key aud s).chime = s.chime ∧
    (startChanged key aud s).house = s.house ∧
    (startChanged key aud s).policy = s.policy ∧
    (startChanged key aud s).store = s.store ∧
    (startChanged key aud s).pending = s.pending ∧
    (startChanged key aud s).ports.quiet = s.ports.quiet ∧
    (startChanged key aud s).link.steady = s.link.steady := by
  simp [startChanged]

@[simp] theorem arrival_frame (aud : Nat) (s : State) :
    (arrival aud s).phase = s.phase ∧
    (arrival aud s).storeInvalid = s.storeInvalid ∧
    (arrival aud s).reel = s.reel ∧
    (arrival aud s).chime = s.chime ∧
    (arrival aud s).house = s.house ∧
    (arrival aud s).policy = s.policy ∧
    (arrival aud s).store = s.store ∧
    (arrival aud s).pending = s.pending ∧
    (arrival aud s).ports.quiet = s.ports.quiet ∧
    (arrival aud s).link.steady = s.link.steady := by
  unfold arrival
  repeat' split
  all_goals simp

@[simp] theorem dropShow_frame (key : Nat) (s : State) :
    (dropShow key s).phase = s.phase ∧
    (dropShow key s).storeInvalid = s.storeInvalid ∧
    (dropShow key s).seat = s.seat ∧
    (dropShow key s).board = s.board ∧
    (dropShow key s).reel = s.reel ∧
    (dropShow key s).notice = s.notice ∧
    (dropShow key s).chime = s.chime ∧
    (dropShow key s).house = s.house ∧
    (dropShow key s).journal = s.journal ∧
    (dropShow key s).link = s.link ∧
    (dropShow key s).ports = s.ports ∧
    (dropShow key s).policy = s.policy ∧
    (dropShow key s).store = s.store ∧
    (dropShow key s).pending = s.pending := by
  simp [dropShow]

@[simp] theorem rollDay_frame (s : State) :
    (rollDay s).phase = s.phase ∧
    (rollDay s).storeInvalid = s.storeInvalid ∧
    (rollDay s).reel = s.reel ∧
    (rollDay s).chime = s.chime ∧
    (rollDay s).house = s.house ∧
    (rollDay s).policy = s.policy ∧
    (rollDay s).store = s.store ∧
    (rollDay s).pending = s.pending ∧
    (rollDay s).ports.quiet = s.ports.quiet ∧
    (rollDay s).link.steady = s.link.steady := by
  simp only [rollDay]
  split
  all_goals simp

@[simp] theorem clockSet_frame (s : State) :
    (clockSet s).phase = s.phase ∧
    (clockSet s).storeInvalid = s.storeInvalid ∧
    (clockSet s).reel = s.reel ∧
    (clockSet s).chime = s.chime ∧
    (clockSet s).house = s.house ∧
    (clockSet s).policy = s.policy ∧
    (clockSet s).store = s.store ∧
    (clockSet s).pending = s.pending ∧
    (clockSet s).ports.quiet = s.ports.quiet := by
  simp [clockSet]

@[simp] theorem setBeacon_steady (s : State) :
    s.setBeacon.link.steady = { s.link.steady with beaconPending := true } := rfl

@[simp] theorem boundaryAt_frame (r : MinReceiver) (s : State) :
    (boundaryAt r s).phase = s.phase ∧
    (boundaryAt r s).storeInvalid = s.storeInvalid ∧
    (boundaryAt r s).reel = s.reel ∧
    (boundaryAt r s).house = s.house ∧
    (boundaryAt r s).policy = s.policy ∧
    (boundaryAt r s).store = s.store ∧
    (boundaryAt r s).pending = s.pending ∧
    (boundaryAt r s).ports.quiet = s.ports.quiet := by
  cases r <;> simp [boundaryAt]

@[simp] theorem minuteBoundary_frame (order : List MinReceiver) (s : State) :
    (minuteBoundary order s).phase = s.phase ∧
    (minuteBoundary order s).storeInvalid = s.storeInvalid ∧
    (minuteBoundary order s).reel = s.reel ∧
    (minuteBoundary order s).house = s.house ∧
    (minuteBoundary order s).policy = s.policy ∧
    (minuteBoundary order s).store = s.store ∧
    (minuteBoundary order s).pending = s.pending ∧
    (minuteBoundary order s).ports.quiet = s.ports.quiet := by
  have h : ∀ (l : List MinReceiver) (t : State), (l.foldl (fun s r => boundaryAt r s) t).phase = t.phase ∧ (l.foldl (fun s r => boundaryAt r s) t).storeInvalid = t.storeInvalid ∧ (l.foldl (fun s r => boundaryAt r s) t).reel = t.reel ∧ (l.foldl (fun s r => boundaryAt r s) t).house = t.house ∧ (l.foldl (fun s r => boundaryAt r s) t).policy = t.policy ∧ (l.foldl (fun s r => boundaryAt r s) t).store = t.store ∧ (l.foldl (fun s r => boundaryAt r s) t).pending = t.pending ∧ (l.foldl (fun s r => boundaryAt r s) t).ports.quiet = t.ports.quiet := by
    intro l t
    exact ⟨foldl_keep (fun t : State => t.phase) _ (by intros; simp) _ _,
      foldl_keep (fun t : State => t.storeInvalid) _ (by intros; simp) _ _,
      foldl_keep (fun t : State => t.reel) _ (by intros; simp) _ _,
      foldl_keep (fun t : State => t.house) _ (by intros; simp) _ _,
      foldl_keep (fun t : State => t.policy) _ (by intros; simp) _ _,
      foldl_keep (fun t : State => t.store) _ (by intros; simp) _ _,
      foldl_keep (fun t : State => t.pending) _ (by intros; simp) _ _,
      foldl_keep (fun t : State => t.ports.quiet) _ (by intros; simp) _ _⟩
  simp only [minuteBoundary]
  split
  all_goals simp [h]

@[simp] theorem clockTick_frame (order : List MinReceiver) (s : State) :
    (clockTick order s).phase = s.phase ∧
    (clockTick order s).storeInvalid = s.storeInvalid ∧
    (clockTick order s).reel = s.reel ∧
    (clockTick order s).house = s.house ∧
    (clockTick order s).policy = s.policy ∧
    (clockTick order s).store = s.store ∧
    (clockTick order s).pending = s.pending ∧
    (clockTick order s).ports.quiet = s.ports.quiet := by
  unfold clockTick
  repeat' split
  all_goals simp

@[simp] theorem fileReel_frame (r : Nat) (s : State) :
    (fileReel r s).phase = s.phase ∧
    (fileReel r s).storeInvalid = s.storeInvalid ∧
    (fileReel r s).shows = s.shows ∧
    (fileReel r s).seat = s.seat ∧
    (fileReel r s).board = s.board ∧
    (fileReel r s).reel = s.reel ∧
    (fileReel r s).notice = s.notice ∧
    (fileReel r s).chime = s.chime ∧
    (fileReel r s).house = s.house ∧
    (fileReel r s).policy = s.policy ∧
    (fileReel r s).store = s.store ∧
    (fileReel r s).pending = s.pending ∧
    (fileReel r s).ports.quiet = s.ports.quiet ∧
    (fileReel r s).link.steady = s.link.steady := by
  simp [fileReel]

@[simp] theorem cueReel_frame (b : Bool) (r : Nat) (s : State) :
    (cueReel b r s).phase = s.phase ∧
    (cueReel b r s).storeInvalid = s.storeInvalid ∧
    (cueReel b r s).shows = s.shows ∧
    (cueReel b r s).seat = s.seat ∧
    (cueReel b r s).board = s.board ∧
    (cueReel b r s).notice = s.notice ∧
    (cueReel b r s).chime = s.chime ∧
    (cueReel b r s).house = s.house ∧
    (cueReel b r s).policy = s.policy ∧
    (cueReel b r s).store = s.store ∧
    (cueReel b r s).pending = s.pending ∧
    (cueReel b r s).ports.quiet = s.ports.quiet ∧
    (cueReel b r s).link.steady = s.link.steady := by
  simp [cueReel]

@[simp] theorem tickReel_frame (r : Nat) (s : State) :
    (tickReel r s).phase = s.phase ∧
    (tickReel r s).storeInvalid = s.storeInvalid ∧
    (tickReel r s).shows = s.shows ∧
    (tickReel r s).seat = s.seat ∧
    (tickReel r s).board = s.board ∧
    (tickReel r s).notice = s.notice ∧
    (tickReel r s).chime = s.chime ∧
    (tickReel r s).house = s.house ∧
    (tickReel r s).policy = s.policy ∧
    (tickReel r s).store = s.store ∧
    (tickReel r s).pending = s.pending ∧
    (tickReel r s).ports.quiet = s.ports.quiet ∧
    (tickReel r s).link.steady = s.link.steady := by
  unfold tickReel
  repeat' split
  all_goals simp

@[simp] theorem reelTick_frame (s : State) :
    (reelTick s).phase = s.phase ∧
    (reelTick s).storeInvalid = s.storeInvalid ∧
    (reelTick s).shows = s.shows ∧
    (reelTick s).seat = s.seat ∧
    (reelTick s).board = s.board ∧
    (reelTick s).notice = s.notice ∧
    (reelTick s).chime = s.chime ∧
    (reelTick s).house = s.house ∧
    (reelTick s).policy = s.policy ∧
    (reelTick s).store = s.store ∧
    (reelTick s).pending = s.pending ∧
    (reelTick s).ports.quiet = s.ports.quiet ∧
    (reelTick s).link.steady = s.link.steady := by
  unfold reelTick
  split
  · exact ⟨foldl_keep (fun t : State => t.phase) _ (by intros; simp) _ _,
      foldl_keep (fun t : State => t.storeInvalid) _ (by intros; simp) _ _,
      foldl_keep (fun t : State => t.shows) _ (by intros; simp) _ _,
      foldl_keep (fun t : State => t.seat) _ (by intros; simp) _ _,
      foldl_keep (fun t : State => t.board) _ (by intros; simp) _ _,
      foldl_keep (fun t : State => t.notice) _ (by intros; simp) _ _,
      foldl_keep (fun t : State => t.chime) _ (by intros; simp) _ _,
      foldl_keep (fun t : State => t.house) _ (by intros; simp) _ _,
      foldl_keep (fun t : State => t.policy) _ (by intros; simp) _ _,
      foldl_keep (fun t : State => t.store) _ (by intros; simp) _ _,
      foldl_keep (fun t : State => t.pending) _ (by intros; simp) _ _,
      foldl_keep (fun t : State => t.ports.quiet) _ (by intros; simp) _ _,
      foldl_keep (fun t : State => t.link.steady) _ (by intros; simp) _ _⟩
  · simp

@[simp] theorem holdReel_frame (r : Nat) (s : State) :
    (holdReel r s).phase = s.phase ∧
    (holdReel r s).storeInvalid = s.storeInvalid ∧
    (holdReel r s).shows = s.shows ∧
    (holdReel r s).seat = s.seat ∧
    (holdReel r s).board = s.board ∧
    (holdReel r s).notice = s.notice ∧
    (holdReel r s).chime = s.chime ∧
    (holdReel r s).house = s.house ∧
    (holdReel r s).policy = s.policy ∧
    (holdReel r s).store = s.store ∧
    (holdReel r s).pending = s.pending ∧
    (holdReel r s).ports.quiet = s.ports.quiet ∧
    (holdReel r s).link.steady = s.link.steady := by
  unfold holdReel
  repeat' split
  all_goals simp

@[simp] theorem holdReels_frame (s : State) :
    (holdReels s).phase = s.phase ∧
    (holdReels s).storeInvalid = s.storeInvalid ∧
    (holdReels s).shows = s.shows ∧
    (holdReels s).seat = s.seat ∧
    (holdReels s).board = s.board ∧
    (holdReels s).notice = s.notice ∧
    (holdReels s).chime = s.chime ∧
    (holdReels s).house = s.house ∧
    (holdReels s).policy = s.policy ∧
    (holdReels s).store = s.store ∧
    (holdReels s).pending = s.pending ∧
    (holdReels s).ports.quiet = s.ports.quiet ∧
    (holdReels s).link.steady = s.link.steady := by
  exact ⟨foldl_keep (fun t : State => t.phase) _ (by intros; simp) _ _,
    foldl_keep (fun t : State => t.storeInvalid) _ (by intros; simp) _ _,
    foldl_keep (fun t : State => t.shows) _ (by intros; simp) _ _,
    foldl_keep (fun t : State => t.seat) _ (by intros; simp) _ _,
    foldl_keep (fun t : State => t.board) _ (by intros; simp) _ _,
    foldl_keep (fun t : State => t.notice) _ (by intros; simp) _ _,
    foldl_keep (fun t : State => t.chime) _ (by intros; simp) _ _,
    foldl_keep (fun t : State => t.house) _ (by intros; simp) _ _,
    foldl_keep (fun t : State => t.policy) _ (by intros; simp) _ _,
    foldl_keep (fun t : State => t.store) _ (by intros; simp) _ _,
    foldl_keep (fun t : State => t.pending) _ (by intros; simp) _ _,
    foldl_keep (fun t : State => t.ports.quiet) _ (by intros; simp) _ _,
    foldl_keep (fun t : State => t.link.steady) _ (by intros; simp) _ _⟩

@[simp] theorem resumeReel_frame (r : Nat) (s : State) :
    (resumeReel r s).phase = s.phase ∧
    (resumeReel r s).storeInvalid = s.storeInvalid ∧
    (resumeReel r s).shows = s.shows ∧
    (resumeReel r s).seat = s.seat ∧
    (resumeReel r s).board = s.board ∧
    (resumeReel r s).notice = s.notice ∧
    (resumeReel r s).chime = s.chime ∧
    (resumeReel r s).house = s.house ∧
    (resumeReel r s).policy = s.policy ∧
    (resumeReel r s).store = s.store ∧
    (resumeReel r s).pending = s.pending ∧
    (resumeReel r s).ports.quiet = s.ports.quiet ∧
    (resumeReel r s).link.steady = s.link.steady := by
  unfold resumeReel
  repeat' split
  all_goals simp

@[simp] theorem resumeReels_frame (s : State) :
    (resumeReels s).phase = s.phase ∧
    (resumeReels s).storeInvalid = s.storeInvalid ∧
    (resumeReels s).shows = s.shows ∧
    (resumeReels s).seat = s.seat ∧
    (resumeReels s).board = s.board ∧
    (resumeReels s).notice = s.notice ∧
    (resumeReels s).chime = s.chime ∧
    (resumeReels s).house = s.house ∧
    (resumeReels s).policy = s.policy ∧
    (resumeReels s).store = s.store ∧
    (resumeReels s).pending = s.pending ∧
    (resumeReels s).ports.quiet = s.ports.quiet ∧
    (resumeReels s).link.steady = s.link.steady := by
  exact ⟨foldl_keep (fun t : State => t.phase) _ (by intros; simp) _ _,
    foldl_keep (fun t : State => t.storeInvalid) _ (by intros; simp) _ _,
    foldl_keep (fun t : State => t.shows) _ (by intros; simp) _ _,
    foldl_keep (fun t : State => t.seat) _ (by intros; simp) _ _,
    foldl_keep (fun t : State => t.board) _ (by intros; simp) _ _,
    foldl_keep (fun t : State => t.notice) _ (by intros; simp) _ _,
    foldl_keep (fun t : State => t.chime) _ (by intros; simp) _ _,
    foldl_keep (fun t : State => t.house) _ (by intros; simp) _ _,
    foldl_keep (fun t : State => t.policy) _ (by intros; simp) _ _,
    foldl_keep (fun t : State => t.store) _ (by intros; simp) _ _,
    foldl_keep (fun t : State => t.pending) _ (by intros; simp) _ _,
    foldl_keep (fun t : State => t.ports.quiet) _ (by intros; simp) _ _,
    foldl_keep (fun t : State => t.link.steady) _ (by intros; simp) _ _⟩

@[simp] theorem startUpReel_frame (r : Nat) (s : State) :
    (startUpReel r s).phase = s.phase ∧
    (startUpReel r s).storeInvalid = s.storeInvalid ∧
    (startUpReel r s).shows = s.shows ∧
    (startUpReel r s).seat = s.seat ∧
    (startUpReel r s).board = s.board ∧
    (startUpReel r s).notice = s.notice ∧
    (startUpReel r s).chime = s.chime ∧
    (startUpReel r s).house = s.house ∧
    (startUpReel r s).journal = s.journal ∧
    (startUpReel r s).link = s.link ∧
    (startUpReel r s).ports = s.ports ∧
    (startUpReel r s).policy = s.policy ∧
    (startUpReel r s).store = s.store ∧
    (startUpReel r s).pending = s.pending := by
  unfold startUpReel
  repeat' split
  all_goals simp

@[simp] theorem startUpReels_frame (s : State) :
    (startUpReels s).phase = s.phase ∧
    (startUpReels s).storeInvalid = s.storeInvalid ∧
    (startUpReels s).shows = s.shows ∧
    (startUpReels s).seat = s.seat ∧
    (startUpReels s).board = s.board ∧
    (startUpReels s).notice = s.notice ∧
    (startUpReels s).chime = s.chime ∧
    (startUpReels s).house = s.house ∧
    (startUpReels s).journal = s.journal ∧
    (startUpReels s).link = s.link ∧
    (startUpReels s).ports = s.ports ∧
    (startUpReels s).policy = s.policy ∧
    (startUpReels s).store = s.store ∧
    (startUpReels s).pending = s.pending := by
  exact ⟨foldl_keep (fun t : State => t.phase) _ (by intros; simp) _ _,
    foldl_keep (fun t : State => t.storeInvalid) _ (by intros; simp) _ _,
    foldl_keep (fun t : State => t.shows) _ (by intros; simp) _ _,
    foldl_keep (fun t : State => t.seat) _ (by intros; simp) _ _,
    foldl_keep (fun t : State => t.board) _ (by intros; simp) _ _,
    foldl_keep (fun t : State => t.notice) _ (by intros; simp) _ _,
    foldl_keep (fun t : State => t.chime) _ (by intros; simp) _ _,
    foldl_keep (fun t : State => t.house) _ (by intros; simp) _ _,
    foldl_keep (fun t : State => t.journal) _ (by intros; simp) _ _,
    foldl_keep (fun t : State => t.link) _ (by intros; simp) _ _,
    foldl_keep (fun t : State => t.ports) _ (by intros; simp) _ _,
    foldl_keep (fun t : State => t.policy) _ (by intros; simp) _ _,
    foldl_keep (fun t : State => t.store) _ (by intros; simp) _ _,
    foldl_keep (fun t : State => t.pending) _ (by intros; simp) _ _⟩

@[simp] theorem withLineState_frame (i : Nat) (x : LineState) (s : State) :
    (s.withLineState i x).phase = s.phase ∧
    (s.withLineState i x).storeInvalid = s.storeInvalid ∧
    (s.withLineState i x).shows = s.shows ∧
    (s.withLineState i x).seat = s.seat ∧
    (s.withLineState i x).board = s.board ∧
    (s.withLineState i x).reel = s.reel ∧
    (s.withLineState i x).notice = s.notice ∧
    (s.withLineState i x).chime = s.chime ∧
    (s.withLineState i x).journal = s.journal ∧
    (s.withLineState i x).link = s.link ∧
    (s.withLineState i x).ports = s.ports ∧
    (s.withLineState i x).policy = s.policy ∧
    (s.withLineState i x).store = s.store ∧
    (s.withLineState i x).pending = s.pending := by
  simp [State.withLineState]

@[simp] theorem withAlert_frame (a : AlertState) (s : State) :
    (s.withAlert a).phase = s.phase ∧
    (s.withAlert a).storeInvalid = s.storeInvalid ∧
    (s.withAlert a).shows = s.shows ∧
    (s.withAlert a).seat = s.seat ∧
    (s.withAlert a).board = s.board ∧
    (s.withAlert a).reel = s.reel ∧
    (s.withAlert a).notice = s.notice ∧
    (s.withAlert a).chime = s.chime ∧
    (s.withAlert a).journal = s.journal ∧
    (s.withAlert a).link = s.link ∧
    (s.withAlert a).ports = s.ports ∧
    (s.withAlert a).policy = s.policy ∧
    (s.withAlert a).store = s.store ∧
    (s.withAlert a).pending = s.pending := by
  simp [State.withAlert]

@[simp] theorem withAlertLine_frame (x : LineState) (s : State) :
    (s.withAlertLine x).phase = s.phase ∧
    (s.withAlertLine x).storeInvalid = s.storeInvalid ∧
    (s.withAlertLine x).shows = s.shows ∧
    (s.withAlertLine x).seat = s.seat ∧
    (s.withAlertLine x).board = s.board ∧
    (s.withAlertLine x).reel = s.reel ∧
    (s.withAlertLine x).notice = s.notice ∧
    (s.withAlertLine x).chime = s.chime ∧
    (s.withAlertLine x).journal = s.journal ∧
    (s.withAlertLine x).link = s.link ∧
    (s.withAlertLine x).ports = s.ports ∧
    (s.withAlertLine x).policy = s.policy ∧
    (s.withAlertLine x).store = s.store ∧
    (s.withAlertLine x).pending = s.pending := by
  simp [State.withAlertLine]

@[simp] theorem alertEntry_frame (s : State) :
    (alertEntry s).phase = s.phase ∧
    (alertEntry s).storeInvalid = s.storeInvalid ∧
    (alertEntry s).shows = s.shows ∧
    (alertEntry s).seat = s.seat ∧
    (alertEntry s).board = s.board ∧
    (alertEntry s).policy = s.policy ∧
    (alertEntry s).store = s.store ∧
    (alertEntry s).pending = s.pending ∧
    (alertEntry s).ports.quiet = s.ports.quiet ∧
    (alertEntry s).link.steady = s.link.steady := by
  simp [alertEntry]

@[simp] theorem alertReentry_frame (s : State) :
    (alertReentry s).phase = s.phase ∧
    (alertReentry s).storeInvalid = s.storeInvalid ∧
    (alertReentry s).shows = s.shows ∧
    (alertReentry s).seat = s.seat ∧
    (alertReentry s).board = s.board ∧
    (alertReentry s).reel = s.reel ∧
    (alertReentry s).notice = s.notice ∧
    (alertReentry s).journal = s.journal ∧
    (alertReentry s).link = s.link ∧
    (alertReentry s).policy = s.policy ∧
    (alertReentry s).store = s.store ∧
    (alertReentry s).pending = s.pending ∧
    (alertReentry s).ports.quiet = s.ports.quiet := by
  simp [alertReentry]

@[simp] theorem alertHold_frame (s : State) :
    (alertHold s).phase = s.phase ∧
    (alertHold s).storeInvalid = s.storeInvalid ∧
    (alertHold s).shows = s.shows ∧
    (alertHold s).seat = s.seat ∧
    (alertHold s).board = s.board ∧
    (alertHold s).reel = s.reel ∧
    (alertHold s).notice = s.notice ∧
    (alertHold s).chime = s.chime ∧
    (alertHold s).journal = s.journal ∧
    (alertHold s).link = s.link ∧
    (alertHold s).policy = s.policy ∧
    (alertHold s).store = s.store ∧
    (alertHold s).pending = s.pending ∧
    (alertHold s).ports.quiet = s.ports.quiet := by
  simp [alertHold]

@[simp] theorem alertReturn_frame (s : State) :
    (alertReturn s).phase = s.phase ∧
    (alertReturn s).storeInvalid = s.storeInvalid ∧
    (alertReturn s).shows = s.shows ∧
    (alertReturn s).seat = s.seat ∧
    (alertReturn s).board = s.board ∧
    (alertReturn s).chime = s.chime ∧
    (alertReturn s).policy = s.policy ∧
    (alertReturn s).store = s.store ∧
    (alertReturn s).pending = s.pending ∧
    (alertReturn s).ports.quiet = s.ports.quiet ∧
    (alertReturn s).link.steady = s.link.steady := by
  simp [alertReturn]

@[simp] theorem becomesActive_frame (s : State) :
    (becomesActive s).phase = s.phase ∧
    (becomesActive s).storeInvalid = s.storeInvalid ∧
    (becomesActive s).shows = s.shows ∧
    (becomesActive s).seat = s.seat ∧
    (becomesActive s).board = s.board ∧
    (becomesActive s).policy = s.policy ∧
    (becomesActive s).store = s.store ∧
    (becomesActive s).pending = s.pending ∧
    (becomesActive s).ports.quiet = s.ports.quiet ∧
    (becomesActive s).link.steady = s.link.steady := by
  unfold becomesActive
  repeat' split
  all_goals simp

@[simp] theorem becomesInactive_frame (s : State) :
    (becomesInactive s).phase = s.phase ∧
    (becomesInactive s).storeInvalid = s.storeInvalid ∧
    (becomesInactive s).shows = s.shows ∧
    (becomesInactive s).seat = s.seat ∧
    (becomesInactive s).board = s.board ∧
    (becomesInactive s).reel = s.reel ∧
    (becomesInactive s).notice = s.notice ∧
    (becomesInactive s).chime = s.chime ∧
    (becomesInactive s).journal = s.journal ∧
    (becomesInactive s).link = s.link ∧
    (becomesInactive s).policy = s.policy ∧
    (becomesInactive s).store = s.store ∧
    (becomesInactive s).pending = s.pending ∧
    (becomesInactive s).ports.quiet = s.ports.quiet := by
  unfold becomesInactive
  repeat' split
  all_goals simp

@[simp] theorem readingChanged_frame (b : Bool) (s : State) :
    (readingChanged b s).phase = s.phase ∧
    (readingChanged b s).storeInvalid = s.storeInvalid ∧
    (readingChanged b s).shows = s.shows ∧
    (readingChanged b s).seat = s.seat ∧
    (readingChanged b s).board = s.board ∧
    (readingChanged b s).policy = s.policy ∧
    (readingChanged b s).store = s.store ∧
    (readingChanged b s).pending = s.pending ∧
    (readingChanged b s).ports.quiet = s.ports.quiet ∧
    (readingChanged b s).link.steady = s.link.steady := by
  unfold readingChanged
  repeat' split
  all_goals simp

@[simp] theorem lineQualified_frame (i : Nat) (l : Level) (s : State) :
    (lineQualified i l s).phase = s.phase ∧
    (lineQualified i l s).storeInvalid = s.storeInvalid ∧
    (lineQualified i l s).reel = s.reel ∧
    (lineQualified i l s).chime = s.chime ∧
    (lineQualified i l s).house = s.house ∧
    (lineQualified i l s).policy = s.policy ∧
    (lineQualified i l s).store = s.store ∧
    (lineQualified i l s).pending = s.pending ∧
    (lineQualified i l s).ports.quiet = s.ports.quiet ∧
    (lineQualified i l s).link.steady = s.link.steady := by
  simp only [lineQualified]
  split
  all_goals simp

@[simp] theorem sampleLine_frame (i : Nat) (l : Level) (s : State) :
    (sampleLine i l s).phase = s.phase ∧
    (sampleLine i l s).storeInvalid = s.storeInvalid ∧
    (sampleLine i l s).reel = s.reel ∧
    (sampleLine i l s).chime = s.chime ∧
    (sampleLine i l s).policy = s.policy ∧
    (sampleLine i l s).store = s.store ∧
    (sampleLine i l s).pending = s.pending ∧
    (sampleLine i l s).ports.quiet = s.ports.quiet ∧
    (sampleLine i l s).link.steady = s.link.steady := by
  simp only [sampleLine]
  split
  all_goals simp

@[simp] theorem sampleAlert_frame (l : Level) (s : State) :
    (sampleAlert l s).phase = s.phase ∧
    (sampleAlert l s).storeInvalid = s.storeInvalid ∧
    (sampleAlert l s).shows = s.shows ∧
    (sampleAlert l s).seat = s.seat ∧
    (sampleAlert l s).board = s.board ∧
    (sampleAlert l s).policy = s.policy ∧
    (sampleAlert l s).store = s.store ∧
    (sampleAlert l s).pending = s.pending ∧
    (sampleAlert l s).ports.quiet = s.ports.quiet ∧
    (sampleAlert l s).link.steady = s.link.steady := by
  simp only [sampleAlert]
  split
  all_goals simp

@[simp] theorem sampleLines_frame (w : Word) (s : State) :
    (sampleLines w s).phase = s.phase ∧
    (sampleLines w s).storeInvalid = s.storeInvalid ∧
    (sampleLines w s).reel = s.reel ∧
    (sampleLines w s).chime = s.chime ∧
    (sampleLines w s).policy = s.policy ∧
    (sampleLines w s).store = s.store ∧
    (sampleLines w s).pending = s.pending ∧
    (sampleLines w s).ports.quiet = s.ports.quiet ∧
    (sampleLines w s).link.steady = s.link.steady := by
  exact ⟨foldl_keep (fun t : State => t.phase) _ (by intros; simp) _ _,
    foldl_keep (fun t : State => t.storeInvalid) _ (by intros; simp) _ _,
    foldl_keep (fun t : State => t.reel) _ (by intros; simp) _ _,
    foldl_keep (fun t : State => t.chime) _ (by intros; simp) _ _,
    foldl_keep (fun t : State => t.policy) _ (by intros; simp) _ _,
    foldl_keep (fun t : State => t.store) _ (by intros; simp) _ _,
    foldl_keep (fun t : State => t.pending) _ (by intros; simp) _ _,
    foldl_keep (fun t : State => t.ports.quiet) _ (by intros; simp) _ _,
    foldl_keep (fun t : State => t.link.steady) _ (by intros; simp) _ _⟩

@[simp] theorem grantTo_frame (a : Nat) (s : State) :
    (grantTo a s).phase = s.phase ∧
    (grantTo a s).storeInvalid = s.storeInvalid ∧
    (grantTo a s).shows = s.shows ∧
    (grantTo a s).seat = s.seat ∧
    (grantTo a s).board = s.board ∧
    (grantTo a s).reel = s.reel ∧
    (grantTo a s).notice = s.notice ∧
    (grantTo a s).chime = s.chime ∧
    (grantTo a s).house = s.house ∧
    (grantTo a s).journal = s.journal ∧
    (grantTo a s).ports = s.ports ∧
    (grantTo a s).policy = s.policy ∧
    (grantTo a s).store = s.store ∧
    (grantTo a s).pending = s.pending := by
  simp [grantTo]

@[simp] theorem applyAck_frame (a : Nat) (b : Bool) (r : PanelReply) (s : State) :
    (applyAck a b r s).phase = s.phase ∧
    (applyAck a b r s).storeInvalid = s.storeInvalid ∧
    (applyAck a b r s).shows = s.shows ∧
    (applyAck a b r s).seat = s.seat ∧
    (applyAck a b r s).board = s.board ∧
    (applyAck a b r s).reel = s.reel ∧
    (applyAck a b r s).notice = s.notice ∧
    (applyAck a b r s).chime = s.chime ∧
    (applyAck a b r s).house = s.house ∧
    (applyAck a b r s).journal = s.journal ∧
    (applyAck a b r s).policy = s.policy ∧
    (applyAck a b r s).store = s.store ∧
    (applyAck a b r s).pending = s.pending ∧
    (applyAck a b r s).ports.quiet = s.ports.quiet := by
  simp only [applyAck]
  repeat' split
  all_goals simp

@[simp] theorem applyFailure_frame (a : Nat) (f : Failure) (s : State) :
    (applyFailure a f s).phase = s.phase ∧
    (applyFailure a f s).storeInvalid = s.storeInvalid ∧
    (applyFailure a f s).shows = s.shows ∧
    (applyFailure a f s).seat = s.seat ∧
    (applyFailure a f s).board = s.board ∧
    (applyFailure a f s).reel = s.reel ∧
    (applyFailure a f s).notice = s.notice ∧
    (applyFailure a f s).chime = s.chime ∧
    (applyFailure a f s).house = s.house ∧
    (applyFailure a f s).journal = s.journal ∧
    (applyFailure a f s).policy = s.policy ∧
    (applyFailure a f s).store = s.store ∧
    (applyFailure a f s).pending = s.pending ∧
    (applyFailure a f s).ports.quiet = s.ports.quiet := by
  simp only [applyFailure]
  repeat' split
  all_goals simp

@[simp] theorem applyOutcome_frame (a : Nat) (b : Bool) (o : LinkOutcome) (s : State) :
    (applyOutcome a b o s).phase = s.phase ∧
    (applyOutcome a b o s).storeInvalid = s.storeInvalid ∧
    (applyOutcome a b o s).shows = s.shows ∧
    (applyOutcome a b o s).seat = s.seat ∧
    (applyOutcome a b o s).board = s.board ∧
    (applyOutcome a b o s).reel = s.reel ∧
    (applyOutcome a b o s).notice = s.notice ∧
    (applyOutcome a b o s).chime = s.chime ∧
    (applyOutcome a b o s).house = s.house ∧
    (applyOutcome a b o s).journal = s.journal ∧
    (applyOutcome a b o s).policy = s.policy ∧
    (applyOutcome a b o s).store = s.store ∧
    (applyOutcome a b o s).pending = s.pending ∧
    (applyOutcome a b o s).ports.quiet = s.ports.quiet := by
  unfold applyOutcome
  repeat' split
  all_goals simp

@[simp] theorem endTransaction_frame (t : Transaction) (o : LinkOutcome) (s : State) :
    (endTransaction t o s).phase = s.phase ∧
    (endTransaction t o s).storeInvalid = s.storeInvalid ∧
    (endTransaction t o s).shows = s.shows ∧
    (endTransaction t o s).seat = s.seat ∧
    (endTransaction t o s).board = s.board ∧
    (endTransaction t o s).reel = s.reel ∧
    (endTransaction t o s).notice = s.notice ∧
    (endTransaction t o s).chime = s.chime ∧
    (endTransaction t o s).house = s.house ∧
    (endTransaction t o s).journal = s.journal ∧
    (endTransaction t o s).policy = s.policy ∧
    (endTransaction t o s).store = s.store ∧
    (endTransaction t o s).pending = s.pending ∧
    (endTransaction t o s).ports.quiet = s.ports.quiet := by
  simp only [endTransaction]
  split
  all_goals simp

@[simp] theorem windowOut_frame (s : State) :
    (windowOut s).phase = s.phase ∧
    (windowOut s).storeInvalid = s.storeInvalid ∧
    (windowOut s).shows = s.shows ∧
    (windowOut s).seat = s.seat ∧
    (windowOut s).board = s.board ∧
    (windowOut s).reel = s.reel ∧
    (windowOut s).notice = s.notice ∧
    (windowOut s).chime = s.chime ∧
    (windowOut s).house = s.house ∧
    (windowOut s).journal = s.journal ∧
    (windowOut s).policy = s.policy ∧
    (windowOut s).store = s.store ∧
    (windowOut s).pending = s.pending ∧
    (windowOut s).ports.quiet = s.ports.quiet := by
  unfold windowOut
  repeat' split
  all_goals simp

@[simp] theorem linkTick_frame (s : State) :
    (linkTick s).phase = s.phase ∧
    (linkTick s).storeInvalid = s.storeInvalid ∧
    (linkTick s).shows = s.shows ∧
    (linkTick s).seat = s.seat ∧
    (linkTick s).board = s.board ∧
    (linkTick s).reel = s.reel ∧
    (linkTick s).notice = s.notice ∧
    (linkTick s).chime = s.chime ∧
    (linkTick s).house = s.house ∧
    (linkTick s).journal = s.journal ∧
    (linkTick s).policy = s.policy ∧
    (linkTick s).store = s.store ∧
    (linkTick s).pending = s.pending ∧
    (linkTick s).ports.quiet = s.ports.quiet := by
  unfold linkTick
  repeat' split
  all_goals simp

@[simp] theorem idleTick_frame (s : State) :
    (idleTick s).phase = s.phase ∧
    (idleTick s).storeInvalid = s.storeInvalid ∧
    (idleTick s).shows = s.shows ∧
    (idleTick s).seat = s.seat ∧
    (idleTick s).board = s.board ∧
    (idleTick s).reel = s.reel ∧
    (idleTick s).notice = s.notice ∧
    (idleTick s).chime = s.chime ∧
    (idleTick s).house = s.house ∧
    (idleTick s).journal = s.journal ∧
    (idleTick s).ports = s.ports ∧
    (idleTick s).policy = s.policy ∧
    (idleTick s).store = s.store ∧
    (idleTick s).pending = s.pending := by
  simp [idleTick]

@[simp] theorem putInExecution_frame (h : Hdr) (f : Frame) (s : State) :
    (putInExecution h f s).phase = s.phase ∧
    (putInExecution h f s).storeInvalid = s.storeInvalid ∧
    (putInExecution h f s).shows = s.shows ∧
    (putInExecution h f s).seat = s.seat ∧
    (putInExecution h f s).board = s.board ∧
    (putInExecution h f s).reel = s.reel ∧
    (putInExecution h f s).notice = s.notice ∧
    (putInExecution h f s).chime = s.chime ∧
    (putInExecution h f s).house = s.house ∧
    (putInExecution h f s).journal = s.journal ∧
    (putInExecution h f s).link = s.link ∧
    (putInExecution h f s).policy = s.policy ∧
    (putInExecution h f s).store = s.store ∧
    (putInExecution h f s).pending = s.pending := by
  unfold putInExecution
  repeat' split
  all_goals simp

@[simp] theorem finishRequest_frame (h : Hdr) (f : Frame) (r : Reply) (s : State) :
    (finishRequest h f r s).phase = s.phase ∧
    (finishRequest h f r s).storeInvalid = s.storeInvalid ∧
    (finishRequest h f r s).shows = s.shows ∧
    (finishRequest h f r s).seat = s.seat ∧
    (finishRequest h f r s).board = s.board ∧
    (finishRequest h f r s).reel = s.reel ∧
    (finishRequest h f r s).notice = s.notice ∧
    (finishRequest h f r s).chime = s.chime ∧
    (finishRequest h f r s).house = s.house ∧
    (finishRequest h f r s).journal = s.journal ∧
    (finishRequest h f r s).link = s.link ∧
    (finishRequest h f r s).policy = s.policy ∧
    (finishRequest h f r s).store = s.store ∧
    (finishRequest h f r s).pending = s.pending := by
  simp [finishRequest]

end Sys2Proof.Machine
end

