-- ==== Sys2Proof/Laws/Board.lean ====
section
/-! SUPPORT. What filing does to the journal, the ports and the panels, and what publication leaves in the images. -/

namespace Sys2Proof.Machine

/-! ### Filing -/

theorem file_journal (t : Target) (f : Form) (s : State) : (file t f s).journal = s.journal.filed t f := by
  unfold file
  simp only
  split <;> split <;> simp

@[simp] theorem filed_getLast (j : Journal) (t : Target) (f : Form) :
    (j.filed t f).entries.getLast? = some ⟨(j.filed t f).cur, t, f⟩ := by
  unfold Journal.filed
  split <;> simp [Journal.wrapped, Journal.append]

theorem raise_causeBit (p q : Port) (c : Cause) (n : Nat) (s : State) :
    causeBit q n (raise p c s) =
      (causeBit q n s || (decide (q = p) && decide (c.bit p = some n) && decide (n < 16))) := by
  unfold causeBit raise raisedWord
  rw [portAt_withPortAt]
  by_cases h : q = p
  · subst h
    simp only [if_true, decide_true, Bool.true_and]
    cases hb : c.bit q with
    | none => simp
    | some m =>
      simp only [setBit, Option.some.injEq]
      by_cases hm : m = n
      · subst hm; simp [BitVec.getLsbD_or, BitVec.getLsbD_shiftLeft]
      · simp [BitVec.getLsbD_or, BitVec.getLsbD_shiftLeft, BitVec.getLsbD_one, hm]
        intro h1 h2; omega
  · simp [h]

/-- No cause but REFRESH_FORCED is raised by a filing (R155). -/
theorem file_onlyForced (t : Target) (f : Form) (s : State) : OnlyForced s (file t f s) := by
  intro q n hq
  unfold file
  simp only
  have key : ∀ u : State, causeBit q n (raise .programme .refreshForced u) = causeBit q n u := by
    intro u
    rw [raise_causeBit]
    by_cases h : q = .programme
    · subst h
      have : n ≠ 4 := fun e => hq ⟨rfl, e⟩
      have : ¬ (Cause.bit .programme .refreshForced = some n) := by simp [Cause.bit]; omega
      simp [this]
    · simp [h]
  have l1 : ∀ u : State, causeBit q n (panelsAtWrap u) = causeBit q n u := fun _ => rfl
  have l2 : ∀ u : State, causeBit q n (handOff u) = causeBit q n u := fun _ => rfl
  split <;> split <;> simp only [l1, l2, key] <;> rfl

theorem OnlyForced.refl (s : State) : OnlyForced s s := fun _ _ _ => rfl
theorem OnlyForced.trans {s t u : State} (a : OnlyForced s t) (b : OnlyForced t u) : OnlyForced s u :=
  fun q n h => (b q n h).trans (a q n h)
theorem OnlyForced.of_ports {s t u : State} (h : t.ports = s.ports) (a : OnlyForced t u) : OnlyForced s u := by
  intro q n hq
  rw [a q n hq]
  simp [causeBit, portAt_eq, h]

/-- A cause that stands raised stays raised when another is raised (R197). -/
theorem raise_keeps (p q : Port) (c d : Cause) (s : State) (h : causeSet q d s = true) :
    causeSet q d (raise p c s) = true := by
  unfold causeSet at *
  cases hb : d.bit q with
  | none => simp [hb] at h
  | some n =>
    simp only [hb] at h ⊢
    have := raise_causeBit p q c n s
    unfold causeBit at this
    rw [this, h]
    rfl

theorem raise_sets (p : Port) (c : Cause) (s : State) (h : (c.bit p).isSome = true) :
    causeSet p c (raise p c s) = true := by
  unfold causeSet
  cases hb : c.bit p with
  | none => simp [hb] at h
  | some n =>
    have := raise_causeBit p p c n s
    unfold causeBit at this
    simp only
    rw [this]
    have hn : n < 16 := by cases p <;> cases c <;> simp_all [Cause.bit] <;> omega
    simp [hb, hn]

/-! ### Lines -/

/-- A line is computed from the Show Table alone. -/
theorem computeLine_congr {s t : State} (h : t.shows = s.shows) (k : Nat) : computeLine t k = computeLine s k := by
  have hf : ∀ j, t.findShow j = s.findShow j := by intro j; simp [State.findShow, h]
  unfold computeLine boardLineOf hintOf
  simp [hf, h]

theorem computeDoor_congr {s t : State} (h : t.shows = s.shows) (a : Nat) : computeDoor t a = computeDoor s a := by
  have hf : t.findShow = s.findShow := by funext j; simp [State.findShow, h]
  unfold computeDoor State.doorShow
  simp [hf, h]

theorem find_linesWithout (k j : Nat) (l : List BoardLine) :
    (linesWithout k l).find? (fun x => x.key == j) = if j = k then none else l.find? (fun x => x.key == j) := by
  induction l with
  | nil => simp [linesWithout]
  | cons x l ih =>
    unfold linesWithout at *
    rw [List.filter_cons]
    by_cases hx : x.key = k
    · subst hx
      simp only [bne_self_eq_false, Bool.false_eq_true, if_false, ih]
      by_cases hj : j = x.key
      · simp [hj]
      · rw [if_neg hj, if_neg hj, List.find?_cons]
        have : (x.key == j) = false := by simpa using fun e => hj e.symm
        simp [this]
    · have : (x.key != k) = true := by simpa using hx
      rw [if_pos this, List.find?_cons, List.find?_cons, ih]
      by_cases hj : j = k
      · subst hj
        have : (x.key == j) = false := by simpa using hx
        simp [this]
      · simp [hj]

theorem find_insertBy {b : BoardLine → BoardLine → Bool} (x : BoardLine) (j : Nat) (l : List BoardLine)
    (h : ∀ y ∈ l, y.key ≠ x.key) :
    (insertBy b x l).find? (fun y => y.key == j) = if j = x.key then some x else l.find? (fun y => y.key == j) := by
  induction l with
  | nil =>
    show List.find? _ [x] = _
    rw [List.find?_cons]
    by_cases hj : j = x.key
    · subst hj; simp
    · have : (x.key == j) = false := by simpa using fun e => hj e.symm
      simp [this, hj]
  | cons y l ih =>
    unfold insertBy
    have hy : y.key ≠ x.key := h y (by simp)
    have ih' := ih (fun z hz => h z (by simp [hz]))
    split
    · rw [List.find?_cons, ih', List.find?_cons]
      by_cases hj : j = x.key
      · subst hj
        have : (y.key == x.key) = false := by simpa using hy
        simp [this]
      · simp [hj]
    · rw [List.find?_cons]
      by_cases hj : j = x.key
      · subst hj; simp
      · have : (x.key == j) = false := by simpa using fun e => hj e.symm
        simp [this, hj]

theorem find_linesWith (x : BoardLine) (j : Nat) (l : List BoardLine) :
    (linesWith x l).find? (fun y => y.key == j) = if j = x.key then some x else l.find? (fun y => y.key == j) := by
  unfold linesWith
  rw [find_insertBy]
  · rw [find_linesWithout]
    split <;> simp_all
  · intro y hy
    unfold linesWithout at hy
    have := (List.mem_filter.mp hy).2
    simpa using this

theorem computeLine_key {s : State} {k : Nat} {l : BoardLine} (h : computeLine s k = some l) : l.key = k := by
  unfold computeLine at h
  split at h
  · rename_i sh hs
    split at h
    · cases h; exact findShow_key hs
    · cases h
  · cases h

/-- A recomputed line's image is the line computed; every other image stays (R84). -/
theorem publishLine_image (key k : Nat) (s : State) :
    (publishLine key s).lineImage k = if k = key then computeLine s key else s.lineImage k := by
  have hw : ∀ (t : Target) (f : Form) (l : List BoardLine),
      (file t f (s.withLines l)).lineImage k = l.find? (fun x => x.key == k) := by
    intro t f l
    unfold State.lineImage
    have := (file_frame t f (s.withLines l)).2.2.2.2.1
    rw [this]; rfl
  unfold publishLine
  split
  · rename_i h1 h2
    split
    · subst k; rw [h1, h2]
    · rfl
  · rename_i l h1 h2
    rw [hw, find_linesWith, computeLine_key h2, h2]; rfl
  · rename_i o l h1 h2
    split
    · split
      · subst k; rw [h1, h2]; simp_all
      · rfl
    · rw [hw, find_linesWith, computeLine_key h2, h2]; rfl
  · rename_i o h1 h2
    rw [hw, find_linesWithout, h2]; rfl

theorem publishLine_shows (key : Nat) (s : State) : (publishLine key s).shows = s.shows := by simp

theorem publishLines_image (keys : List Nat) (k : Nat) (s : State) :
    (publishLines keys s).lineImage k = if k ∈ keys then computeLine s k else s.lineImage k := by
  induction keys generalizing s with
  | nil => simp [publishLines]
  | cons x l ih =>
    have e : publishLines (x :: l) s = publishLines l (publishLine x s) := rfl
    rw [e, ih, publishLine_image, computeLine_congr (publishLine_shows x s)]
    by_cases h : k ∈ l
    · simp [h]
    · by_cases hx : k = x <;> simp [h, hx]

/-! ### Doors -/

/-- A recomputed door line's image is the line computed; every other image stays (R84). -/
theorem publishDoor_image (aud a : Nat) (s : State) (hl : s.board.doors.length = 16) (h1 : 1 ≤ aud) (h2 : aud ≤ 16)
    (ha : 1 ≤ a) : (publishDoor aud s).doorImage a = if a = aud then computeDoor s aud else s.doorImage a := by
  unfold publishDoor
  split
  · split <;> simp_all
  · unfold State.doorImage
    have := (file_frame (.door aud) .update
      (s.withBoard { s.board with doors := s.board.doors.set (aud - 1) (computeDoor s aud) })).2.2.2.2.1
    rw [this]
    simp only [withBoard_board]
    rw [List.getElem?_set]
    by_cases h : a = aud
    · subst h
      rw [if_pos rfl, if_pos (by omega)]; simp
    · rw [if_neg (by omega)]; simp [h]

theorem publishDoor_length (aud : Nat) (s : State) : (publishDoor aud s).board.doors.length = s.board.doors.length := by
  unfold publishDoor
  split
  · rfl
  · have := (file_frame (.door aud) .update
      (s.withBoard { s.board with doors := s.board.doors.set (aud - 1) (computeDoor s aud) })).2.2.2.2.1
    rw [this]; simp

theorem publishDoors_length (auds : List Nat) (s : State) :
    (publishDoors auds s).board.doors.length = s.board.doors.length := by
  induction auds generalizing s with
  | nil => rfl
  | cons x l ih => exact (ih (publishDoor x s)).trans (publishDoor_length x s)

theorem publishDoors_image (auds : List Nat) (a : Nat) (s : State) (hl : s.board.doors.length = 16)
    (hr : ∀ x ∈ auds, 1 ≤ x ∧ x ≤ 16) (ha : 1 ≤ a) :
    (publishDoors auds s).doorImage a = if a ∈ auds then computeDoor s a else s.doorImage a := by
  induction auds generalizing s with
  | nil => simp [publishDoors]
  | cons x l ih =>
    have e : publishDoors (x :: l) s = publishDoors l (publishDoor x s) := rfl
    have hx := hr x (by simp)
    have hs : (publishDoor x s).shows = s.shows := by simp
    rw [e, ih _ (by rw [publishDoor_length]; exact hl) (fun y hy => hr y (by simp [hy])),
      publishDoor_image x a s hl hx.1 hx.2 ha, computeDoor_congr hs]
    by_cases h : a ∈ l
    · simp [h]
    · by_cases hxa : a = x <;> simp [h, hxa]

/-! ### A filing changes nothing of the images but its own, publication of one block nothing of the other -/

theorem publishDoors_lines (auds : List Nat) (s : State) : (publishDoors auds s).board.lines = s.board.lines := by
  induction auds generalizing s with
  | nil => rfl
  | cons x l ih =>
    refine (ih (publishDoor x s)).trans ?_
    unfold publishDoor
    split
    · rfl
    · have := (file_frame (.door x) .update
        (s.withBoard { s.board with doors := s.board.doors.set (x - 1) (computeDoor s x) })).2.2.2.2.1
      rw [this]; rfl

theorem publishLine_doors (k : Nat) (s : State) : (publishLine k s).board.doors = s.board.doors := by
  have hw : ∀ (t : Target) (f : Form) (l : List BoardLine), (file t f (s.withLines l)).board.doors = s.board.doors := by
    intro t f l
    have := (file_frame t f (s.withLines l)).2.2.2.2.1
    rw [this]; rfl
  unfold publishLine
  split
  · rfl
  · exact hw _ _ _
  · split
    · rfl
    · exact hw _ _ _
  · exact hw _ _ _

theorem publishLines_doors (keys : List Nat) (s : State) : (publishLines keys s).board.doors = s.board.doors := by
  induction keys generalizing s with
  | nil => rfl
  | cons x l ih => exact (ih (publishLine x s)).trans (publishLine_doors x s)

/-- One show's event leaves the images of the lines it names as the Board Builder computes them (R41, R86). -/
theorem publishShow_lines (key k : Nat) (auds : List Nat) (s : State) :
    (publishShow key auds s).lineImage k =
      if k = key ∨ k ∈ siblingsOf s key then computeLine s k else s.lineImage k := by
  unfold publishShow
  have h1 : (publishDoors auds (publishLine key s)).shows = s.shows := by simp
  have h2 : ∀ u : State, (publishDoors auds u).lineImage k = u.lineImage k := by
    intro u; unfold State.lineImage; rw [publishDoors_lines]
  rw [publishLines_image, h2, publishLine_image, computeLine_congr h1]
  by_cases a : k ∈ siblingsOf s key
  · simp [a]
  · by_cases b : k = key <;> simp [a, b]

theorem publishShow_doors (key a : Nat) (auds : List Nat) (s : State) (hl : s.board.doors.length = 16)
    (hr : ∀ x ∈ auds, 1 ≤ x ∧ x ≤ 16) (ha : 1 ≤ a) :
    (publishShow key auds s).doorImage a = if a ∈ auds then computeDoor s a else s.doorImage a := by
  unfold publishShow
  have h2 : ∀ u : State, (publishLines (siblingsOf s key) u).doorImage a = u.doorImage a := by
    intro u; unfold State.doorImage; rw [publishLines_doors]
  have h3 : (publishLine key s).shows = s.shows := by simp
  rw [h2, publishDoors_image auds a _ (by rw [publishLine_doors]; exact hl) hr ha, computeDoor_congr h3]
  have : (publishLine key s).doorImage a = s.doorImage a := by unfold State.doorImage; rw [publishLine_doors]
  rw [this]

theorem mem_siblingsOf {s : State} {key : Nat} {sh : Show} (h : sh ∈ s.shows.shows) (hs : sh.sibling = some key) :
    sh.key ∈ siblingsOf s key := by
  unfold siblingsOf
  exact List.mem_map.mpr ⟨sh, List.mem_filter.mpr ⟨h, by simp [hs]⟩, rfl⟩

/-! ### What a filing does -/

theorem coalesce_entries (t : Target) (j : Journal) :
    (j.coalesce t).entries = j.entries.filter (fun e => decide (e.target ≠ t)) := by
  show j.entries.filter (fun e => e.target != t) = _
  congr 1
  funext e
  by_cases h : e.target = t <;> simp [h]

theorem file_takes (t : Target) (f : Form) (j : Journal) : JournalTakes t f j (j.filed t f) := by
  intro rest hr
  have hc : (j.coalesce t).entries = rest := by rw [hr, coalesce_entries]
  refine ⟨fun hj => ?_, fun hj => ?_⟩
  · have hn : ¬ Config.maxRevision ≤ j.cur := by simpa [Config.maxRevision] using hj
    simp only [Journal.filed, hn, if_false, Journal.append]
    refine ⟨fun hl => ?_, fun e l he hl => ?_⟩
    · unfold Journal.dropOldest
      rw [hc]
      split
      · rename_i e l
        have : ¬ Config.journalSize ≤ (e :: l).length := Nat.not_le.2 hl
        rw [if_neg this, hc]; rfl
      · rw [hc]; rfl
    · unfold Journal.dropOldest
      rw [hc, he]
      have : Config.journalSize ≤ (e :: l).length := by rw [← he]; exact hl
      simp only [if_pos this]
      rfl
  · have hn : Config.maxRevision ≤ j.cur := hj
    simp only [Journal.filed, hn, if_true]; rfl

theorem handOff_panel (j : Journal) (p : Panel) : PanelHandedOff j p (p.handOff j) := by
  rintro rf rfl
  have hr : ∀ x : Panel, x.restartBelow j.floor =
      { x with refresh := x.refresh.map (fun r => if r.snapshot < j.floor then { r with restart := true } else r) } := by
    intro x
    unfold Panel.restartBelow Panel.markRestart
    rcases x with ⟨a, b, c, d, e, f, _ | r, g, i, k, l⟩
    · rfl
    · by_cases hf : r.snapshot < j.floor <;> simp [hf]
  have hs : p.isServed = true ↔ p.state = .current ∨ p.state = .behind := by cases h : p.state <;> simp [Panel.isServed, h]
  unfold Panel.handOff
  rw [hr]
  refine ⟨fun h => ?_, fun h hb => ?_⟩
  · have : (p.isServed && p.batch.isNone) = false := by
      rw [← Bool.not_eq_true, Bool.and_eq_true, hs, Option.isNone_iff_eq_none]; exact h
    simp [this]
  · have hp : (p.isServed && p.batch.isNone) = true := by
      rw [Bool.and_eq_true, hs, Option.isNone_iff_eq_none]; exact ⟨h, hb⟩
    simp only [hp, if_true]
    unfold Panel.classify
    refine ⟨fun hf => ?_, fun hf => ⟨fun hx => ?_, fun hx => ?_⟩⟩
    · rcases h with h | h <;> simp [hf, Panel.toSyncing, h, hb]
    · have : j.second p.shown p.config = true := by
        unfold Journal.second; rw [List.any_eq_true]
        obtain ⟨e, he, h1, h2⟩ := hx
        exact ⟨e, he, by simp [h1, h2]⟩
      simp [Nat.not_lt.2 hf, this]
    · have : j.second p.shown p.config = false := by
        unfold Journal.second; rw [List.any_eq_false]
        intro e he
        by_cases h1 : p.shown < e.rev
        · simp [hx e he h1]
        · simp [h1]
      simp [Nat.not_lt.2 hf, this]

theorem panelAt_map (g : Panel → Panel) (s : State) (c : LinkCond) (a : Nat) (h : a - 1 < s.link.panels.length) :
    (s.withLink { s.link with panels := s.link.panels.map g, cond := c }).panelAt a = g (s.panelAt a) := by
  simp [State.panelAt, List.getElem?_eq_getElem h]

theorem panelAt_link {s u : State} (h : u.link = s.link) (a : Nat) : u.panelAt a = s.panelAt a := by
  unfold State.panelAt; rw [h]

theorem handOff_panelAt (u : State) (h : u.link.panels.length = 24) (a : Nat) (h1 : 1 ≤ a) (h2 : a ≤ 24) :
    (handOff u).panelAt a = (u.panelAt a).handOff u.journal :=
  panelAt_map (Panel.handOff u.journal) u u.link.cond a (by rw [h]; omega)

/-- The hand-off leaves the link's condition, and hands each panel on. -/
theorem handOff_told {s u : State} (hu : u.link = s.link) (h : s.link.panels.length = 24) :
    (handOff u).link.cond = s.link.cond ∧
    ∀ a, 1 ≤ a → a ≤ 24 → PanelHandedOff u.journal (s.panelAt a) ((handOff u).panelAt a) := by
  refine ⟨by simp [handOff, hu], fun a h1 h2 => ?_⟩
  rw [handOff_panelAt u (by rw [hu, h]) a h1 h2, panelAt_link hu]
  exact handOff_panel _ _

/-- The wrap takes the transaction's batch reference and wraps each panel. -/
theorem wrap_told {s u : State} (hu : u.link = s.link) (h : s.link.panels.length = 24) :
    (panelsAtWrap u).link.cond = s.link.cond.dropBatch ∧
    ∀ a, 1 ≤ a → a ≤ 24 → (panelsAtWrap u).panelAt a = (s.panelAt a).atWrap := by
  refine ⟨by simp [panelsAtWrap, hu], fun a h1 h2 => ?_⟩
  have e := panelAt_map Panel.atWrap u u.link.cond.dropBatch a (by rw [hu, h]; omega)
  unfold panelsAtWrap
  rw [e, panelAt_link hu]

theorem atWrap_wrapped (p : Panel) : PanelWrapped p p.atWrap := by
  unfold PanelWrapped Panel.atWrap
  cases p.state <;> simp

theorem handOff_atWrap (j : Journal) (p : Panel) : p.atWrap.handOff j = p.atWrap := by
  unfold Panel.handOff Panel.atWrap Panel.isServed Panel.restartBelow
  cases p.state <;> simp

theorem dropBatch_told (s : State) {c : LinkCond} (h : c = s.link.cond.dropBatch) :
    (∀ tr, s.link.cond = .transaction tr → c = .transaction { tr with hasBatch := false }) ∧
    ((∀ tr, s.link.cond ≠ .transaction tr) → c = s.link.cond) := by
  subst h
  refine ⟨fun tr ht => by rw [ht]; rfl, fun hn => ?_⟩
  cases hc : s.link.cond with
  | transaction tr => exact absurd hc (hn tr)
  | _ => rfl

theorem file_told (t : Target) (f : Form) (s : State) (h : s.link.panels.length = 24) : PanelsTold s (file t f s) := by
  have hl : (if s.journal.forces t then raise .programme .refreshForced (s.withJournal (s.journal.filed t f))
      else s.withJournal (s.journal.filed t f)).link = s.link := by split <;> simp
  have hj : (if s.journal.forces t then raise .programme .refreshForced (s.withJournal (s.journal.filed t f))
      else s.withJournal (s.journal.filed t f)).journal = s.journal.filed t f := by split <;> simp
  refine ⟨fun hc => ?_, fun hc => ?_⟩
  · have := handOff_told hl h
    rw [hj] at this
    rw [file_journal]
    have hw : ¬ Config.maxRevision ≤ s.journal.cur := Nat.not_le.2 hc
    unfold file
    simpa only [hw, decide_false, Bool.false_eq_true, if_false] using this
  · have hw : Config.maxRevision ≤ s.journal.cur := hc
    have e := wrap_told hl h
    have hf : file t f s = panelsAtWrap (if s.journal.forces t then
        raise .programme .refreshForced (s.withJournal (s.journal.filed t f)) else s.withJournal (s.journal.filed t f)) := by
      unfold file; simp only [hw, decide_true, if_true]
    rw [hf]
    exact ⟨(dropBatch_told s e.1).1, (dropBatch_told s e.1).2, fun a h1 h2 => e.2 a h1 h2 ▸ atWrap_wrapped _⟩

/-- REFRESH_FORCED at a filing (R155, R159). -/
theorem file_forced (t : Target) (f : Form) (s : State) :
    causeBit .programme 4 (file t f s) = (causeBit .programme 4 s ||
      decide (64 ≤ (s.journal.entries.filter (fun e => decide (e.target ≠ t))).length) || decide (65535 ≤ s.journal.cur)) := by
  have l0 : causeBit .programme 4 (s.withJournal (s.journal.filed t f)) = causeBit .programme 4 s := rfl
  have l1 : ∀ u : State, causeBit .programme 4 (panelsAtWrap u) = causeBit .programme 4 u := fun _ => rfl
  have l2 : ∀ u : State, causeBit .programme 4 (handOff u) = causeBit .programme 4 u := fun _ => rfl
  have hf : s.journal.forces t = (decide (64 ≤ (s.journal.entries.filter (fun e => decide (e.target ≠ t))).length) ||
      decide (65535 ≤ s.journal.cur)) := by
    unfold Journal.forces Journal.drops; rw [coalesce_entries]; rfl
  rw [Bool.or_assoc, ← hf]
  unfold file
  cases s.journal.forces t <;> dsimp only <;> split <;> simp [l0, l1, l2, raise_causeBit, Cause.bit]

/-- What a filing can do, whole (R155, R185, R186). -/
theorem file_taken (t : Target) (f : Form) (s : State) (h : s.link.panels.length = 24) : FilingTaken t f s (file t f s) := by
  refine ⟨file_journal t f s ▸ file_takes t f s.journal, file_forced t f s, file_told t f s h, file_onlyForced t f s,
    (file_frame t f s).2.2.2.2.2.2.2.2.2.2.2.2.1, ?_⟩
  unfold file handOff panelsAtWrap
  dsimp only
  split <;> split <;> rfl

/-- What Day Clear makes of the panels (R163, R185, R186). -/
theorem journalDayClear_told (s : State) (h : s.link.panels.length = 24) : PanelsTold s (journalDayClear s) := by
  refine ⟨fun hc => ?_, fun hc => ?_⟩
  · have hw : ¬ Config.maxRevision ≤ s.journal.cur := Nat.not_le.2 hc
    have := handOff_told (u := s.withJournal s.journal.dayCleared) (s := s) (by simp) h
    unfold journalDayClear
    simpa only [hw, decide_false, Bool.false_eq_true, if_false, handOff_frame] using this
  · have hw : Config.maxRevision ≤ s.journal.cur := hc
    have e := wrap_told (u := raise .programme .refreshForced (s.withJournal s.journal.dayCleared)) (s := s) (by simp) h
    have hp : (panelsAtWrap (raise .programme .refreshForced (s.withJournal s.journal.dayCleared))).link.panels.length = 24 := by
      simp [panelsAtWrap, h]
    have o := handOff_told (rfl : (panelsAtWrap (raise .programme .refreshForced
      (s.withJournal s.journal.dayCleared))).link = _) hp
    have hd : journalDayClear s =
        handOff (panelsAtWrap (raise .programme .refreshForced (s.withJournal s.journal.dayCleared))) := by
      unfold journalDayClear; simp only [hw, decide_true, if_true]
    have hc := dropBatch_told s (o.1.trans e.1)
    rw [hd]
    refine ⟨hc.1, hc.2, fun a h1 h2 => ?_⟩
    rw [handOff_panelAt _ hp a h1 h2, e.2 a h1 h2, handOff_atWrap]
    exact atWrap_wrapped _

end Sys2Proof.Machine
end

