-- ==== Sys2Proof/Laws/PerInstr.lean ====
section
/-! SUPPORT. One lemma per command: a request's kind is one of the tables of section 10.3. -/

namespace Sys2Proof.Laws.RequestBody

open Sys2Proof.Machine

/-- A command that carries a request has a kind of section 10.3; an event carries none. -/
def Statement (i : Instr) : Prop :=
  match requestBody i with
  | some (_, k, _) => standing k ≠ .unknown ∧ k < 256
  | none => True

theorem hardReset : Statement .hardReset := trivial

theorem startUp (lines : Word) (imageHolds : Bool) :
    Statement (.startUp lines imageHolds) := trivial

theorem startUpAlertFound (level : Level) :
    Statement (.startUpAlertFound level) := trivial

theorem tick1ms (lines : Word) (alert : Level) (order : List MsReceiver) :
    Statement (.tick1ms lines alert order) := trivial

theorem tick1s (order : List SecReceiver) (minute : List MinReceiver) :
    Statement (.tick1s order minute) := trivial

theorem minuteBoundary (order : List MinReceiver) :
    Statement (.minuteBoundary order) := trivial

theorem holdExpiry (slot : Nat) :
    Statement (.holdExpiry slot) := trivial

theorem reelItemEnd (reel : Nat) :
    Statement (.reelItemEnd reel) := trivial

theorem startLineQualified (line : Nat) :
    Statement (.startLineQualified line) := trivial

theorem alertLineActive : Statement .alertLineActive := trivial

theorem alertLineInactive : Statement .alertLineInactive := trivial

theorem chimeNoteEnd : Statement .chimeNoteEnd := trivial

theorem noticeExpiry : Statement .noticeExpiry := trivial

theorem noticeInterval : Statement .noticeInterval := trivial

theorem frameGapTimeout (port : Port) :
    Statement (.frameGapTimeout port) := trivial

theorem requestFrame (port : Port) (bytes : List Byte) :
    Statement (.requestFrame port bytes) := trivial

theorem answerSent (port : Port) :
    Statement (.answerSent port) := trivial

theorem panelPollDue (addr : Nat) :
    Statement (.panelPollDue addr) := trivial

theorem panelProbeDue (addr : Nat) :
    Statement (.panelProbeDue addr) := trivial

theorem panelGrant : Statement .panelGrant := trivial

theorem beaconSend : Statement .beaconSend := trivial

theorem beaconEnd : Statement .beaconEnd := trivial

theorem panelFrameSent : Statement .panelFrameSent := trivial

theorem panelAnswer (bytes : List Byte) :
    Statement (.panelAnswer bytes) := trivial

theorem responseTimeout : Statement .responseTimeout := trivial

theorem storeEraseDone : Statement .storeEraseDone := trivial

theorem storeWriteDone : Statement .storeWriteDone := trivial

theorem storeCheckDone (holds : Bool) :
    Statement (.storeCheckDone holds) := trivial

theorem storeFault : Statement .storeFault := trivial

theorem holdSeats (h : Hdr) (key zone count : Nat) :
    Statement (.holdSeats h key zone count) := ⟨by decide, by decide⟩

theorem confirmHold (h : Hdr) (slot gen : Nat) :
    Statement (.confirmHold h slot gen) := ⟨by decide, by decide⟩

theorem releaseHold (h : Hdr) (slot gen : Nat) :
    Statement (.releaseHold h slot gen) := ⟨by decide, by decide⟩

theorem extendHold (h : Hdr) (slot gen : Nat) :
    Statement (.extendHold h slot gen) := ⟨by decide, by decide⟩

theorem queryHold (h : Hdr) (slot gen : Nat) :
    Statement (.queryHold h slot gen) := ⟨by decide, by decide⟩

theorem sellNow (h : Hdr) (key zone count : Nat) :
    Statement (.sellNow h key zone count) := ⟨by decide, by decide⟩

theorem refundSeats (h : Hdr) (key zone count : Nat) :
    Statement (.refundSeats h key zone count) := ⟨by decide, by decide⟩

theorem queryShow (h : Hdr) (key : Nat) :
    Statement (.queryShow h key) := ⟨by decide, by decide⟩

theorem listShows (h : Hdr) (day start : Nat) :
    Statement (.listShows h day start) := ⟨by decide, by decide⟩

theorem postNotice (h : Hdr) (cls prio : Nat) (scope : ScopeArg) (text : List Byte) (life : LifeArg) (key minutes : Option Nat) :
    Statement (.postNotice h cls prio scope text life key minutes) := ⟨by decide, by decide⟩

theorem withdrawNotice (h : Hdr) (slot gen : Nat) :
    Statement (.withdrawNotice h slot gen) := ⟨by decide, by decide⟩

theorem readNotices (h : Hdr) :
    Statement (.readNotices h) := ⟨by decide, by decide⟩

theorem readAlert (h : Hdr) :
    Statement (.readAlert h) := ⟨by decide, by decide⟩

theorem readCauses (h : Hdr) :
    Statement (.readCauses h) := ⟨by decide, by decide⟩

theorem setCauseMask (h : Hdr) (mask : Nat) :
    Statement (.setCauseMask h mask) := ⟨by decide, by decide⟩

theorem readPortStatus (h : Hdr) (selector : Nat) (clear : Bool) :
    Statement (.readPortStatus h selector clear) := ⟨by decide, by decide⟩

theorem loadShow (h : Hdr) (key day aud title start run delay : Nat) (caps : Nat × Nat × Nat) (hidden : Bool) (sibling : Option Nat) (sold withheld : Option Nat × Option Nat × Option Nat) (openNow : Bool) :
    Statement (.loadShow h key day aud title start run delay caps hidden sibling sold withheld openNow) := ⟨by decide, by decide⟩

theorem amendShow (h : Hdr) (key : Nat) (start run aud title : Option Nat) (sibling : Option (Option Nat)) (hidden : Option Bool) :
    Statement (.amendShow h key start run aud title sibling hidden) := ⟨by decide, by decide⟩

theorem openSales (h : Hdr) (key : Nat) :
    Statement (.openSales h key) := ⟨by decide, by decide⟩

theorem cancelShow (h : Hdr) (key : Nat) :
    Statement (.cancelShow h key) := ⟨by decide, by decide⟩

theorem removeShow (h : Hdr) (key : Nat) :
    Statement (.removeShow h key) := ⟨by decide, by decide⟩

theorem readShow (h : Hdr) (key : Nat) :
    Statement (.readShow h key) := ⟨by decide, by decide⟩

theorem defineTitle (h : Hdr) (index : Nat) (text : List Byte) (rating : Nat) :
    Statement (.defineTitle h index text rating) := ⟨by decide, by decide⟩

theorem rollDay (h : Hdr) :
    Statement (.rollDay h) := ⟨by decide, by decide⟩

theorem dayClear (h : Hdr) :
    Statement (.dayClear h) := ⟨by decide, by decide⟩

theorem setPoolSplit (h : Hdr) (value : Nat) :
    Statement (.setPoolSplit h value) := ⟨by decide, by decide⟩

theorem readPool (h : Hdr) :
    Statement (.readPool h) := ⟨by decide, by decide⟩

theorem setCapacity (h : Hdr) (key zone value : Nat) :
    Statement (.setCapacity h key zone value) := ⟨by decide, by decide⟩

theorem withhold (h : Hdr) (key zone n : Nat) :
    Statement (.withhold h key zone n) := ⟨by decide, by decide⟩

theorem unwithhold (h : Hdr) (key zone n : Nat) :
    Statement (.unwithhold h key zone n) := ⟨by decide, by decide⟩

theorem readSeatStatus (h : Hdr) (clear : Bool) :
    Statement (.readSeatStatus h clear) := ⟨by decide, by decide⟩

theorem readHold (h : Hdr) (slot : Nat) :
    Statement (.readHold h slot) := ⟨by decide, by decide⟩

theorem readBoard (h : Hdr) (start : Nat) :
    Statement (.readBoard h start) := ⟨by decide, by decide⟩

theorem readDoor (h : Hdr) (aud : Nat) :
    Statement (.readDoor h aud) := ⟨by decide, by decide⟩

theorem defineSpot (h : Hdr) (key media duration : Nat) (title : Option Nat) :
    Statement (.defineSpot h key media duration title) := ⟨by decide, by decide⟩

theorem removeSpot (h : Hdr) (key : Nat) :
    Statement (.removeSpot h key) := ⟨by decide, by decide⟩

theorem buildReel (h : Hdr) (reel : Nat) (items : List (Nat × Nat)) (step : Nat) :
    Statement (.buildReel h reel items step) := ⟨by decide, by decide⟩

theorem clearReel (h : Hdr) (reel : Nat) :
    Statement (.clearReel h reel) := ⟨by decide, by decide⟩

theorem stopReel (h : Hdr) (reel : Nat) :
    Statement (.stopReel h reel) := ⟨by decide, by decide⟩

theorem startReel (h : Hdr) (reel : Nat) :
    Statement (.startReel h reel) := ⟨by decide, by decide⟩

theorem readSpot (h : Hdr) (key : Nat) :
    Statement (.readSpot h key) := ⟨by decide, by decide⟩

theorem readReel (h : Hdr) (reel : Nat) :
    Statement (.readReel h reel) := ⟨by decide, by decide⟩

theorem setChimePattern (h : Hdr) (pattern : Nat) (notes : List (Nat × Nat)) :
    Statement (.setChimePattern h pattern notes) := ⟨by decide, by decide⟩

theorem readChime (h : Hdr) :
    Statement (.readChime h) := ⟨by decide, by decide⟩

theorem setStartLine (h : Hdr) (line aud edge debounce : Nat) :
    Statement (.setStartLine h line aud edge debounce) := ⟨by decide, by decide⟩

theorem setAlertLine (h : Hdr) (polarity debounce : Nat) :
    Statement (.setAlertLine h polarity debounce) := ⟨by decide, by decide⟩

theorem clearAlert (h : Hdr) :
    Statement (.clearAlert h) := ⟨by decide, by decide⟩

theorem readHouseLines (h : Hdr) :
    Statement (.readHouseLines h) := ⟨by decide, by decide⟩

theorem readJournal (h : Hdr) (start : Nat) :
    Statement (.readJournal h start) := ⟨by decide, by decide⟩

theorem setPanel (h : Hdr) (addr : Nat) (present : Bool) (view : ViewArg) (group : Nat) :
    Statement (.setPanel h addr present view group) := ⟨by decide, by decide⟩

theorem linkReset (h : Hdr) :
    Statement (.linkReset h) := ⟨by decide, by decide⟩

theorem readPanel (h : Hdr) (addr : Nat) (clear : Bool) :
    Statement (.readPanel h addr clear) := ⟨by decide, by decide⟩

theorem setPolicy (h : Hdr) (settings : List (Nat × Nat)) :
    Statement (.setPolicy h settings) := ⟨by decide, by decide⟩

theorem readPolicy (h : Hdr) :
    Statement (.readPolicy h) := ⟨by decide, by decide⟩

theorem setClock (h : Hdr) (minute second : Nat) :
    Statement (.setClock h minute second) := ⟨by decide, by decide⟩

theorem readClock (h : Hdr) :
    Statement (.readClock h) := ⟨by decide, by decide⟩

theorem saveSetup (h : Hdr) :
    Statement (.saveSetup h) := ⟨by decide, by decide⟩

theorem portByteReceived (port : Port) (byte : Byte) (stopLow : Bool) :
    Statement (.portByteReceived port byte stopLow) := trivial

theorem panelAnswerStart : Statement .panelAnswerStart := trivial

end Sys2Proof.Laws.RequestBody
end

