-- ==== Sys2Proof/Laws/Requests.lean ====
section
/-! SUPPORT. What taking a request does, said once: the owning block's event on the state with the request in execution,
then its answer on the port. -/

namespace Sys2Proof.Machine

/-- Two states with equal blocks are equal. -/
theorem state_eq {s t : State} (h1 : t.phase = s.phase) (h2 : t.storeInvalid = s.storeInvalid) (h3 : t.shows = s.shows)
    (h4 : t.seat = s.seat) (h5 : t.board = s.board) (h6 : t.reel = s.reel) (h7 : t.notice = s.notice)
    (h8 : t.chime = s.chime) (h9 : t.house = s.house) (h10 : t.journal = s.journal) (h11 : t.link = s.link)
    (h12 : t.ports = s.ports) (h13 : t.policy = s.policy) (h14 : t.store = s.store) (h15 : t.pending = s.pending) :
    t = s := by
  cases s; cases t; simp_all

/-! ### The answer on the port -/

/-- What answering leaves of a port: all but the request buffer and the answer list. -/
theorem finish_keeps (a : Answer) (x : PortState) :
    (x.finish a).receiver = x.receiver ∧ (x.finish a).mask = x.mask ∧ (x.finish a).frameErrors = x.frameErrors ∧
    (x.finish a).busy = x.busy ∧ (x.finish a).unanswered = x.unanswered ∧ (x.finish a).causes = x.causes := by
  unfold PortState.finish PortState.promote PortState.answer
  split <;> split <;> simp_all

theorem settle_keeps (p : Port) (n : Nat) (x : PortState) :
    (x.settle p n).receiver = x.receiver ∧ (x.settle p n).mask = x.mask ∧
    (x.settle p n).frameErrors = x.frameErrors ∧ (x.settle p n).busy = x.busy ∧
    (x.settle p n).unanswered = x.unanswered ∧ (x.settle p n).causes = x.causes := by
  induction n generalizing x with
  | zero => simp [PortState.settle]
  | succ n ih =>
    unfold PortState.settle
    split
    · split
      · have h1 := ih (x.finish (echo ‹_› (refuse ‹_›)))
        have h2 := finish_keeps (echo ‹_› (refuse ‹_›)) x
        simp_all
      · simp
    · simp

/-- An answer is on the port once it is made: on its list, or waiting for a place with no request in execution. -/
def PortState.has (a : Answer) (x : PortState) : Prop := a ∈ x.answers ∨ (x.held = some a ∧ x.execution = none)

theorem finish_has (a : Answer) (x : PortState) : (x.finish a).has a := by
  unfold PortState.finish PortState.answer
  by_cases h : x.answers.length < Config.answerPlaces
  · left
    simp only [h, if_true]
    unfold PortState.promote
    split <;> simp
  · right
    simp only [h, if_false]
    unfold PortState.promote
    split <;> simp_all

theorem finish_keeps_answer (a b : Answer) (x : PortState) (h : a ∈ x.answers) : a ∈ (x.finish b).answers := by
  unfold PortState.finish PortState.answer PortState.promote
  split <;> split <;> simp_all

theorem settle_has (p : Port) (n : Nat) (a : Answer) (x : PortState) (h : x.has a) : (x.settle p n).has a := by
  induction n generalizing x with
  | zero => simpa [PortState.settle] using h
  | succ n ih =>
    unfold PortState.settle
    split
    · split
      · apply ih
        rcases h with h | ⟨_, h⟩
        · exact Or.inl (finish_keeps_answer _ _ _ h)
        · simp_all
      · exact h
    · exact h

/-! ### Taking a request -/

/-- The port of a request once the request stands in execution. -/
theorem putInExecution_port (h : Hdr) (f : Frame) (s : State) :
    (∀ q, q ≠ h.port → (putInExecution h f s).portAt q = s.portAt q) ∧
    (∃ e, (putInExecution h f s).portAt h.port = { s.portAt h.port with execution := some e }) := by
  unfold putInExecution
  split
  · rename_i e he
    exact ⟨fun _ _ => rfl, ⟨e, by rw [← he]⟩⟩
  · refine ⟨fun q hq => ?_, ⟨f, ?_⟩⟩ <;> rw [portAt_withPortAt] <;> simp_all

/-- `t` is what a request leaves, `u` what its owning block left: the port alone differs, by the answer `r`. -/
structure Finished (h : Hdr) (kind : Nat) (r : Reply) (u t : State) : Prop where
  blocks : t = { u with ports := t.ports }
  others : ∀ q, q ≠ h.port → t.portAt q = u.portAt q
  own : ∀ x, x = u.portAt h.port → ∀ y, y = t.portAt h.port →
    y.receiver = x.receiver ∧ y.mask = x.mask ∧ y.frameErrors = x.frameErrors ∧ y.busy = x.busy ∧
    y.unanswered = x.unanswered ∧ y.causes = x.causes
  answered : Answered h kind r t

theorem finishRequest_finished (h : Hdr) (kind : Nat) (body : List Byte) (r : Reply) (u : State) :
    Finished h kind r u (finishRequest h (requestFrameOf h kind body) r u) where
  blocks := rfl
  others := by
    intro q hq
    unfold finishRequest
    rw [portAt_withPortAt]
    simp [hq]
  own := by
    intro x hx y hy
    subst hx hy
    unfold finishRequest PortState.settled
    rw [portAt_withPortAt]
    simp only [if_true]
    have h1 := settle_keeps h.port
      ((u.portAt h.port).finish (echo (requestFrameOf h kind body) r)).waiting.length.succ
      ((u.portAt h.port).finish (echo (requestFrameOf h kind body) r))
    have h2 := finish_keeps (echo (requestFrameOf h kind body) r) (u.portAt h.port)
    simp_all
  answered := by
    unfold finishRequest Answered PortState.settled
    rw [portAt_withPortAt]
    simp only [if_true]
    have h1 := settle_has h.port
      (((u.portAt h.port).finish (echo (requestFrameOf h kind body) r)).waiting.length + 1) _ _
      (finish_has (echo (requestFrameOf h kind body) r) (u.portAt h.port))
    exact h1.imp id And.left

/-- The state a request in its turn finds: the request in execution on its port, all else as it was. -/
structure Seated (h : Hdr) (s s1 : State) : Prop where
  blocks : s1 = { s with ports := s1.ports }
  others : ∀ q, q ≠ h.port → s1.portAt q = s.portAt q
  own : ∃ e, s1.portAt h.port = { s.portAt h.port with execution := some e }

theorem putInExecution_seated (h : Hdr) (f : Frame) (s : State) : Seated h s (putInExecution h f s) where
  blocks := by unfold putInExecution; split <;> rfl
  others := (putInExecution_port h f s).1
  own := (putInExecution_port h f s).2

/-- A request in its turn is taken by its owning block, and answered. -/
theorem request_taken {c : Instr} {h : Hdr} {k : Nat} {b : List Byte} {s : State} (owner : Owner)
    (hb : requestBody c = some (h, k, b)) (hr : Ready c s = true) :
    ∃ s1 t, Seated h s s1 ∧ request c owner s = .next t ∧ Finished h k (owner s1).2 (owner s1).1 t := by
  unfold Ready at hr
  rw [hb] at hr
  simp only [Bool.and_eq_true, beq_iff_eq] at hr
  obtain ⟨⟨hp, hh⟩, ht⟩ := hr
  have hn : headerRefusal h k = none := by simpa using hh
  refine ⟨putInExecution h (requestFrameOf h k b) s, _, putInExecution_seated _ _ _, rfl, ?_⟩
  unfold takeRequest
  rw [hb]
  simp only [hp, ht, and_self, if_true]
  rw [hn]
  exact finishRequest_finished h k b _ _

/-- The causes of every port are those the owning block left. -/
theorem Finished.causes {h : Hdr} {k : Nat} {r : Reply} {u t : State} (f : Finished h k r u t) (q : Port) :
    (t.portAt q).causes = (u.portAt q).causes := by
  by_cases hq : q = h.port
  · subst hq; exact (f.own _ rfl _ rfl).2.2.2.2.2
  · rw [f.others q hq]

theorem Seated.causes {h : Hdr} {s s1 : State} (f : Seated h s s1) (q : Port) :
    (s1.portAt q).causes = (s.portAt q).causes := by
  by_cases hq : q = h.port
  · subst hq; obtain ⟨e, he⟩ := f.own; rw [he]
  · rw [f.others q hq]

/-- The owning block kept the ports but for causes, so the request keeps all but its port's buffer and causes. -/
theorem buffersKept_of {h : Hdr} {k : Nat} {r : Reply} {s s1 u t : State} (a : Seated h s s1)
    (f : Finished h k r u t) (hq : u.ports.quiet = s1.ports.quiet) : BuffersKept h.port s t := by
  have hu : ∀ q, (u.portAt q).quiet = (s1.portAt q).quiet := by
    intro q
    have e := congrArg (fun z : Ports => z.at_ q) hq
    cases q <;> simpa [Ports.quiet, Ports.at_, portAt_eq] using e
  refine ⟨fun q hne => ?_, ?_⟩
  · rw [f.others q hne, hu q, a.others q hne]
  · obtain ⟨e, he⟩ := a.own
    have h1 := f.own _ rfl _ rfl
    have h2 := hu h.port
    rw [he] at h2
    simp only [PortState.quiet, PortState.mk.injEq] at h2
    simp_all

/-- A refusal that changes nothing. -/
theorem refuses_of {c : Instr} {h : Hdr} {k : Nat} {b : List Byte} {s : State} {code : Result} (owner : Owner)
    (he : exec c s = request c owner s) (hb : requestBody c = some (h, k, b)) (hr : Ready c s = true)
    (ho : ∀ s1, Seated h s s1 → owner s1 = (s1, refuse code)) : Refuses c s h k code := by
  obtain ⟨s1, t, a, ht, f⟩ := request_taken owner hb hr
  rw [ho s1 a] at f
  refine ⟨t, ⟨he.trans ht, f.answered⟩, ?_, buffersKept_of a f rfl, fun q => (f.causes q).trans (a.causes q)⟩
  rw [f.blocks, a.blocks]

/-- A request that only reads. -/
theorem reads_of {c : Instr} {h : Hdr} {k : Nat} {b : List Byte} {s : State} {body : List Byte} (owner : Owner)
    (he : exec c s = request c owner s) (hb : requestBody c = some (h, k, b)) (hr : Ready c s = true)
    (ho : ∀ s1, Seated h s s1 → owner s1 = (s1, okWith body)) : Reads c s h k body := by
  obtain ⟨s1, t, a, ht, f⟩ := request_taken owner hb hr
  rw [ho s1 a] at f
  refine ⟨t, ⟨he.trans ht, f.answered⟩, ?_, buffersKept_of a f rfl, fun q => (f.causes q).trans (a.causes q)⟩
  rw [f.blocks, a.blocks]

end Sys2Proof.Machine
end

