-- ==== Sys2Proof/Laws/Seats.lean ====
section
/-! SUPPORT. What the availability computation, the ends of holds and a grant do to the shows, the Hold Table and the
images. -/

namespace Sys2Proof.Machine

/-! ### Records -/

@[simp] theorem addSold_key (z : Zone) (n : Nat) (sh : Show) : (addSold z n sh).key = sh.key := by cases z <;> rfl
@[simp] theorem subSold_key (z : Zone) (n : Nat) (sh : Show) : (subSold z n sh).key = sh.key := by cases z <;> rfl
@[simp] theorem addHeld_key (z : Zone) (n : Nat) (sh : Show) : (addHeld z n sh).key = sh.key := by cases z <;> rfl
@[simp] theorem subHeld_key (z : Zone) (n : Nat) (sh : Show) : (subHeld z n sh).key = sh.key := by cases z <;> rfl
@[simp] theorem compute_key (p : Policy) (sh : Show) : (sh.compute p).key = sh.key := rfl

theorem modifyShow_twice (s : State) (k : Nat) (f g : Show → Show) (hf : ∀ x, (f x).key = x.key) :
    (s.modifyShow k f).modifyShow k g = s.modifyShow k (fun x => g (f x)) := by
  have : updateShows k g (updateShows k f s.shows.shows) = updateShows k (fun x => g (f x)) s.shows.shows := by
    unfold updateShows
    rw [List.map_map]
    apply List.map_congr_left
    intro x _
    by_cases h : x.key = k <;> simp [h, hf]
  unfold State.modifyShow State.withShows
  simp [this]

theorem findShow_congr {s t : State} (h : t.shows = s.shows) (k : Nat) : t.findShow k = s.findShow k := by
  simp [State.findShow, h]

/-! ### Publication after an availability computation -/

theorem doorShow_range {s : State} {aud key : Nat} (hl : s.shows.doors.length = 16) (h : s.doorShow aud = some key) :
    aud ≤ 16 := by
  unfold State.doorShow at h
  by_contra hc
  have : (s.shows.doors)[aud - 1]? = none := List.getElem?_eq_none (by omega)
  simp [this] at h

/-- What a block publishes for one show it leaves published (R41, R84). -/
theorem publishShow_published (key : Nat) (auds : List Nat) (s : State) (hl : s.board.doors.length = 16)
    (ha : ∀ sh, s.findShow key = some sh → 1 ≤ sh.aud → s.doorShow sh.aud = some key →
      sh.aud ∈ auds ∧ ∀ x ∈ auds, 1 ≤ x ∧ x ≤ 16) :
    Published key (publishShow key auds s) := by
  have hs : (publishShow key auds s).shows = s.shows := by simp
  refine ⟨?_, ?_, ?_⟩
  · rw [publishShow_lines, computeLine_congr hs]; simp
  · intro sh hm hsib
    rw [hs] at hm
    rw [publishShow_lines, computeLine_congr hs, if_pos (Or.inr (mem_siblingsOf hm hsib))]
  · intro sh hf h1 hdoor
    rw [findShow_congr hs] at hf
    have hdoor' : s.doorShow sh.aud = some key := by
      unfold State.doorShow at hdoor ⊢; rw [hs] at hdoor; exact hdoor
    obtain ⟨hm, hr⟩ := ha sh hf h1 hdoor'
    rw [publishShow_doors key sh.aud auds s hl hr h1, if_pos hm, computeDoor_congr hs]

theorem publishShow_onlyForced (key : Nat) (auds : List Nat) (s : State) : OnlyForced s (publishShow key auds s) := by
  have hl : ∀ k u, OnlyForced u (publishLine k u) := by
    intro k u
    have e : ∀ t f l, OnlyForced u (file t f (u.withLines l)) := fun t f l => OnlyForced.of_ports (t := u.withLines l) rfl (file_onlyForced _ _ _)
    unfold publishLine
    split
    · exact OnlyForced.refl u
    · exact e _ _ _
    · split
      · exact OnlyForced.refl u
      · exact e _ _ _
    · exact e _ _ _
  have hd : ∀ a u, OnlyForced u (publishDoor a u) := by
    intro a u
    unfold publishDoor
    split
    · exact OnlyForced.refl u
    · exact OnlyForced.of_ports (t := u.withBoard _) rfl (file_onlyForced _ _ _)
  unfold publishShow publishLines publishDoors
  refine foldl_inv (OnlyForced s) _ (fun u k hu => hu.trans (hl k u)) _ _ ?_
  refine foldl_inv (OnlyForced s) _ (fun u a hu => hu.trans (hd a u)) _ _ ?_
  exact hl key s

/-! ### The availability computation -/

/-- One show's record changed, its availability computed and handed on (R35, R41). -/
structure Computed (key : Nat) (g : Show → Show) (w u : State) : Prop where
  same : u.findShow key = (w.findShow key).map (fun sh => (g sh).compute w.policy)
  other : ∀ k, k ≠ key → u.findShow k = w.findShow k
  published : w.board.doors.length = 16 → w.shows.doors.length = 16 → Published key u
  table : u.shows = { w.shows with shows := u.shows.shows }
  blocks : u = { w with shows := u.shows, board := u.board, journal := u.journal, link := u.link, ports := u.ports }
  steady : u.link.steady = w.link.steady
  quiet : u.ports.quiet = w.ports.quiet
  forced : OnlyForced w u

theorem availability_computed (key : Nat) (g : Show → Show) (w : State) (hg : ∀ x, (g x).key = x.key) :
    Computed key g w (availability key (w.modifyShow key g)) := by
  have e : computeShow key (w.modifyShow key g) = w.modifyShow key (fun x => (g x).compute w.policy) := by
    unfold computeShow
    rw [modifyShow_twice _ _ _ _ hg]; rfl
  have hk : ∀ x, ((g x).compute w.policy).key = x.key := by intro x; rw [compute_key, hg]
  unfold availability handOn
  rw [e]
  generalize hm : w.modifyShow key (fun x => (g x).compute w.policy) = m
  have hs : (publishShow key (doorOf m key) m).shows = m.shows := by simp
  constructor
  · rw [findShow_congr hs, ← hm, findShow_modifyShow_same _ _ _ hk]
  · intro k hne
    rw [findShow_congr hs, ← hm, findShow_modifyShow_other _ _ _ _ hk hne]
  · intro h1 h2
    apply publishShow_published
    · rw [← hm]; exact h1
    · intro sh hf ha hd
      unfold doorOf
      rw [hf]
      simp only [hd, if_true]
      refine ⟨by simp, ?_⟩
      intro x hx
      have : x = sh.aud := by simpa using hx
      subst this
      exact ⟨ha, doorShow_range (by rw [← hm]; exact h2) hd⟩
  · rw [hs, ← hm]; rfl
  · apply state_eq <;> simp [← hm]
  · have := publishShow_frame key (doorOf m key) m
    have hml : m.link = w.link := by rw [← hm]; rfl
    rw [← hml]; simp
  · have hmp : m.ports = w.ports := by rw [← hm]; rfl
    rw [← hmp]; simp
  · exact OnlyForced.of_ports (t := m) (by rw [← hm]; rfl) (publishShow_onlyForced key _ m)

/-- A request whose owning block changed the Hold Table and then one show's counts (R35). -/
theorem recounted_of {h : Hdr} {k : Nat} {r : Reply} {s s1 u t w : State} {key : Nat} {g : Show → Show}
    (hz : Sized s) (a : Seated h s s1) (f : Finished h k r u t) (hw : w = { s1 with seat := w.seat })
    (c : Computed key g w u) : Recounted h.port key g s t := by
  have hts : t.shows = u.shows := by rw [f.blocks]
  have htb : t.board = u.board := by rw [f.blocks]
  have hws : w.shows = s.shows := by rw [hw, a.blocks]
  have hwp : w.policy = s.policy := by rw [hw, a.blocks]
  have hwb : w.board = s.board := by rw [hw, a.blocks]
  have hpub := c.published (by rw [hwb]; exact hz.2.2.2.1) (by rw [hws]; exact hz.2.1)
  refine ⟨?_, ?_, ?_, ?_, ?_, ?_, ?_, ?_⟩
  · rw [findShow_congr hts, c.same, findShow_congr hws, hwp]
  · intro j hj
    rw [findShow_congr hts, c.other j hj, findShow_congr hws]
  · obtain ⟨p1, p2, p3⟩ := hpub
    have hi : ∀ j, t.lineImage j = u.lineImage j := by intro j; simp [State.lineImage, htb]
    refine ⟨?_, ?_, ?_⟩
    · rw [hi, computeLine_congr hts]; exact p1
    · intro sh hm hsib
      rw [hts] at hm
      rw [hi, computeLine_congr hts]; exact p2 sh hm hsib
    · intro sh hf h1 hd
      rw [findShow_congr hts] at hf
      have hd' : u.doorShow sh.aud = some key := by unfold State.doorShow at hd ⊢; rw [hts] at hd; exact hd
      have := p3 sh hf h1 hd'
      rw [computeDoor_congr hts, ← this]
      simp [State.doorImage, htb]
  · have h1 := f.blocks; have h2 := c.blocks; have h3 := a.blocks
    rw [h1, h2, hw, h3]
  · rw [hts, c.table, hws]
  · have : t.link = u.link := by rw [f.blocks]
    have h2 : w.link = s.link := by rw [hw, a.blocks]
    rw [this, c.steady, h2]
  · exact buffersKept_of a f (by rw [c.quiet, hw])
  · intro q n hq
    have h1 : causeBit q n t = causeBit q n u := by simp [causeBit, f.causes q]
    have h2 : causeBit q n w = causeBit q n s1 := by rw [hw]; rfl
    have h3 : causeBit q n s1 = causeBit q n s := by simp [causeBit, a.causes q]
    rw [h1, c.forced q n hq, h2, h3]

/-! ### Every show computed -/

theorem availability_findShow (key k : Nat) (s : State) :
    (availability key s).findShow k = if k = key then (s.findShow k).map (Show.compute s.policy) else s.findShow k := by
  unfold availability
  rw [findShow_congr (by simp : (handOn key (computeShow key s)).shows = (computeShow key s).shows)]
  unfold computeShow
  split
  · rename_i h; subst h
    exact findShow_modifyShow_same _ _ _ (fun x => compute_key _ x)
  · rename_i h
    exact findShow_modifyShow_other _ _ _ _ (fun x => compute_key _ x) h

/-- A change of band settings computes every show once (R42). -/
theorem computeAll_findShow (s : State) (h : s.shows.shows.Pairwise (fun a b => a.key < b.key)) (k : Nat) :
    (computeAll s).findShow k = (s.findShow k).map (Show.compute s.policy) := by
  have fold : ∀ (l : List Nat) (v : State), l.Nodup → v.policy = s.policy →
      (l.foldl (fun s k => availability k s) v).findShow k =
        if k ∈ l then (v.findShow k).map (Show.compute s.policy) else v.findShow k := by
    intro l
    induction l with
    | nil => intro v _ _; simp
    | cons j l ih =>
      intro v hn hp
      rw [List.nodup_cons] at hn
      rw [List.foldl_cons, ih _ hn.2 (by simp [hp]), availability_findShow, hp]
      by_cases e : k = j
      · subst e; simp [hn.1]
      · simp [e]
  have hn : s.showKeys.Nodup := by
    unfold State.showKeys
    rw [List.Nodup, List.pairwise_map]
    exact h.imp (fun h => Nat.ne_of_lt h)
  unfold computeAll
  rw [fold _ s hn rfl]
  split
  · rfl
  · rename_i hk
    cases hf : s.findShow k with
    | none => rfl
    | some x =>
      exfalso
      apply hk
      unfold State.findShow at hf
      have h1 := List.mem_of_find?_eq_some hf
      have h2 := List.find?_some hf
      exact List.mem_map.2 ⟨x, h1, by simpa using h2⟩

end Sys2Proof.Machine
end

