-- ==== Sys2Proof/Laws/Shows.lean ====
section
/-! SUPPORT. What a change of a show's state does, and the due-transition evaluation: the record it moves, the records
and blocks it leaves, the causes it may raise. -/

namespace Sys2Proof.Machine

/-! ### Causes -/

theorem OnlyShowCauses.refl (s : State) : OnlyShowCauses s s := fun _ _ _ _ => rfl
theorem OnlyShowCauses.trans {s t u : State} (a : OnlyShowCauses s t) (b : OnlyShowCauses t u) : OnlyShowCauses s u :=
  fun q n h1 h2 => (b q n h1 h2).trans (a q n h1 h2)
theorem OnlyShowCauses.of_forced {s t : State} (a : OnlyForced s t) : OnlyShowCauses s t :=
  fun q n h1 _ => a q n (fun h => h1 ⟨h.1, Or.inl h.2⟩)
theorem OnlyShowCauses.of_ports {s t : State} (h : t.ports = s.ports) : OnlyShowCauses s t := by
  intro q n _ _; simp [causeBit, portAt_eq, h]

theorem raise_showCauses (p : Port) (c : Cause) (s : State) (h : c = .showChange ∨ c = .holdVoided) :
    OnlyShowCauses s (raise p c s) := by
  intro q n h1 h2
  rw [raise_causeBit]
  by_cases hq : q = p
  · subst hq
    have : ¬ (c.bit q = some n) := by
      rcases h with rfl | rfl <;> cases q <;> simp_all [Cause.bit] <;> omega
    simp [this]
  · simp [hq]

theorem raiseAll_showCauses (s : State) : OnlyShowCauses s (raiseAll .showChange s) := by
  unfold raiseAll
  exact ((raise_showCauses _ _ _ (.inl rfl)).trans (raise_showCauses _ _ _ (.inl rfl))).trans
    (raise_showCauses _ _ _ (.inl rfl))

theorem raiseAll_sets (s : State) : ShowChangeRaised (raiseAll .showChange s) := by
  intro p
  unfold raiseAll
  cases p
  · exact raise_keeps _ _ _ _ _ (raise_keeps _ _ _ _ _ (raise_sets _ _ _ rfl))
  · exact raise_keeps _ _ _ _ _ (raise_sets _ _ _ rfl)
  · exact raise_sets _ _ _ rfl

/-- A cause that stands raised through a change that raises only other causes. -/
theorem OnlyForced.keeps_showChange {s t : State} (a : OnlyForced s t) (h : ShowChangeRaised s) : ShowChangeRaised t := by
  intro p
  have hp := h p
  unfold causeSet at *
  cases p <;> simp only [Cause.bit] at *
  · rw [← hp]; exact a .salesA 3 (by simp)
  · rw [← hp]; exact a .salesB 3 (by simp)
  · rw [← hp]; exact a .programme 9 (by simp)

/-! ### Records -/

/-- Two records of one show that differ in state, started-by, held counts and availability alone. -/
structure SameShow (x y : Show) : Prop where
  record : y = { x with state := y.state, started := y.started, std := y.std, prm := y.prm, acc := y.acc,
                        latch := y.latch, band := y.band, figure := y.figure }
  counts : ∀ z, (y.zone z).sold = (x.zone z).sold ∧ (y.zone z).withheld = (x.zone z).withheld ∧
    (y.zone z).cap = (x.zone z).cap

theorem SameShow.refl (x : Show) : SameShow x x := ⟨rfl, fun _ => ⟨rfl, rfl, rfl⟩⟩
theorem SameShow.trans {x y z : Show} (a : SameShow x y) (b : SameShow y z) : SameShow x z := by
  refine ⟨?_, fun w => ?_⟩
  · rw [b.record, a.record]
  · have h1 := a.counts w; have h2 := b.counts w
    exact ⟨h2.1.trans h1.1, h2.2.1.trans h1.2.1, h2.2.2.trans h1.2.2⟩

theorem SameShow.key {x y : Show} (a : SameShow x y) : y.key = x.key := by rw [a.record]

theorem sameShow_compute (p : Policy) (x : Show) : SameShow x (x.compute p) := ⟨rfl, fun z => by cases z <;> exact ⟨rfl, rfl, rfl⟩⟩
theorem sameShow_subHeld (z : Zone) (n : Nat) (x : Show) : SameShow x (subHeld z n x) :=
  ⟨by cases z <;> rfl, fun w => by cases z <;> cases w <;> exact ⟨rfl, rfl, rfl⟩⟩
theorem sameShow_state (st : ShowState) (b : Option (StartedBy × Nat)) (x : Show) :
    SameShow x { x with state := st, started := b } := ⟨rfl, fun z => by cases z <;> exact ⟨rfl, rfl, rfl⟩⟩

/-! ### Moves of one show -/

/-- What may happen to one show between two states of the machine: its record moves in state, started-by, held counts
and availability, no other record changes, and nothing else but the Seat Unit, the door table, the images, the notices
and what filings touch. -/
structure Moved (key : Nat) (w u : State) : Prop where
  same : ∀ x, w.findShow key = some x → ∃ y, u.findShow key = some y ∧ SameShow x y
  other : ∀ k, k ≠ key → u.findShow k = w.findShow k
  keys : u.shows.shows.map (·.key) = w.shows.shows.map (·.key)
  table : u.shows = { w.shows with shows := u.shows.shows, doors := u.shows.doors }
  doors : u.shows.doors.length = w.shows.doors.length
  images : u.board.doors.length = w.board.doors.length
  blocks : u = { w with seat := u.seat, shows := u.shows, board := u.board, notice := u.notice, journal := u.journal,
                        link := u.link, ports := u.ports }
  steady : u.link.steady = w.link.steady
  quiet : u.ports.quiet = w.ports.quiet
  causes : OnlyShowCauses w u

theorem Moved.refl (key : Nat) (w : State) : Moved key w w :=
  ⟨fun x h => ⟨x, h, SameShow.refl x⟩, fun _ _ => rfl, rfl, rfl, rfl, rfl, rfl, rfl, rfl, OnlyShowCauses.refl w⟩

theorem Moved.trans {key : Nat} {w u v : State} (a : Moved key w u) (b : Moved key u v) : Moved key w v := by
  refine ⟨?_, ?_, ?_, ?_, ?_, ?_, ?_, ?_, ?_, ?_⟩
  · intro x hx
    obtain ⟨y, hy, sy⟩ := a.same x hx
    obtain ⟨z, hz, sz⟩ := b.same y hy
    exact ⟨z, hz, sy.trans sz⟩
  · intro k hk; rw [b.other k hk, a.other k hk]
  · rw [b.keys, a.keys]
  · have h1 := a.table; have h2 := b.table; rw [h2, h1]
  · rw [b.doors, a.doors]
  · rw [b.images, a.images]
  · have h1 := a.blocks; have h2 := b.blocks; rw [h2, h1]
  · rw [b.steady, a.steady]
  · rw [b.quiet, a.quiet]
  · exact a.causes.trans b.causes

theorem Moved.clock {key : Nat} {w u : State} (a : Moved key w u) : u.shows.clock = w.shows.clock := by rw [a.table]
theorem Moved.policy {key : Nat} {w u : State} (a : Moved key w u) : u.policy = w.policy := by rw [a.blocks]

/-- An update of the show's own record. -/
theorem moved_modify (key : Nat) (f : Show → Show) (w : State) (hf : ∀ x, SameShow x (f x)) :
    Moved key w (w.modifyShow key f) := by
  have hk : ∀ x, (f x).key = x.key := fun x => (hf x).key
  refine ⟨?_, ?_, ?_, rfl, rfl, rfl, rfl, rfl, rfl, fun _ _ _ _ => rfl⟩
  · intro x hx
    exact ⟨f x, by rw [findShow_modifyShow_same _ _ _ hk, hx]; rfl, hf x⟩
  · intro k hne; exact findShow_modifyShow_other _ _ _ _ hk hne
  · exact updateShows_map _ _ _ hk

/-- A change that leaves the Show Table alone. -/
theorem moved_frame {key : Nat} {w u : State} (hs : u.shows = w.shows)
    (hi : u.board.doors.length = w.board.doors.length)
    (hb : u = { w with seat := u.seat, board := u.board, notice := u.notice, journal := u.journal, link := u.link,
                       ports := u.ports })
    (hl : u.link.steady = w.link.steady) (hq : u.ports.quiet = w.ports.quiet) (hc : OnlyShowCauses w u) :
    Moved key w u := by
  refine ⟨?_, ?_, ?_, ?_, ?_, hi, ?_, hl, hq, hc⟩
  · intro x hx; exact ⟨x, by rw [findShow_congr hs, hx], SameShow.refl x⟩
  · intro k _; exact findShow_congr hs k
  · rw [hs]
  · rw [hs]
  · rw [hs]
  · rw [hb]

theorem moved_doors (key : Nat) (d : List (Option Nat)) (w : State) (h : d.length = w.shows.doors.length) :
    Moved key w (w.withShows { w.shows with doors := d }) :=
  ⟨fun x hx => ⟨x, hx, SameShow.refl x⟩, fun _ _ => rfl, rfl, rfl, h, rfl, rfl, rfl, rfl, fun _ _ _ _ => rfl⟩

theorem publishShow_images (key : Nat) (auds : List Nat) (s : State) :
    (publishShow key auds s).board.doors.length = s.board.doors.length := by
  unfold publishShow
  rw [publishLines_doors, publishDoors_length, publishLine_doors]

theorem moved_publish (key k : Nat) (auds : List Nat) (w : State) : Moved key w (publishShow k auds w) :=
  moved_frame (by simp) (publishShow_images _ _ _) (by apply state_eq <;> simp) (by simp) (by simp)
    (.of_forced (publishShow_onlyForced _ _ _))

theorem moved_raise (key : Nat) (p : Port) (c : Cause) (w : State) (h : c = .showChange ∨ c = .holdVoided) :
    Moved key w (raise p c w) :=
  moved_frame (by simp) (by simp) (by apply state_eq <;> simp) (by simp) (by simp) (raise_showCauses p c w h)

theorem moved_raiseAll (key : Nat) (w : State) : Moved key w (raiseAll .showChange w) :=
  moved_frame (by simp) (by simp) (by apply state_eq <;> simp) (by simp) (by simp) (raiseAll_showCauses w)

theorem moved_seat (key : Nat) (x : SeatUnit) (w : State) : Moved key w (w.withSeat x) :=
  moved_frame rfl rfl rfl rfl rfl (fun _ _ _ _ => rfl)

theorem file_board (t : Target) (f : Form) (s : State) : (file t f s).board = s.board := (file_frame t f s).2.2.2.2.1

/-- A withdrawal. -/
theorem moved_withdraw (key : Nat) (f : Notice → Bool) (w : State) : Moved key w (withdrawWhere f w) := by
  have hb : (withdrawWhere f w).board = w.board := by
    unfold withdrawWhere fileNotices; simp only; split
    · rfl
    · rw [file_board]; rfl
  refine moved_frame (by simp) (by rw [hb]) (by apply state_eq <;> simp) (by simp) (by simp) ?_
  unfold withdrawWhere fileNotices
  simp only
  split
  · exact OnlyShowCauses.refl w
  · exact .of_forced (OnlyForced.of_ports (t := w.withNotice _) rfl (file_onlyForced _ _ _))

/-- One void of a hold on the show. -/
theorem moved_void (key i : Nat) (w : State) (h : (w.holdSlot i).isOn [key] = true) : Moved key w (voidHold i w) := by
  unfold voidHold
  split
  · rename_i info life hu
    have hk : info.key = key := by
      unfold HoldSlot.isOn at h; rw [hu] at h; simpa using h
    unfold endHold
    rw [hu]
    simp only
    refine Moved.trans (moved_seat key (w.seat.release i .voided) w) (Moved.trans ?_ (moved_raise key _ _ _ (.inr rfl)))
    rw [hk]
    exact moved_modify key _ _ (fun x => sameShow_subHeld _ _ x)
  · exact Moved.refl key w

/-! ### Voids -/

theorem release_slot (u : SeatUnit) (i j : Nat) (r : EndReason) (hl : i < u.slots.length) :
    ((u.release i r).slots)[j]? =
      if j = i then (u.slots)[i]?.map (fun x => match x.use with
        | .active info _ => ⟨x.gen, .ended info r⟩
        | _ => x) else (u.slots)[j]? := by
  unfold SeatUnit.release
  split
  · rename_i gen info life hx
    have hw : ∀ (v : SeatUnit) (p : Port) (n : Nat), (v.withPortCount p n).slots = v.slots := by
      intro v p n; cases p <;> rfl
    rw [hw]
    by_cases h : j = i
    · subst h
      simp only [if_true, hx, Option.map_some]
      rw [List.getElem?_set_self (by omega)]
    · simp only [if_neg h]
      exact List.getElem?_set_ne (Ne.symm h)
  · rename_i hn
    by_cases h : j = i
    · subst h
      simp only [if_true]
      cases hx : (u.slots)[j]? with
      | none => rfl
      | some x =>
        obtain ⟨g, us⟩ := x
        cases us with
        | active info life => exact absurd hx (hn g info life)
        | _ => rfl
    · simp [h]

theorem release_length (u : SeatUnit) (i : Nat) (r : EndReason) : (u.release i r).slots.length = u.slots.length := by
  unfold SeatUnit.release
  have hw : ∀ (v : SeatUnit) (p : Port) (n : Nat), (v.withPortCount p n).slots = v.slots := by
    intro v p n; cases p <;> rfl
  split <;> simp [hw]

/-- The slot a void leaves (R68). -/
def HoldSlot.voided (x : HoldSlot) : HoldSlot :=
  match x.use with
  | .active info _ => ⟨x.gen, .ended info .voided⟩
  | _ => x

theorem voidHold_seat (i : Nat) (w : State) :
    (voidHold i w).seat = w.seat.release i .voided := by
  unfold voidHold
  split
  · rename_i info life hu
    have : ∀ p c (v : State), (raise p c v).seat = v.seat := by intro p c v; simp
    rw [this]
    unfold endHold
    rw [hu]; rfl
  · rename_i hn
    unfold SeatUnit.release
    split
    · rename_i gen info life hx
      exact absurd (by simp [State.holdSlot, hx]) (hn info life)
    · rfl

theorem voidHold_slot (i j : Nat) (w : State) :
    (voidHold i w).holdSlot j = if j = i then (w.holdSlot i).voided else w.holdSlot j := by
  unfold State.holdSlot
  rw [voidHold_seat]
  by_cases hl : i < w.seat.slots.length
  · rw [release_slot _ _ _ _ hl]
    by_cases h : j = i
    · subst h
      simp only [if_true]
      rw [List.getElem?_eq_getElem hl]
      rfl
    · simp [h]
  · have : w.seat.release i .voided = w.seat := by
      unfold SeatUnit.release
      rw [List.getElem?_eq_none (by omega)]
    rw [this]
    by_cases h : j = i
    · subst h
      rw [List.getElem?_eq_none (by omega)]; simp [HoldSlot.voided]
    · simp [h]

theorem mem_activeSlotsOn (keys : List Nat) (s : State) (i : Nat) :
    i ∈ activeSlotsOn keys s ↔ i < 192 ∧ (s.holdSlot i).isOn keys = true := by
  unfold activeSlotsOn
  rw [List.mem_filter, List.mem_range]; rfl

theorem voidFold_slot (l : List Nat) (j : Nat) (w : State) :
    (l.foldl (fun s i => voidHold i s) w).holdSlot j = if j ∈ l then (w.holdSlot j).voided else w.holdSlot j := by
  have hv : ∀ x : HoldSlot, x.voided.voided = x.voided := by
    intro x; unfold HoldSlot.voided; cases hx : x.use <;> simp [hx]
  induction l generalizing w with
  | nil => simp
  | cons i l ih =>
    rw [List.foldl_cons, ih, voidHold_slot]
    by_cases h : j ∈ l
    · by_cases h2 : j = i
      · subst h2; simp [h, hv]
      · simp [h, h2]
    · by_cases h2 : j = i
      · subst h2; simp [h]
      · simp [h, h2]

/-- The slots the voids of the holds on some shows leave (R68, R69). -/
theorem voidHolds_slot (keys : List Nat) (j : Nat) (w : State) :
    (voidHolds keys w).holdSlot j =
      if j < 192 ∧ (w.holdSlot j).isOn keys = true then (w.holdSlot j).voided else w.holdSlot j := by
  unfold voidHolds
  rw [voidFold_slot]
  simp only [mem_activeSlotsOn]

theorem voidFold_moved (key : Nat) (l : List Nat) (w : State) (h : ∀ i ∈ l, (w.holdSlot i).isOn [key] = true)
    (hn : l.Nodup) : Moved key w (l.foldl (fun s i => voidHold i s) w) := by
  induction l generalizing w with
  | nil => exact Moved.refl key w
  | cons i l ih =>
    rw [List.foldl_cons]
    refine (moved_void key i w (h i (by simp))).trans (ih _ ?_ (List.nodup_cons.mp hn).2)
    intro j hj
    have : j ≠ i := fun e => (List.nodup_cons.mp hn).1 (e ▸ hj)
    rw [voidHold_slot, if_neg this]
    exact h j (by simp [hj])

theorem moved_voidShow (key : Nat) (w : State) : Moved key w (voidShow key w) := by
  unfold voidShow
  split
  · exact Moved.refl key w
  · refine Moved.trans (voidFold_moved key _ w (fun i hi => ((mem_activeSlotsOn _ _ _).mp hi).2) ?_)
      (moved_modify key _ _ (fun x => sameShow_compute _ x))
    exact List.Nodup.filter _ List.nodup_range

theorem voidShow_slot (key j : Nat) (w : State) :
    (voidShow key w).holdSlot j =
      if j < 192 ∧ (w.holdSlot j).isOn [key] = true then (w.holdSlot j).voided else w.holdSlot j := by
  unfold voidShow
  split
  · rename_i h
    have hn : j ∉ activeSlotsOn [key] w := by
      rw [List.isEmpty_iff.mp h]; simp
    rw [mem_activeSlotsOn] at hn
    simp [hn]
  · exact voidHolds_slot [key] j w

/-! ### Entering a state -/

theorem recomputeDoor_length (s : State) (a : Nat) : (recomputeDoor s a).shows.doors.length = s.shows.doors.length := by
  simp [recomputeDoor]

theorem moved_recomputeDoor (key a : Nat) (w : State) : Moved key w (recomputeDoor w a) :=
  moved_doors key _ w (by simp)

theorem moved_seatAtEntry (key : Nat) (st : ShowState) (w : State) : Moved key w (seatAtEntry key st w) := by
  unfold seatAtEntry
  split
  · exact moved_voidShow key w
  · exact moved_voidShow key w
  · exact Moved.refl key w

theorem moved_noticeAtEntry (key : Nat) (st : ShowState) (w : State) : Moved key w (noticeAtEntry key st w) := by
  unfold noticeAtEntry
  split
  · exact moved_withdraw key _ w
  · exact moved_withdraw key _ w
  · exact Moved.refl key w

theorem moved_enterState (b : Bool) (key : Nat) (st : ShowState) (x : Option (StartedBy × Nat)) (w : State) :
    Moved key w (enterState b key st x w) := by
  unfold enterState
  split
  · exact Moved.refl key w
  · rename_i sh _
    refine Moved.trans (u := w.modifyShow key (fun y => { y with state := st, started := x.orElse (fun _ => y.started) }))
      (moved_modify key _ w (fun y => sameShow_state st (x.orElse (fun _ => y.started)) y)) ?_
    refine Moved.trans (moved_recomputeDoor key sh.aud _) ?_
    refine Moved.trans (moved_seatAtEntry key st _) ?_
    refine Moved.trans (moved_noticeAtEntry key st _) ?_
    refine Moved.trans ?_ (moved_raiseAll key _)
    split
    · exact moved_publish key key _ _
    · exact Moved.refl key _

theorem enterState_raises (b : Bool) (key : Nat) (st : ShowState) (x : Option (StartedBy × Nat)) (w : State) (sh : Show)
    (h : w.findShow key = some sh) : ShowChangeRaised (enterState b key st x w) := by
  unfold enterState
  rw [h]
  exact raiseAll_sets _

theorem moved_evalOnce (b : Bool) (key : Nat) (w : State) : Moved key w (evalOnce b key w) := by
  unfold evalOnce
  split
  · split
    · exact moved_enterState b key _ _ w
    · exact Moved.refl key w
  · exact Moved.refl key w

theorem moved_evaluate (b : Bool) (key : Nat) (w : State) : Moved key w (evaluate b key w) := by
  unfold evaluate
  exact (((moved_evalOnce b key w).trans (moved_evalOnce b key _)).trans (moved_evalOnce b key _)).trans
    (moved_evalOnce b key _)

/-! ### The state entered -/

/-- Voids and computations leave a show's state and started-by alone. -/
theorem voidHold_state (key i : Nat) (w : State) (x : Show) (h : w.findShow key = some x) :
    ∃ y, (voidHold i w).findShow key = some y ∧ y.state = x.state ∧ y.started = x.started := by
  unfold voidHold
  split
  · rename_i info life hu
    have e : ∀ p c (v : State), (raise p c v).findShow key = v.findShow key := fun p c v => findShow_congr (by simp) key
    rw [e]
    unfold endHold
    rw [hu]
    simp only
    by_cases hk : key = info.key
    · subst hk
      rw [findShow_modifyShow_same _ _ _ (fun y => subHeld_key _ _ y)]
      have : (w.withSeat (w.seat.release i .voided)).findShow info.key = some x := h
      rw [this]
      refine ⟨_, rfl, ?_, ?_⟩ <;> cases info.zone <;> rfl
    · rw [findShow_modifyShow_other _ _ _ _ (fun y => subHeld_key _ _ y) hk]
      exact ⟨x, h, rfl, rfl⟩
  · exact ⟨x, h, rfl, rfl⟩

theorem voidShow_state (key : Nat) (w : State) (x : Show) (h : w.findShow key = some x) :
    ∃ y, (voidShow key w).findShow key = some y ∧ y.state = x.state ∧ y.started = x.started := by
  unfold voidShow
  split
  · exact ⟨x, h, rfl, rfl⟩
  · have : ∀ (l : List Nat) (v : State) (z : Show), v.findShow key = some z →
        ∃ y, (l.foldl (fun s i => voidHold i s) v).findShow key = some y ∧ y.state = z.state ∧ y.started = z.started := by
      intro l
      induction l with
      | nil => intro v z hz; exact ⟨z, hz, rfl, rfl⟩
      | cons i l ih =>
        intro v z hz
        obtain ⟨y, hy, h1, h2⟩ := voidHold_state key i v z hz
        obtain ⟨y', hy', h1', h2'⟩ := ih (voidHold i v) y hy
        exact ⟨y', hy', h1'.trans h1, h2'.trans h2⟩
    obtain ⟨y, hy, h1, h2⟩ := this (activeSlotsOn [key] w) w x h
    unfold computeShow voidHolds
    rw [findShow_modifyShow_same _ _ _ (fun z => compute_key _ z), hy]
    exact ⟨_, rfl, h1, h2⟩

/-- The show stands in the state entered, with the started-by given or kept (R13). -/
theorem enterState_state (b : Bool) (key : Nat) (st : ShowState) (e : Option (StartedBy × Nat)) (w : State) (x : Show)
    (h : w.findShow key = some x) :
    ∃ y, (enterState b key st e w).findShow key = some y ∧ y.state = st ∧ y.started = e.orElse (fun _ => x.started) := by
  unfold enterState
  rw [h]
  simp only
  generalize hw1 : w.modifyShow key (fun x => { x with state := st, started := e.orElse (fun _ => x.started) }) = w1
  have h1 : w1.findShow key = some { x with state := st, started := e.orElse (fun _ => x.started) } := by
    rw [← hw1, findShow_modifyShow_same, h]; rfl
    intro _; rfl
  have h2 : ∃ y, (seatAtEntry key st (recomputeDoor w1 x.aud)).findShow key = some y ∧ y.state = st ∧
      y.started = e.orElse (fun _ => x.started) := by
    have h3 : (recomputeDoor w1 x.aud).findShow key = w1.findShow key := rfl
    unfold seatAtEntry
    split
    · obtain ⟨y, hy, a, c⟩ := voidShow_state key (recomputeDoor w1 x.aud) _ (h3.trans h1)
      exact ⟨y, hy, a, c⟩
    · obtain ⟨y, hy, a, c⟩ := voidShow_state key (recomputeDoor w1 x.aud) _ (h3.trans h1)
      exact ⟨y, hy, a, c⟩
    · exact ⟨_, h3.trans h1, rfl, rfl⟩
  obtain ⟨y, hy, a, c⟩ := h2
  refine ⟨y, ?_, a, c⟩
  rw [← hy]
  apply findShow_congr
  split <;> simp

/-- With no transition due an evaluation changes nothing. -/
theorem evaluate_fixed (b : Bool) (key : Nat) (w : State)
    (h : ∀ x, w.findShow key = some x → dueTransition w.policy w.shows.clock x = none) : evaluate b key w = w := by
  have e : evalOnce b key w = w := by
    unfold evalOnce
    split
    · rename_i x hx; rw [h x hx]
    · rfl
  unfold evaluate
  simp [e]

/-- How many transitions a show has before it. -/
def ShowState.ahead : ShowState → Nat
  | .onSale => 4 | .seating => 3 | .running => 2 | .closed => 1 | _ => 0

theorem dueTransition_ahead {p : Policy} {c : Clock} {sh : Show} {st : ShowState} {b : Option (StartedBy × Nat)}
    (h : dueTransition p c sh = some (st, b)) : st.ahead + 1 = sh.state.ahead := by
  unfold dueTransition at h
  split at h
  · cases h
  · cases hst : sh.state <;> rw [hst] at h <;> simp only at h <;>
      first
      | (split at h <;> cases h <;> rfl)
      | cases h

/-- No transition is due after an evaluation (R11). -/
theorem evaluate_settles (b : Bool) (key : Nat) (w : State) (y : Show) (h : (evaluate b key w).findShow key = some y) :
    dueTransition (evaluate b key w).policy (evaluate b key w).shows.clock y = none := by
  have step : ∀ (v : State), (∀ x, v.findShow key = some x → dueTransition v.policy v.shows.clock x = none) ∨
      (∀ x, v.findShow key = some x → ∃ z, (evalOnce b key v).findShow key = some z ∧ z.state.ahead + 1 = x.state.ahead) := by
    intro v
    cases hx : v.findShow key with
    | none => left; intro x hx'; cases hx'
    | some x =>
      cases hd : dueTransition v.policy v.shows.clock x with
      | none => left; intro x' hx'; cases hx'; exact hd
      | some d =>
        right
        intro x' hx'
        cases hx'
        obtain ⟨st, e⟩ := d
        have : evalOnce b key v = enterState b key st e v := by unfold evalOnce; rw [hx]; simp only [hd]
        rw [this]
        obtain ⟨z, hz, hs, _⟩ := enterState_state b key st e v x hx
        exact ⟨z, hz, by rw [hs]; exact dueTransition_ahead hd⟩
  have fixed : ∀ (v : State), (∀ x, v.findShow key = some x → dueTransition v.policy v.shows.clock x = none) →
      evalOnce b key v = v := by
    intro v hv
    unfold evalOnce
    split
    · rename_i x hx; rw [hv x hx]
    · rfl
  have main : ∀ (n : Nat) (v : State), (∀ x, v.findShow key = some x → x.state.ahead ≤ n) →
      ∀ x, (Nat.iterate (evalOnce b key) n v).findShow key = some x →
        dueTransition (Nat.iterate (evalOnce b key) n v).policy (Nat.iterate (evalOnce b key) n v).shows.clock x = none := by
    intro n
    induction n with
    | zero =>
      intro v hv x hx
      cases hd : dueTransition v.policy v.shows.clock x with
      | none => exact hd
      | some d =>
        obtain ⟨st, e⟩ := d
        have := dueTransition_ahead hd
        have := hv x hx
        omega
    | succ n ih =>
      intro v hv
      rw [Function.iterate_succ_apply]
      rcases step v with hf | hm
      · rw [fixed v hf]
        have : Nat.iterate (evalOnce b key) n v = v := Function.iterate_fixed (fixed v hf) n
        rw [this]
        exact hf
      · apply ih
        intro z hz
        have hmv := moved_evalOnce b key v
        cases hx : v.findShow key with
        | none =>
          have : evalOnce b key v = v := fixed v (by intro x h'; rw [hx] at h'; cases h')
          rw [this, hx] at hz; cases hz
        | some x =>
          obtain ⟨z', hz', ha⟩ := hm x hx
          rw [hz'] at hz; cases hz
          have := hv x hx; omega
  have h4 : evaluate b key w = Nat.iterate (evalOnce b key) 4 w := rfl
  rw [h4] at h ⊢
  exact main 4 w (by intro x _; cases x.state <;> decide) y h

/-! ### Publication -/

theorem published_congr {key : Nat} {t u : State} (hs : t.shows = u.shows) (hb : t.board = u.board)
    (h : Published key u) : Published key t := by
  obtain ⟨p1, p2, p3⟩ := h
  have hi : ∀ j, t.lineImage j = u.lineImage j := by intro j; simp [State.lineImage, hb]
  refine ⟨?_, ?_, ?_⟩
  · rw [hi, computeLine_congr hs]; exact p1
  · intro sh hm hsib
    rw [hs] at hm
    rw [hi, computeLine_congr hs]; exact p2 sh hm hsib
  · intro sh hf h1 hd
    rw [findShow_congr hs] at hf
    have hd' : u.doorShow sh.aud = some key := by unfold State.doorShow at hd ⊢; rw [hs] at hd; exact hd
    have := p3 sh hf h1 hd'
    rw [computeDoor_congr hs, ← this]
    simp [State.doorImage, hb]

/-- A show that enters a state is published as it then stands (R13, R41). -/
theorem enterState_published (key : Nat) (st : ShowState) (x : Option (StartedBy × Nat)) (w : State) (sh : Show)
    (h : w.findShow key = some sh) (hb : w.board.doors.length = 16) (hd : w.shows.doors.length = 16) :
    Published key (enterState true key st x w) := by
  unfold enterState
  rw [h]
  simp only [if_true]
  generalize hu : noticeAtEntry key st (seatAtEntry key st (recomputeDoor (w.modifyShow key
    (fun y => { y with state := st, started := x.orElse (fun _ => y.started) })) sh.aud)) = u
  have hm : Moved key w u := by
    rw [← hu]
    refine Moved.trans (moved_modify key _ w (fun y => sameShow_state st (x.orElse (fun _ => y.started)) y)) ?_
    exact (moved_recomputeDoor key sh.aud _).trans ((moved_seatAtEntry key st _).trans (moved_noticeAtEntry key st _))
  refine published_congr (u := publishShow key [sh.aud] u) (by simp) (by simp) ?_
  apply publishShow_published
  · rw [hm.images]; exact hb
  · intro y hy h1 hdoor
    obtain ⟨y', hy', hs⟩ := hm.same sh h
    rw [hy'] at hy; cases hy
    have ha : y.aud = sh.aud := by rw [hs.record]
    refine ⟨by simp [ha], ?_⟩
    intro z hz
    have : z = sh.aud := by simpa using hz
    subst this
    rw [ha] at h1 hdoor
    exact ⟨h1, doorShow_range (by rw [hm.doors]; exact hd) hdoor⟩

/-- An evaluation leaves a published show published. -/
theorem evaluate_published (key : Nat) (w : State) (hb : w.board.doors.length = 16) (hd : w.shows.doors.length = 16)
    (h : Published key w) : Published key (evaluate true key w) := by
  have once : ∀ v : State, v.board.doors.length = 16 → v.shows.doors.length = 16 → Published key v →
      Published key (evalOnce true key v) := by
    intro v h1 h2 h3
    unfold evalOnce
    split
    · rename_i sh hf
      split
      · exact enterState_published key _ _ v sh hf h1 h2
      · exact h3
    · exact h3
  have len : ∀ v : State, (evalOnce true key v).board.doors.length = v.board.doors.length ∧
      (evalOnce true key v).shows.doors.length = v.shows.doors.length :=
    fun v => ⟨(moved_evalOnce true key v).images, (moved_evalOnce true key v).doors⟩
  unfold evaluate
  have a1 := once w hb hd h
  have a2 := once _ (by rw [(len w).1]; exact hb) (by rw [(len w).2]; exact hd) a1
  have a3 := once _ (by rw [(len _).1, (len w).1]; exact hb) (by rw [(len _).2, (len w).2]; exact hd) a2
  exact once _ (by rw [(len _).1, (len _).1, (len w).1]; exact hb) (by rw [(len _).2, (len _).2, (len w).2]; exact hd) a3

/-- An evaluation leaves the cause SHOW_CHANGE raised where it stands raised. -/
theorem evaluate_raised (b : Bool) (key : Nat) (w : State) (h : ShowChangeRaised w) :
    ShowChangeRaised (evaluate b key w) := by
  have once : ∀ v : State, ShowChangeRaised v → ShowChangeRaised (evalOnce b key v) := by
    intro v hv
    unfold evalOnce
    split
    · rename_i sh hf
      split
      · exact enterState_raises b key _ _ v sh hf
      · exact hv
    · exact hv
  unfold evaluate
  exact once _ (once _ (once _ (once w h)))

/-- A request whose owning block moved one show (R13). -/
theorem showFrame_of {h : Hdr} {k : Nat} {r : Reply} {s s1 u t : State} {key : Nat} (a : Seated h s s1)
    (f : Finished h k r u t) (m : Moved key s1 u) : ShowFrame h.port s t := by
  have h1 := f.blocks; have h2 := m.blocks; have h3 := a.blocks
  refine ⟨?_, ?_, ?_, ?_, ?_⟩
  · rw [h1, h2, h3]
  · have : t.shows = u.shows := by rw [h1]
    have e : s1.shows = s.shows := by rw [h3]
    rw [this, m.table, e]
  · have : t.link = u.link := by rw [h1]
    have e : s1.link = s.link := by rw [h3]
    rw [this, m.steady, e]
  · exact buffersKept_of a f m.quiet
  · intro q n x1 x2
    have e1 : causeBit q n t = causeBit q n u := by simp [causeBit, f.causes q]
    have e3 : causeBit q n s1 = causeBit q n s := by simp [causeBit, a.causes q]
    rw [e1, m.causes q n x1 x2, e3]

/-- A cause set as the owning block left it. -/
theorem Finished.causeSet_eq {h : Hdr} {k : Nat} {r : Reply} {u t : State} (f : Finished h k r u t) (q : Port) (c : Cause) :
    causeSet q c t = causeSet q c u := by
  unfold causeSet
  split
  · rw [f.causes q]
  · rfl

/-! ### Order -/

theorem insertBy_head {α : Type} (before : α → α → Bool) (x : α) (l : List α) (m : α)
    (h : (insertBy before x l).head? = some m) : m = x ∨ l.head? = some m := by
  cases l with
  | nil => left; simpa [insertBy] using h.symm
  | cons y l =>
    unfold insertBy at h
    split at h
    · right; simpa using h
    · left; simpa using h.symm

/-- What is inserted after all that stand before it keeps an order (R20, R77, R120). -/
theorem insertBy_pairwise {α : Type} (before : α → α → Bool) (le : α → α → Prop)
    (ht : ∀ a b c, le a b → le b c → le a c) (hb : ∀ a b, before a b = true → le a b)
    (hn : ∀ a b, before a b = false → le b a) (x : α) (l : List α) (h : l.Pairwise le) :
    (insertBy before x l).Pairwise le := by
  induction l with
  | nil => simp [insertBy]
  | cons y l ih =>
    rw [List.pairwise_cons] at h
    unfold insertBy
    split
    · rename_i hy
      rw [List.pairwise_cons]
      refine ⟨fun z hz => ?_, ih h.2⟩
      rcases (mem_insertBy before x z l).1 hz with rfl | hz
      · exact hb _ _ hy
      · exact h.1 z hz
    · rename_i hy
      have hxy : le x y := hn _ _ (by simpa using hy)
      rw [List.pairwise_cons, List.pairwise_cons]
      refine ⟨fun z hz => ?_, h⟩
      rcases List.mem_cons.1 hz with rfl | hz
      · exact hxy
      · exact ht _ _ _ hxy (h.1 z hz)

theorem sortBy_pairwise {α : Type} (before : α → α → Bool) (le : α → α → Prop)
    (ht : ∀ a b c, le a b → le b c → le a c) (hb : ∀ a b, before a b = true → le a b)
    (hn : ∀ a b, before a b = false → le b a) (l : List α) : (sortBy before l).Pairwise le := by
  induction l with
  | nil => exact List.Pairwise.nil
  | cons x l ih => exact insertBy_pairwise before le ht hb hn x _ ih

/-! ### The door show -/

theorem notAfter_trans {a b c : Show} (h : a.notAfter b) (k : b.notAfter c) : a.notAfter c := by
  unfold Show.notAfter at *; omega

theorem notAfter_refl (a : Show) : a.notAfter a := by unfold Show.notAfter; omega

/-- The earliest show is one of the list and starts no later than the others (R20). -/
theorem earliest_some {l : List Show} {sh : Show} (h : earliest l = some sh) : sh ∈ l ∧ ∀ x ∈ l, sh.notAfter x := by
  unfold earliest at h
  have hp := sortBy_pairwise (fun a b : Show =>
    decide (a.effStart < b.effStart) || (a.effStart == b.effStart && decide (a.key < b.key))) Show.notAfter
    (fun _ _ _ => notAfter_trans)
    (by intro a b hab
        rw [Bool.or_eq_true, Bool.and_eq_true, beq_iff_eq, decide_eq_true_iff, decide_eq_true_iff] at hab
        unfold Show.effStart at hab
        unfold Show.notAfter; omega)
    (by intro a b hab
        rw [Bool.or_eq_false_iff, Bool.and_eq_false_iff, beq_eq_false_iff_ne, decide_eq_false_iff_not, decide_eq_false_iff_not] at hab
        unfold Show.effStart at hab
        unfold Show.notAfter; omega) l
  generalize hs : sortBy (fun a b : Show =>
    decide (a.effStart < b.effStart) || (a.effStart == b.effStart && decide (a.key < b.key))) l = s at h hp
  have hm : ∀ y, y ∈ s ↔ y ∈ l := fun y => by rw [← hs]; exact mem_sortBy _ y l
  cases s with
  | nil => cases h
  | cons z s =>
    cases h
    rw [List.pairwise_cons] at hp
    refine ⟨(hm _).1 (List.mem_cons_self), fun x hx => ?_⟩
    rcases List.mem_cons.1 ((hm x).2 hx) with rfl | hx
    · exact notAfter_refl x
    · exact hp.1 x hx

theorem earliest_none {l : List Show} (h : earliest l = none) : l = [] := by
  unfold earliest at h
  rw [List.head?_eq_none_iff] at h
  apply List.eq_nil_iff_forall_not_mem.2
  intro y hy
  rw [← mem_sortBy (fun a b : Show =>
    decide (a.effStart < b.effStart) || (a.effStart == b.effStart && decide (a.key < b.key))) y l, h] at hy
  cases hy

theorem mem_todayIn {s : State} {aud : Nat} {f : Show → Bool} {x : Show} :
    x ∈ (todayIn s aud).filter f ↔ x ∈ s.shows.shows ∧ x.day = 0 ∧ x.aud = aud ∧ f x = true := by
  simp only [todayIn, List.mem_filter, Bool.and_eq_true, beq_iff_eq, and_assoc]

/-- An entry of the auditorium table that holds what `chooseDoor` gives holds the door show of R20. -/
theorem doorChosen_of {aud : Nat} {t : State} (h : t.doorShow aud = chooseDoor t aud) : DoorChosen aud t := by
  have e : chooseDoor t aud = chooseDoor t aud := rfl
  unfold DoorChosen
  rw [h]
  unfold chooseDoor
  constructor
  · intro k hk
    split at hk
    · rename_i sh hs
      obtain ⟨hm, hl⟩ := earliest_some hs
      obtain ⟨h1, h2, h3, h4⟩ := mem_todayIn.1 hm
      cases hk
      refine ⟨sh, h1, rfl, h2, h3, Or.inl ⟨by simpa using h4, fun x hx d a st => hl x (mem_todayIn.2 ⟨hx, d, a, by simpa using st⟩)⟩⟩
    · rename_i hs
      have hn := earliest_none hs
      rw [Option.map_eq_some_iff] at hk
      obtain ⟨sh, hsh, rfl⟩ := hk
      obtain ⟨hm, hl⟩ := earliest_some hsh
      obtain ⟨h1, h2, h3, h4⟩ := mem_todayIn.1 hm
      refine ⟨sh, h1, rfl, h2, h3, Or.inr ⟨by simpa using h4, fun x hx d a => ?_⟩⟩
      have : x ∉ (todayIn t aud).filter (fun sh => sh.state == .seating || sh.state == .running) := by rw [hn]; simp
      rw [mem_todayIn] at this
      refine ⟨fun c => this ⟨hx, d, a, by simp [c]⟩, fun c => this ⟨hx, d, a, by simp [c]⟩,
        fun c => hl x (mem_todayIn.2 ⟨hx, d, a, by simp [c]⟩)⟩
  · intro hk x hx d a
    split at hk
    · cases hk
    · rename_i hs
      have hn := earliest_none hs
      rw [Option.map_eq_none_iff] at hk
      have hn2 := earliest_none hk
      have h1 : x ∉ (todayIn t aud).filter (fun sh => sh.state == .seating || sh.state == .running) := by rw [hn]; simp
      have h2 : x ∉ (todayIn t aud).filter (fun sh => sh.state == .onSale) := by rw [hn2]; simp
      rw [mem_todayIn] at h1 h2
      exact ⟨fun c => h2 ⟨hx, d, a, by simp [c]⟩, fun c => h1 ⟨hx, d, a, by simp [c]⟩, fun c => h1 ⟨hx, d, a, by simp [c]⟩⟩

theorem recomputeDoor_at (s : State) (aud a : Nat) (hl : s.shows.doors.length = 16) (h1 : 1 ≤ aud) (h2 : aud ≤ 16)
    (ha : 1 ≤ a) : (recomputeDoor s aud).doorShow a = if a = aud then chooseDoor s aud else s.doorShow a := by
  unfold recomputeDoor State.doorShow State.withShows
  simp only [List.getElem?_set, hl]
  by_cases e : a = aud
  · subst e; have : a - 1 < 16 := by omega
    simp [this]
  · have : ¬ (aud - 1 = a - 1) := by omega
    simp [e, this]

/-- Recomputing an entry makes it R20's (R20). -/
theorem recomputeDoor_chosen (s : State) (aud : Nat) (hl : s.shows.doors.length = 16) (h1 : 1 ≤ aud) (h2 : aud ≤ 16) :
    DoorChosen aud (recomputeDoor s aud) :=
  doorChosen_of (by rw [recomputeDoor_at s aud aud hl h1 h2 h1]; simp; rfl)

/-! ### What an evaluation makes of a record -/

/-- Two records of one show that an evaluation cannot tell apart (R11). -/
def Show.sameTimes (x y : Show) : Prop :=
  y.state = x.state ∧ y.started = x.started ∧ y.day = x.day ∧ y.start = x.start ∧ y.delay = x.delay ∧ y.run = x.run

theorem sameTimes_refl (x : Show) : x.sameTimes x := ⟨rfl, rfl, rfl, rfl, rfl, rfl⟩
theorem sameTimes_trans {x y z : Show} (a : x.sameTimes y) (b : y.sameTimes z) : x.sameTimes z := by
  unfold Show.sameTimes at *; simp_all

theorem sameTimes_due {x y : Show} (h : x.sameTimes y) (p : Policy) (c : Clock) :
    dueTransition p c y = dueTransition p c x := by
  obtain ⟨h1, h2, h3, h4, h5, h6⟩ := h
  unfold dueTransition Show.effStart
  rw [h1, h3, h4, h5, h6]

theorem sameTimes_advanced {x y : Show} (h : x.sameTimes y) (p : Policy) (c : Clock) :
    (x.advanced p c).sameTimes (y.advanced p c) := by
  unfold Show.advanced
  rw [sameTimes_due h p c]
  split
  · obtain ⟨h1, h2, h3, h4, h5, h6⟩ := h
    exact ⟨rfl, by simp [h2], h3, h4, h5, h6⟩
  · exact h

theorem evalOnce_record (b : Bool) (key : Nat) (w : State) (x : Show) (h : w.findShow key = some x) :
    ∃ y, (evalOnce b key w).findShow key = some y ∧ (x.advanced w.policy w.shows.clock).sameTimes y := by
  obtain ⟨y, hy, hs⟩ := (moved_evalOnce b key w).same x h
  refine ⟨y, hy, ?_⟩
  cases hd : dueTransition w.policy w.shows.clock x with
  | none =>
    have e : evalOnce b key w = w := by unfold evalOnce; rw [h]; simp only [hd]
    rw [e, h] at hy
    cases hy
    unfold Show.advanced
    rw [hd]
    exact sameTimes_refl x
  | some d =>
    obtain ⟨st, e⟩ := d
    have he : evalOnce b key w = enterState b key st e w := by unfold evalOnce; rw [h]; simp only [hd]
    obtain ⟨z, hz, h1, h2⟩ := enterState_state b key st e w x h
    rw [he, hz] at hy
    cases hy
    unfold Show.advanced
    rw [hd]
    have r := hs.record
    exact ⟨h1, h2, by rw [r], by rw [r], by rw [r], by rw [r]⟩

/-- An evaluation leaves a show in the state, with the started-by and running-since, that `Show.evaluated` says (R11). -/
theorem evaluate_record (b : Bool) (key : Nat) (w : State) (x : Show) (h : w.findShow key = some x) :
    ∃ y, (evaluate b key w).findShow key = some y ∧ (x.evaluated w.policy w.shows.clock).sameTimes y := by
  have once : ∀ (v : State) (x' y : Show), v.policy = w.policy → v.shows.clock = w.shows.clock →
      v.findShow key = some y → x'.sameTimes y →
      (evalOnce b key v).policy = w.policy ∧ (evalOnce b key v).shows.clock = w.shows.clock ∧
      ∃ z, (evalOnce b key v).findShow key = some z ∧ (x'.advanced w.policy w.shows.clock).sameTimes z := by
    intro v x' y hp hc hy hs
    have m := moved_evalOnce b key v
    refine ⟨m.policy.trans hp, m.clock.trans hc, ?_⟩
    obtain ⟨z, hz, hz'⟩ := evalOnce_record b key v y hy
    rw [hp, hc] at hz'
    exact ⟨z, hz, sameTimes_trans (sameTimes_advanced hs _ _) hz'⟩
  obtain ⟨p1, c1, y1, f1, s1⟩ := once w x x rfl rfl h (sameTimes_refl x)
  obtain ⟨p2, c2, y2, f2, s2⟩ := once _ _ y1 p1 c1 f1 s1
  obtain ⟨p3, c3, y3, f3, s3⟩ := once _ _ y2 p2 c2 f2 s2
  obtain ⟨_, _, y4, f4, s4⟩ := once _ _ y3 p3 c3 f3 s3
  exact ⟨y4, f4, s4⟩

/-! ### What a change of shows files -/

theorem LinesFiled.refl (j : Journal) : LinesFiled j j := ⟨[], by simp, rfl⟩

theorem LinesFiled.of_eq {j k : Journal} (h : k = j) : LinesFiled j k := h ▸ LinesFiled.refl j

theorem LinesFiled.trans {j k l : Journal} (h1 : LinesFiled j k) (h2 : LinesFiled k l) : LinesFiled j l := by
  obtain ⟨f, hf, rfl⟩ := h1
  obtain ⟨g, hg, rfl⟩ := h2
  refine ⟨f ++ g, fun x hx => ?_, by rw [List.foldl_append]⟩
  rcases List.mem_append.1 hx with hx | hx
  · exact hf x hx
  · exact hg x hx

theorem LinesFiled.line (j : Journal) (key : Nat) (f : Form) : LinesFiled j (j.filed (.boardLine key) f) :=
  ⟨[(.boardLine key, f)], by simp, rfl⟩

theorem LinesFiled.door (j : Journal) (aud : Nat) (f : Form) : LinesFiled j (j.filed (.door aud) f) :=
  ⟨[(.door aud, f)], by simp, rfl⟩

theorem LinesFiled.foldl {α : Type} (g : State → α → State) (h : ∀ s x, LinesFiled s.journal (g s x).journal) (l : List α)
    (s : State) : LinesFiled s.journal (l.foldl g s).journal := by
  induction l generalizing s with
  | nil => exact LinesFiled.refl _
  | cons x l ih => exact (h s x).trans (ih _)

theorem publishLine_filed (key : Nat) (s : State) : LinesFiled s.journal (publishLine key s).journal := by
  unfold publishLine
  repeat' split
  · exact LinesFiled.refl _
  · rw [file_journal]; exact LinesFiled.line _ _ _
  · exact LinesFiled.refl _
  · rw [file_journal]; exact LinesFiled.line _ _ _
  · rw [file_journal]; exact LinesFiled.line _ _ _

theorem publishDoor_filed (aud : Nat) (s : State) : LinesFiled s.journal (publishDoor aud s).journal := by
  unfold publishDoor
  split
  · exact LinesFiled.refl _
  · rw [file_journal]; exact LinesFiled.door _ _ _

theorem publishShow_filed (key : Nat) (auds : List Nat) (s : State) :
    LinesFiled s.journal (publishShow key auds s).journal :=
  (publishLine_filed key s).trans
    ((LinesFiled.foldl _ (fun s a => publishDoor_filed a s) _ _).trans
      (LinesFiled.foldl _ (fun s k => publishLine_filed k s) _ _))

/-- An entry files lines and doors alone, when it withdraws no DELAY notice. -/
theorem enterState_filed (b : Bool) (key : Nat) (st : ShowState) (x : Option (StartedBy × Nat)) (s : State)
    (h : st = .running ∨ st = .cancelled → s.notice.slotsWhere (isDelayOf key) = []) :
    LinesFiled s.journal (enterState b key st x s).journal := by
  unfold enterState
  split
  · exact LinesFiled.refl _
  · rename_i sh _
    dsimp only
    have hn : ∀ u : State, u.notice = s.notice → u.journal = s.journal → (noticeAtEntry key st u).journal = s.journal := by
      intro u hu hj
      unfold noticeAtEntry
      split
      · simp [withdrawDelay, withdrawWhere, hu, h, hj]
      · simp [withdrawDelay, withdrawWhere, hu, h, hj]
      · exact hj
    have key_part : ∀ u : State, u.notice = s.notice → u.journal = s.journal →
        LinesFiled s.journal (raiseAll .showChange
          (if b = true then publishShow key [sh.aud] (noticeAtEntry key st u) else noticeAtEntry key st u)).journal := by
      intro u hu hj
      have e := hn u hu hj
      split
      · simpa [e] using publishShow_filed key [sh.aud] (noticeAtEntry key st u)
      · simpa [e] using LinesFiled.refl s.journal
    exact key_part _ (by simp) (by simp)

end Sys2Proof.Machine
end

