-- ==== Sys2Proof/Tests/Slice0.lean ====
section
/-! SUPPORT. Tests of the model on fixed values, and one witness for the hypotheses of each statement. -/

namespace Sys2Proof.Tests

open Sys2Proof Sys2Proof.Machine

set_option Elab.async false

/-! ### Small states -/

/-- A request of terminal 2 on Sales Port A, and one of the programme server. -/
def headA : Hdr := ⟨.salesA, 1, 2⟩
def headP : Hdr := ⟨.programme, 7, 0⟩

/-- A running part with default items. -/
def base : State := { State.reset with phase := .running }

def show5 : Show :=
  ⟨5, 0, 0, 1, 3, 700, 120, 0, ⟨100, 10, 5, 2⟩, ⟨20, 0, 0, 0⟩, ⟨4, 0, 0, 0⟩, .onSale, none, false, false, .open_, ⟨100, true⟩, none⟩

def deskNotice : Notice := ⟨.sales .salesA 2, .desk, .normal, .all, [72, 105], .once 1, none, 1⟩

/-- A running part with one show on sale, one ACTIVE hold of Sales Port A on it, a one-spot reel playing and a notice. -/
def hall : State :=
  { base with
    shows := { base.shows with shows := [show5], doors := some 5 :: List.replicate 15 none, clock := ⟨true, 600, 0⟩ }
    seat := ⟨⟨1, .active ⟨5, .standard, 2, .salesA, 2, 0⟩ 100⟩ :: List.replicate 191 ⟨0, .never⟩,
      (List.range 191).map (· + 1), 1, 0, 1⟩
    reel := ⟨[⟨9, 255, 40, 20, none⟩], ⟨[9], 0, .spot 40 20, 20, .playing, 1⟩ :: List.replicate 3 (Reel.ofSlots [])⟩
    notice := ⟨⟨1, some deskNotice⟩ :: List.replicate 31 ⟨0, none⟩, 1, 1, 0⟩ }

/-- The hall with its show in another state. -/
def hallIn (st : ShowState) : State := hall.modifyShow 5 (fun sh => { sh with state := st })
def hallAlert (a : AlertState) : State := hall.withAlert a
def hallStore (x : StoreState) : State := hall.withStore ⟨x, none⟩

/-- The part with panel 1 present in a state, its idle time 30. -/
def panelOne (st : PanelState) : Panel :=
  { Panel.ofConfig { PanelConfig.default with present := true } with state := st, idle := 30 }
def linked (st : PanelState) (c : LinkCond) : State := (hall.withPanelAt 1 (panelOne st)).withCond c

/-- A transaction to panel 1 with its window open. -/
def opened (kind : FrameKind) (batch : Bool) : Transaction := ⟨1, kind, batch, some 1, false, false⟩

/-- The nine bytes of a panel's answer from address 1. -/
def answerBytes (kind reason request fault report : Byte) : List Byte :=
  0xB4 :: [1, kind, reason, request, fault, report] ++ wordBytes (crc16 [1, kind, reason, request, fault, report])

theorem sized_of {s : State}
    (h : [s.shows.titles.length, s.shows.doors.length, s.seat.slots.length, s.board.doors.length,
      s.board.titles.length, s.reel.reels.length, s.notice.slots.length, s.house.map.length, s.house.lines.length,
      s.link.panels.length] = [64, 16, 192, 16, 64, 4, 32, 16, 16, 24])
    (hi : s.store.image = none) : Sized s := by
  simp only [List.cons.injEq, and_true] at h
  obtain ⟨h1, h2, h3, h4, h5, h6, h7, h8, h9, h10⟩ := h
  exact ⟨h1, h2, h3, h4, h5, h6, h7, h8, h9, h10, fun i e => by rw [hi] at e; cases e⟩

theorem sized_base : Sized base := sized_of (by decide +kernel) rfl
theorem sized_hall : Sized hall := sized_of (by decide +kernel) rfl

/-- The state a command answers. -/
def after (o : StepOutcome) : State :=
  match o with
  | .next t => t
  | _ => State.reset

def isNext : StepOutcome → Bool
  | .next _ => true
  | _ => false

theorem exists_next {o : StepOutcome} (h : isNext o = true) : ∃ t, o = .next t := by
  cases o with
  | next t => exact ⟨t, rfl⟩
  | fault f => cases h
  | refused r => cases h

/-- The reply a request gets, sent to a state. -/
def answered (c : Instr) (s : State) : Option Reply :=
  (requestBody c).bind (fun x => (((after (exec c s)).portAt x.1.port).answers.getLast?).map (·.reply))

/-- The answer codes of requests in their turn, each sent to the same state. -/
def codes (s : State) (l : List Instr) : List (Option Result) :=
  l.map (fun c =>
    match requestBody c with
    | some (h, _, _) =>
      if Ready c s then ((((after (exec c s)).portAt h.port).answers.getLast?).map (·.reply.code)) else none
    | none => none)

/-! ### The check of a command's own form -/

theorem test_form_order : Instr.wf (.tick1s [.clock, .seat, .seat, .link] allMin) = false ∧
    Instr.wf (.minuteBoundary [.shows]) = false ∧ Instr.wf (.tick1ms 0 .low [.house]) = false ∧
    Instr.wf (.tick1s [.link, .clock, .reel, .seat] allMin) = true := by decide
theorem test_form_places : Instr.wf (.holdExpiry 192) = false ∧ Instr.wf (.reelItemEnd 4) = false ∧
    Instr.wf (.startLineQualified 16) = false ∧ Instr.wf (.panelPollDue 0) = false ∧
    Instr.wf (.panelProbeDue 25) = false ∧ Instr.wf (.holdExpiry 191) = true := by decide
theorem test_form_frames : Instr.wf (.requestFrame .salesA [0, 1, 5, 3, 0]) = false ∧
    Instr.wf (.panelAnswer [1, 2]) = false ∧ Instr.wf (.requestFrame .salesA [0, 0, 5, 3, 0, 1, 2]) = true := by decide
theorem test_form_widths : Instr.wf (.holdSeats headA 65536 0 1) = false ∧ Instr.wf (.holdSeats headA 1 256 1) = false ∧
    Instr.wf (.setCauseMask headA 256) = false ∧ Instr.wf (.setCauseMask headP 65536) = false ∧
    Instr.wf (.setPolicy headP [(0, 256)]) = false ∧ Instr.wf (.setPolicy headP [(3, 65536)]) = false ∧
    Instr.wf (.buildReel headP 0 [(65536, 1)] 0) = false ∧ Instr.wf (.setClock headP 65536 0) = false := by decide
theorem test_form_fields :
    Instr.wf (.postNotice headA 3 1 (.unknown 2) [] (.once 5) none none) = false ∧
    Instr.wf (.postNotice headA 3 1 .all [] (.unknown 2) none none) = false ∧
    Instr.wf (.setPanel headP 1 true (.unknown 3) 0) = false ∧
    Instr.wf (.postNotice headA 3 1 .all (List.replicate 256 65) (.once 5) none none) = false ∧
    Instr.wf (.loadShow headP 1 0 1 0 0 0 0 (0, 0, 0) false none (none, some 65536, none) (none, none, none) false) = false ∧
    Instr.wf (.amendShow headP 1 none none none none (some (some 65536)) none) = false := by decide +kernel

/-! ### Checks, encodings -/

/-- The check value of the CRC-16 of R192 over the digits 1 to 9. -/
theorem test_crc16 : crc16 [49, 50, 51, 52, 53, 54, 55, 56, 57] = 0x29B1#16 := by decide +kernel

/-- A Hold Seats request's body, written out: show 5, zone PREMIUM, 2 seats (R192). -/
theorem test_bodies : parseBody headA 1 [0, 5, 1, 2] = some (.holdSeats headA 5 1 2) ∧
    parseBody headA 2 [191, 7] = some (.confirmHold headA 191 7) ∧
    parseBody headP 114 [5, 160, 0] = some (.setClock headP 1440 0) ∧ parseBody headP 90 [] = some (.clearAlert headP) ∧
    parseBody headP 90 [0] = none ∧ parseBody headA 1 [0, 5, 1] = none ∧
    parseBody headP 67 [3] = some (.clearReel headP 3) := by decide +kernel

theorem test_portChecks : portCheck .salesA ⟨1, 114, 0, [0, 0, 0]⟩ = some .notPermitted ∧
    portCheck .programme ⟨1, 1, 0, [0, 5, 1, 2]⟩ = some .notPermitted ∧
    portCheck .salesA ⟨1, 17, 0, []⟩ = some .unknownRequest ∧ portCheck .salesB ⟨1, 1, 64, [0, 5, 1, 2]⟩ = some .badArgument ∧
    portCheck .salesB ⟨1, 1, 63, [0, 5, 1, 2]⟩ = none := by decide +kernel

/-- R99: the sequences of section 5.7, with steps 2, 4, 3 and 12. -/
theorem test_reelOrders : buildSlots [(1, 2), (2, 1), (3, 1)] 2 = [1, 2, 1, 3] ∧
    buildSlots [(1, 3), (2, 2), (3, 1)] 4 = [1, 2, 1, 3, 1, 2] ∧ buildSlots [(1, 3), (2, 2), (3, 1)] 3 = [1, 1, 2, 1, 2, 3] ∧
    buildSlots [(1, 3), (2, 2), (3, 1)] 12 = [1, 1, 1, 2, 2, 3] := by
  decide +kernel

/-! ### Reset, start-up, ticks -/

theorem test_reset : State.reset.phase = .inReset ∧ State.reset.pending = [] ∧ State.reset.policy = .default ∧
    (∀ p, attention p State.reset = false) := ⟨rfl, rfl, rfl, fun p => by cases p <;> decide⟩

/-- A start-up with the image failing its check: 100 ticks of a low alert line, and the part runs. -/
theorem test_startUp : ((after (exec (.startUp 1 false) State.reset)).lineState 0).stable = .high ∧
    (after (exec (.startUp 1 false) State.reset)).storeInvalid = true ∧
    (after (exec (.startUpAlertFound .low)
      ((after (exec (.startUp 1 false) State.reset)).withAlertLine ⟨.low, 99⟩))).phase = .running := by decide +kernel

theorem test_idle : step base = .next base := rfl

theorem test_clock : (after (exec (.tick1s [] []) hall)).shows.clock = ⟨true, 600, 1⟩ ∧
    (after (exec (.tick1s [] []) (hall.withClock ⟨true, 1439, 59⟩))).shows.clock = ⟨true, 0, 0⟩ ∧
    (after (exec (.minuteBoundary []) (hall.withClock ⟨true, 1439, 59⟩))).shows.shows = [] := by decide +kernel

/-- The show starts seating doors_lead minutes before it starts (R11). -/
theorem test_doors : ((after (exec (.minuteBoundary []) (hall.withClock ⟨true, 679, 59⟩))).findShow 5).map (·.state) =
      some .seating ∧
    ((after (exec (.minuteBoundary []) (hall.withClock ⟨true, 678, 59⟩))).findShow 5).map (·.state) = some .onSale := by
  decide +kernel

/-! ### Witnesses: the hypotheses of each statement, met together by a concrete state and concrete operands -/

theorem met_StepRunsTheFrontCommand : ∃ (c : Instr) (rest : List Instr) (s : State), s.pending = c :: rest ∧ base.pending = [] :=
  ⟨.hardReset, [.storeFault], base.withPending [.hardReset, .storeFault], rfl, rfl⟩

theorem met_RequestBodiesReadBack : ∃ i h k b, Instr.wf i = true ∧ requestBody i = some (h, k, b) :=
  ⟨.loadShow headP 65535 6 16 63 1439 300 180 (1023, 1023, 1023) true (some 65535) (some 0, none, some 1023)
    (none, none, none) true, _, _, _, by decide +kernel, rfl⟩

theorem met_BytesMakeTheFrame : ∃ f : Frame, ∃ x : PortState, f.body.length ≤ 255 ∧ f.body.length = 255 ∧ x.receiver = .hunting :=
  ⟨⟨1, 2, 3, List.replicate 255 0⟩, .reset, by decide +kernel, by decide +kernel, rfl⟩

theorem met_StepKeepsTheSizes : ∃ s t, Sized s ∧ step s = .next t :=
  have ⟨t, h⟩ := exists_next (o := step (hall.withPending [.cancelShow headP 5])) (by decide +kernel)
  ⟨_, t, sized_of (by decide +kernel) rfl, h⟩

theorem met_StepKeepsTheJournalLaw : ∃ s t, JournalLaw s.journal ∧ s.journal.entries.length = 2 ∧ step s = .next t :=
  have ⟨t, h⟩ := exists_next
    (o := step ((hall.withJournal ⟨65535, 9, [⟨10, .alert, .update⟩, ⟨65535, .notices, .update⟩]⟩).withPending
      [.cancelShow headP 5])) (by decide +kernel)
  ⟨_, t, ⟨by decide +kernel, by decide +kernel, by decide +kernel, by decide +kernel, by decide +kernel, by decide +kernel⟩,
    by decide +kernel, h⟩

theorem met_StepKeepsThePanelLaw : ∃ s t, JournalLaw s.journal ∧ PanelLaw s ∧ step s = .next t := by
  have ⟨t, h⟩ := exists_next (o := step ((linked .syncing .idle).withPending [.panelGrant])) (by decide +kernel)
  refine ⟨_, t, ⟨by decide +kernel, by decide +kernel, by decide +kernel, by decide +kernel, by decide +kernel,
    by decide +kernel⟩, fun p hp => ?_, h⟩
  have e : ∀ q ∈ (linked .syncing .idle).link.panels, q.shown = 0 ∧ q.batch = none ∧ q.refresh = none := by decide +kernel
  have ⟨e1, e2, e3⟩ := e p hp
  refine ⟨e1 ▸ Nat.zero_le _, ?_, ?_⟩
  · intro b r hb; rw [e2] at hb; cases hb
  · intro f hf; rw [e3] at hf; cases hf

theorem met_StepKeepsThePortsLaw : ∃ s t, PortsLaw s ∧ step s = .next t :=
  have ⟨t, h⟩ := exists_next (o := step (hall.withPending [.cancelShow headP 5])) (by decide +kernel)
  ⟨_, t, fun p => by
    have e : State.portAt (hall.withPending [.cancelShow headP 5]) p = PortState.reset := by cases p <;> rfl
    rw [e]
    exact ⟨⟨by decide, by decide, by decide, by decide, by decide, by decide, by decide, fun n _ => by simp [PortState.reset]⟩,
      fun f h => by cases h⟩, h⟩

theorem met_StepKeepsTheAlertLaw : ∃ s t, AlertLaw s ∧ s.phase = .running ∧ s.house.alert = .held ∧ step s = .next t :=
  have ⟨t, h⟩ := exists_next (o := step ((hallAlert .held).withPending [.clearAlert headP])) (by decide +kernel)
  ⟨_, t, fun _ => by decide +kernel, rfl, rfl, h⟩

theorem hall_seatLaw : SeatLaw hall := by
  refine ⟨⟨by decide +kernel, by decide +kernel, fun i => ?_, by decide +kernel, by decide +kernel⟩, by decide +kernel, ?_, ?_⟩
  · by_cases hi : i < 192
    · have e : ∀ j ∈ List.range 192, (j ∈ hall.seat.free ↔ ((hall.seat.slots)[j]?.map HoldSlot.isActive) = some false) := by
        decide +kernel
      have := e i (List.mem_range.2 hi)
      rw [this]; simp [Option.map_eq_some_iff]
    · have h1 : ∀ j ∈ hall.seat.free, j < 192 := by decide +kernel
      have h2 : (hall.seat.slots)[i]? = none := by
        apply List.getElem?_eq_none
        have : hall.seat.slots.length = 192 := by decide +kernel
        omega
      constructor
      · intro h; exact absurd (h1 i h) hi
      · rintro ⟨x, hx, _⟩; rw [h2] at hx; cases hx
  · intro sh hs z
    have : sh = show5 := by simpa [hall] using hs
    subst this
    cases z <;> decide +kernel
  · intro x hx info life hu
    have e : ∀ x ∈ hall.seat.slots, x = ⟨1, .active ⟨5, .standard, 2, .salesA, 2, 0⟩ 100⟩ ∨ x = ⟨0, .never⟩ := by
      decide +kernel
    rcases e x hx with rfl | rfl
    · cases hu; exact ⟨by decide, by decide, show5, by simp [hall], rfl⟩
    · cases hu

theorem met_StepKeepsTheSeatLaw : ∃ s t, SeatLaw s ∧ step s = .next t :=
  have ⟨t, h⟩ := exists_next (o := step (hall.withPending [.cancelShow headP 5])) (by decide +kernel)
  ⟨hall.withPending [.cancelShow headP 5], t, hall_seatLaw, h⟩

theorem met_HardResetStopsThePart : (hallStore .erasing).store.state = .erasing ∧ (hallStore .checking).store.state = .checking ∧
    (after (exec .hardReset ((hallStore .checking).withStore ⟨.checking, some .default⟩))).store.image = some .default := by
  decide +kernel

theorem met_StartUpReadsTheImage : ∃ (s : State) (i : SetupImage), s.phase = .inReset ∧ s.store.image = some i ∧ State.reset.store.image = none :=
  ⟨State.reset.withStore ⟨.idle, some .default⟩, .default, rfl, rfl, rfl⟩

/-- Both readings of the line, with a reel that has a slot and one that has none. -/
theorem met_StartUpFindsTheAlert : ∀ level, ∃ s : State, Sized s ∧ s.phase = .starting ∧ level = s.house.alertLine.stable ∧
    0 < s.house.alertLine.count ∧ s.house.alertEntry.debounce ≤ s.house.alertLine.count + 1 ∧
    (s.reelAt 0).slots ≠ [] ∧ (s.reelAt 1).slots = [] ∧
    readsActive s.house.alertEntry.polarity level = (level == .high) :=
  fun level => ⟨(hall.withPhase .starting).withAlertLine ⟨level, 99⟩, sized_of (by cases level <;> decide +kernel) rfl, rfl,
    rfl, by cases level <;> decide +kernel, by cases level <;> decide +kernel, by cases level <;> decide +kernel,
    by cases level <;> decide +kernel, by cases level <;> decide +kernel⟩

/-- Each kind of receiver and a window above 1. -/
theorem met_MillisecondTick : ∃ (s : State) (tr : Transaction), Sized s ∧ s.phase = .running ∧ (s.portAt .salesA).receiver = .inFrame [] 4 ∧
    (s.portAt .salesB).receiver = .hunting ∧ s.link.cond = .transaction tr ∧ tr.window = some 2 :=
  ⟨(linked .current (.transaction { opened .poll false with window := some 2 })).withPortAt .salesA
      { PortState.reset with receiver := .inFrame [] 4 }, _, sized_of (by decide +kernel) rfl, rfl, rfl, rfl, rfl, rfl⟩

/-- The hall with a note of a pattern in progress, and the alert line one sample before its qualified change. -/
def ringing (pattern : ChimePattern) (left : Nat) (pending : Option ChimePattern) : State :=
  (hall.withChime { hall.chime with playing := some ⟨pattern, [⟨64, 6⟩], 0, left⟩, pending := pending }).withAlertLine ⟨.low, 99⟩

/-- A note with milliseconds left, one at its last, no pattern; a sample that qualifies no change, and one that does. -/
theorem met_MillisecondTick_chime : Sized (ringing .attention 2 none) ∧ (ringing .attention 2 none).phase = .running ∧
    (∀ left ∈ [1, 2], ((ringing .reminder left none).chime.playing.map (·.left)) = some left) ∧ hall.chime.playing = none ∧
    ((ringing .attention 2 none).house.alertLine.sample (ringing .attention 2 none).house.alertEntry.debounce .low).2 = false ∧
    ((ringing .attention 2 none).house.alertLine.sample (ringing .attention 2 none).house.alertEntry.debounce .high).2 = true ∧
    readsActive (ringing .attention 2 none).house.alertEntry.polarity .high = true ∧
    (ringing .attention 2 none).house.alert ≠ .alert ∧ (ringing .attention 2 none).policy.chimeEnable = true ∧
    (ringing .attention 2 none).chime.alarm ≠ [] :=
  ⟨sized_of (by decide +kernel) rfl, by decide +kernel⟩

/-- The milliseconds left fall by one at each tick; the alert line's change puts ALARM in progress in either order. -/
theorem test_chimeTick :
    ((after (exec (.tick1ms 0 .low []) (ringing .attention 2 none))).chime.playing.map (·.left)) = some 1 ∧
    (after (exec (.tick1ms 0 .low []) (ringing .attention 1 none))).chime.playing = none ∧
    (∀ order ∈ [[MsReceiver.house, .chime], [.chime, .house]],
      ((after (exec (.tick1ms 0 .high order) (ringing .attention 2 none))).chime.playing.map (·.pattern)) = some .alarm) := by
  decide +kernel

/-- The last second that brings no boundary; a hold at its last second, a reel that runs and one that does not. -/
theorem met_SecondTick : ∃ (s : State) (info : HoldInfo), Sized s ∧ s.phase ≠ .inReset ∧ s.shows.clock = ⟨true, 600, 58⟩ ∧ s.house.alert = .normal ∧
    (s.holdSlot 0).use = .active info 1 ∧ (s.reelAt 0).runs = true ∧ (s.reelAt 0).countdown = 20 ∧
    (s.reelAt 1).runs = false ∧ (s.panelAt 24).state ≠ .absent :=
  ⟨(((hall.withClock ⟨true, 600, 58⟩).withHoldSlot 0 ⟨1, .active ⟨5, .standard, 2, .salesA, 2, 0⟩ 1⟩).withPanelAt 24
      (panelOne .current)), _, sized_of (by decide +kernel) rfl, by decide +kernel, rfl, rfl, rfl, by decide +kernel,
    by decide +kernel, by decide +kernel, by decide +kernel⟩

theorem met_SecondTick_alert : Sized (hallAlert .alert) ∧ (hallAlert .alert).phase ≠ .inReset ∧
    (hallAlert .alert).shows.clock.second < 59 ∧ (hallAlert .alert).house.alert ≠ .normal :=
  ⟨sized_of (by decide +kernel) rfl, by decide +kernel, by decide +kernel, by decide +kernel⟩

/-- A boundary that advances the minute and one that rolls the day; a DELAY notice, a CANCEL notice and two that fall due. -/
def noticed (minute : Nat) : State :=
  ((hall.withShowList [{ show5 with state := .cancelled }, { show5 with key := 6, day := 1, std := ⟨0, 0, 0, 0⟩ }]).withClock
    ⟨true, minute, 59⟩).withNotice { hall.notice with
      slots := ⟨1, some deskNotice⟩ :: ⟨1, some { deskNotice with prio := .high, life := .repeats 60 1, origin := .programme }⟩ ::
        ⟨1, some { deskNotice with cls := .cancel, linked := some 5, life := .once 2, origin := .programme }⟩ ::
        ⟨1, some { deskNotice with cls := .delay, linked := some 6, life := .once 2, origin := .programme }⟩ ::
        List.replicate 28 ⟨0, none⟩ }

theorem met_MinuteBoundary : ∀ minute ∈ [818, 819, 1438, 1439], Sized (noticed minute) ∧
    (noticed minute).phase ≠ .inReset ∧ (noticed minute).shows.clock.valid = true ∧ 59 ≤ (noticed minute).shows.clock.second ∧
    (noticed minute).shows.shows.Pairwise (fun a b => a.key < b.key) ∧ (noticed minute).shows.clock.minute = minute :=
  fun m hm => ⟨sized_of (by revert m; decide +kernel) rfl, by revert m; decide +kernel⟩

/-- The window of show 5 closes at minute 820; the roll takes its notice with it (R129, R24). -/
theorem test_boundaryNotices : (let live := fun minute => (List.range 4).map (fun i =>
      ((after (exec (.minuteBoundary []) (noticed minute))).noticeSlot i).notice.map (·.life))
    live 818 = [none, some (.repeats 60 60), some (.once 1), some (.once 1)] ∧
    live 819 = [none, some (.repeats 60 60), none, some (.once 1)] ∧
    live 1439 = [none, some (.repeats 60 60), none, some (.once 1)]) ∧
    ((after (exec (.minuteBoundary []) (noticed 1439))).shows.shows.map (fun y => (y.key, y.day))) = [(6, 0)] := by
  decide +kernel

theorem met_MinuteBoundary_clauses :
    ¬ (noticed 819).shows.clock.minute = 1439 ∧ (noticed 1439).shows.shows.map (·.day) = [0, 1] ∧
    ((noticed 819).noticeSlot 0).notice = some deskNotice ∧ deskNotice.life = .once 1 ∧
    deskNotice.origin = .sales .salesA 2 ∧ deskNotice.linked = none ∧
    ((noticed 819).noticeSlot 1).notice.map (fun n => (n.linked, n.prio, n.life)) = some (none, .high, .repeats 60 1) ∧
    ((after (exec (.minuteBoundary []) (noticed 818))).shows.shows.map (fun y => (y.day, y.state))) =
      [(0, .cancelled), (1, .onSale)] := by
  decide +kernel

theorem met_WindowOver : WindowOver ((noticed 820).withClock ⟨true, 820, 0⟩)
      { deskNotice with cls := .cancel, linked := some 5, life := .once 2, origin := .programme } ∧
    ¬ WindowOver ((noticed 820).withClock ⟨true, 819, 0⟩)
      { deskNotice with cls := .cancel, linked := some 5, life := .once 2, origin := .programme } ∧
    StateKept hall hall { deskNotice with cls := .delay, linked := some 5 } := by
  refine ⟨⟨rfl, rfl, 5, { show5 with state := .cancelled }, rfl, by decide +kernel, rfl, by decide +kernel⟩, ?_,
    fun _ k _ => rfl⟩
  rintro ⟨_, _, k, sh, hk, hf, _, hm⟩
  cases hk
  have : sh = { show5 with state := .cancelled } := by
    have e : ((noticed 820).withClock ⟨true, 819, 0⟩).findShow 5 = some { show5 with state := .cancelled } := by decide +kernel
    rw [e] at hf; exact (Option.some.inj hf).symm
  subst this
  exact absurd hm (by decide +kernel)

theorem met_HoldExpires : ∃ (s : State) (info : HoldInfo), 0 < s.seat.slots.length ∧ s.phase ≠ .inReset ∧ s.house.alert = .normal ∧ 1 ≤ 1 ∧
    (s.holdSlot 0).use = .active info 1 ∧ info.port ≠ .programme :=
  ⟨hall.withHoldSlot 0 ⟨1, .active ⟨5, .standard, 2, .salesA, 2, 0⟩ 1⟩, _, by decide +kernel, by decide +kernel, rfl,
    Nat.le_refl 1, rfl, by decide⟩

theorem met_ReelItemEnds : ∃ s : State, Sized s ∧ s.phase ≠ .inReset ∧ s.house.alert = .normal ∧ (s.reelAt 3).runs = true ∧
    (s.reelAt 3).countdown ≤ 1 :=
  ⟨hall.withReelAt 3 ⟨[9], 0, .spot 40 20, 1, .playing, 65535⟩, sized_of (by decide +kernel) rfl, by decide +kernel, rfl,
    by decide +kernel, by decide +kernel⟩

/-- A lap with an eligible spot, and one without. -/
theorem met_CueSearch : (searchSlot hall false (hall.reelAt 0)).isSome = true ∧
    (hall.reelAt 0).cursor < (hall.reelAt 0).slots.length ∧
    (∀ i key, i ∈ searchOrder true (Reel.ofSlots [8]) → ((Reel.ofSlots [8]).slots)[i]? = some key →
      eligible hall key = false) ∧
    (cued hall true (Reel.ofSlots [8])).state = .filler ∧
    (∀ x ∈ [{ Reel.ofSlots [8, 9, 10] with cursor := 2 }], searchOrder true x = [2, 0, 1] ∧ searchOrder false x = [0, 1, 2]) ∧
    (let s := hall.withReel { hall.reel with spots := [⟨9, 255, 40, 20, some 3⟩] }
     eligible s 9 = true ∧ eligible (s.modifyShow 5 (fun sh => { sh with band := .soldOut })) 9 = false) := by
  refine ⟨by decide +kernel, by decide +kernel, ?_, by decide +kernel, by decide +kernel, by decide +kernel⟩
  intro i key hi hk
  have : i = 0 := by simpa [searchOrder, Reel.ofSlots] using hi
  subst this
  cases hk
  decide +kernel

/-- A change with the edge of a used line, one against it, and one of an unused line. -/
theorem met_StartLineQualifies : ∃ s : State, Sized s ∧ s.phase ≠ .inReset ∧
    (∀ i ∈ [0, 1, 15], (s.lineEntry i).debounce ≤ (s.lineState i).count + 1) ∧
    (s.lineEntry 15).edge.level = otherLevel (s.lineState 15).stable ∧ (s.lineEntry 15).aud = 16 ∧
    (s.lineEntry 1).edge.level ≠ otherLevel (s.lineState 1).stable ∧ (s.lineEntry 0).aud = 0 :=
  ⟨hall.withHouse { hall.house with
      map := (hall.house.map.set 15 ⟨16, .rising, 10⟩).set 1 ⟨1, .falling, 10⟩
      lines := List.replicate 16 ⟨.low, 49⟩ },
    sized_of (by decide +kernel) rfl, by decide +kernel, by decide +kernel, by decide +kernel, by decide +kernel,
    by decide +kernel, by decide +kernel⟩

/-- A repeat, a stray start and a start of the SEATING show. -/
theorem met_ArrivalStartsTheShow :
    ([598, 599, 600, 601].map (fun since =>
      isRepeat (hall.modifyShow 5 (fun sh => { sh with started := some (.contact, since) })) 1)) =
        [false, true, true, false] ∧
    (∀ sh ∈ (hallIn .seating).shows.shows, sh.day = 0 ∧ sh.aud = 1 ∧ sh.state = .seating) ∧
    ([714, 715, 819, 820].map (fun m => ((arrival 1 ((hallIn .seating).withClock ⟨true, m, 0⟩)).findShow 5).map (·.state))) =
      [some .running, some .closed, some .closed, some .ended] ∧
    ((arrival 1 ((hallIn .seating).withClock ⟨false, 820, 0⟩)).findShow 5).map (·.state) = some .running ∧
    isRepeat hall 1 = false ∧ (∀ sh ∈ todayIn hall 1, sh.state ≠ .seating) ∧ isRepeat (hallIn .seating) 1 = false ∧
    (hallIn .seating).shows.shows.Pairwise (fun a b => a.key < b.key) ∧
    (earliest ((todayIn (hallIn .seating) 1).filter (fun x => x.state == .seating))).map (·.key) = some 5 := by
  decide +kernel

theorem met_AlertLineMovesTheState :
    (∀ a ∈ [AlertState.normal, .held], ∃ s : State, Sized s ∧ s.phase = .running ∧
      s.house.alertEntry.debounce ≤ s.house.alertLine.count + 1 ∧
      readsActive s.house.alertEntry.polarity (otherLevel s.house.alertLine.stable) = true ∧ s.house.alert = a ∧ a ≠ .alert) ∧
    ∃ s : State, s.phase = .running ∧ s.house.alertEntry.debounce ≤ s.house.alertLine.count + 1 ∧
      readsActive s.house.alertEntry.polarity (otherLevel s.house.alertLine.stable) = false ∧ s.house.alert = .alert := by
  refine ⟨fun a ha => ⟨(hallAlert a).withAlertLine ⟨.low, 99⟩, sized_of rfl rfl, rfl, ?_, ?_, rfl, ?_⟩,
    (hallAlert .alert).withAlertLine ⟨.high, 99⟩, rfl, by decide +kernel, by decide +kernel, rfl⟩
  · exact (by decide +kernel : 100 ≤ 99 + 1)
  · exact (by decide +kernel : readsActive .activeHigh .high = true)
  · revert ha; cases a <;> decide

/-- A next note, and the end of a pass with a pending pattern. -/
theorem met_ChimeNoteEnds : ∃ c : ChimeUnit, ∃ pl, c.playing = some pl ∧ pl.left ≤ 1 ∧ (pl.copy)[pl.note + 1]? = none ∧
    c.pending = some .reminder ∧ pl.pattern = .attention ∧ (hall.withChime c).phase ≠ .inReset ∧
    ([(⟨64, 6⟩ : Note), ⟨16, 1⟩])[0 + 1]? = some ⟨16, 1⟩ :=
  ⟨{ hall.chime with playing := some ⟨.attention, [⟨64, 6⟩], 0, 1⟩, pending := some .reminder }, _, rfl, by decide, rfl, rfl,
    rfl, by decide +kernel, rfl⟩

/-- Each row of the table of R134, and R135, R136: a pass from IDLE, a pending pattern replaced, triggers discarded during
ALARM, ALARM preempting, and every trigger discarded while the chime is off. -/
theorem test_triggers :
    (hall.chime.trigger true .reminder).playing = some ⟨.reminder, [⟨64, 4⟩], 0, 200⟩ ∧
    (hall.chime.trigger true .attention).playing = some ⟨.attention, [⟨32, 4⟩, ⟨64, 6⟩], 0, 200⟩ ∧
    (∀ pattern ∈ [ChimePattern.attention, .reminder], ∀ pending ∈ [none, some ChimePattern.attention],
      (ringing pattern 2 pending).chime.trigger true .reminder = (ringing pattern 2 (some .reminder)).chime ∧
      (ringing pattern 2 pending).chime.trigger true .alarm = hall.chime.begin_ .alarm) ∧
    (∀ p ∈ [ChimePattern.attention, .reminder, .alarm],
      (ringing .alarm 2 none).chime.trigger true p = (ringing .alarm 2 none).chime ∧
      (ringing .attention 2 none).chime.trigger false p = (ringing .attention 2 none).chime) := by decide +kernel

/-- An ALARM pass in ALERT begins another; a pass with nothing pending ends in IDLE. -/
theorem test_passEnds :
    (after (exec .chimeNoteEnd ((hallAlert .alert).withChime
      { hall.chime with playing := some ⟨.alarm, [⟨64, 6⟩], 0, 1⟩ }))).chime.playing =
      some ⟨.alarm, [⟨16, 10⟩, ⟨32, 10⟩], 0, 500⟩ ∧
    (after (exec .chimeNoteEnd (hall.withChime
      { hall.chime with playing := some ⟨.alarm, [⟨64, 6⟩], 0, 1⟩ }))).chime.playing = none := by decide +kernel

/-- Life left 1 and a HIGH REPEAT at its last minute; and a boundary that brings nothing. -/
theorem met_NoticesAtABoundary : (noticed 820).phase ≠ .inReset ∧ (noticed 820).shows.clock.valid = true ∧
    ((List.range 4).map (fun i => ((noticed 820).noticeSlot i).notice.map (fun n =>
      (lifeDue n, reminderDue n, windowClosed (noticed 820) n)))) =
      [some (true, false, false), some (false, true, false), some (false, false, true), some (false, false, false)] ∧
    hall.phase ≠ .inReset ∧ hall.shows.clock.valid = true ∧ lifeDue deskNotice = true ∧
    (hall.noticeSlot 0).notice = some deskNotice ∧ deskNotice.origin = .sales .salesA 2 ∧
    reminderDue { deskNotice with prio := .high, life := .repeats 60 1 } = true ∧
    lifeDue { deskNotice with life := .once 2 } = false ∧ reminderDue deskNotice = false := by decide +kernel

theorem test_receiver :
    ((after (exec (.portByteReceived .salesA 0xC3 false) hall)).portAt .salesA).receiver = .inFrame [] 0 ∧
    ((after (exec (.portByteReceived .salesA 0xC3 true) hall)).portAt .salesA).receiver = .hunting ∧
    (∀ x ∈ [((1 : Byte), false), (0, true)],
      ((after (exec (.portByteReceived .salesA x.1 x.2)
        (hall.withPortAt .salesA { PortState.reset with receiver := .inFrame [1] 4 }))).portAt .salesA).frameErrors = 1) ∧
    ((after (exec (.frameGapTimeout .salesA)
      (hall.withPortAt .salesA { PortState.reset with receiver := .inFrame [1] 4, frameErrors := 255 }))).portAt
        .salesA).frameErrors = 255 := by decide +kernel

theorem met_PortBytesAndGaps : ∃ s : State, s.phase = .running ∧ (s.portAt .salesA).receiver = .inFrame [0] 4 ∧
    (s.portAt .salesB).receiver = .hunting ∧ lengthBad [0, 1] = false ∧ lengthBad [1, 1] = true ∧
    frameComplete [0, 1] = false ∧ frameComplete [0, 0, 1, 2, 3, 4, 5] = true ∧ frameOf [0, 0, 1, 2, 3, 4, 5] = none ∧
    (frameOf (frameBytes ⟨1, 90, 3, []⟩)).isSome = true :=
  ⟨hall.withPortAt .salesA { PortState.reset with receiver := .inFrame [0] 4 }, by decide +kernel⟩

/-- A complete frame on a receiver that is IN_FRAME: the bytes collected go, and no frame error is counted (log 41). -/
theorem test_frameOverBytes : (let t := after (exec (.requestFrame .salesA (frameBytes ⟨1, 13, 0, []⟩))
      (hall.withPortAt .salesA { PortState.reset with receiver := .inFrame [0] 2 }))
    (t.portAt .salesA).receiver = .hunting ∧ (t.portAt .salesA).frameErrors = 0 ∧
      (t.portAt .salesA).execution = some ⟨1, 13, 0, []⟩) := by decide +kernel

/-- A free port and a frame that passes or fails its checks; and each line of the table of R194. -/
theorem met_FrameIsTaken : hall.phase = .running ∧ (hall.portAt .salesA).isFree = true ∧
    portCheck .salesA ⟨1, 13, 0, []⟩ = none ∧ portCheck .salesA ⟨1, 90, 0, []⟩ = some .notPermitted ∧
    (∀ n ∈ [3, 4], ∀ m ∈ [7, 8], ∃ x : PortState, x.isFree = false ∧ x.waiting.length = n ∧ x.answers.length = m) := by
  refine ⟨by decide +kernel, by decide +kernel, by decide +kernel, by decide +kernel, fun n _ m _ =>
    ⟨{ PortState.reset with
        execution := some ⟨1, 13, 0, []⟩
        waiting := List.replicate n ⟨1, 13, 0, []⟩
        answers := List.replicate m ⟨1, 13, 0, okWith []⟩ }, rfl, List.length_replicate, List.length_replicate⟩⟩

theorem met_AnswerIsSent : ∃ s : State, ∃ a rest w f fs, s.phase = .running ∧ (s.portAt .salesA).answers = a :: rest ∧
    (s.portAt .salesA).held = some w ∧ (s.portAt .salesA).execution = none ∧ (s.portAt .salesA).waiting = f :: fs ∧
    portCheck .salesA f = none :=
  ⟨hall.withPortAt .salesA { PortState.reset with
      answers := List.replicate 8 ⟨1, 13, 0, okWith []⟩, held := some ⟨1, 13, 0, okWith []⟩
      waiting := [⟨1, 13, 0, []⟩] }, _, _, _, _, _, rfl, rfl, rfl, rfl, rfl, by decide +kernel⟩

theorem met_AttentionLine : hall.phase = .running ∧ Cause.bit .programme .showChange = some 9 ∧
    Cause.bit .salesA .holdLapsed = some 0 ∧ (hall.portAt .programme).mask.getLsbD 9 = false := by decide +kernel

/-! ### Witnesses of the requests: in its turn, no refusal of its list holds; then the codes of each refusal -/

theorem met_CausesAreRead : Ready (.readCauses headA) hall = true ∧ Ready (.setCauseMask headA 31) hall = true ∧
    firstRefusal [(decide (2 ^ causeBits headA.port ≤ 31), .badArgument)] = none ∧
    Ready (.setCauseMask headP 1023) hall = true ∧
    firstRefusal [(decide (2 ^ causeBits headP.port ≤ 1023), .badArgument)] = none := by decide +kernel

theorem codes_CausesAreRead : codes hall [.setCauseMask headA 32, .setCauseMask headP 1024, .setCauseMask headP 0,
    .readCauses headP] = [some .badArgument, some .badArgument, some .ok, some .ok] := by decide +kernel

theorem met_StatusReads : Sized hall ∧ (∀ clear ∈ [true, false], Ready (.readPortStatus headP 2 clear) hall = true ∧
    Ready (.readPortStatus headA 0 clear) hall = true ∧ Ready (.readSeatStatus headP clear) hall = true ∧
    Ready (.readPanel headP 24 clear) hall = true) ∧
    selectedPort .programme 2 = some .salesB ∧ selectedPort .salesA 0 = some .salesA ∧
    firstRefusal [(decide (3 < 2), .badArgument),
      (decide (headP.port ≠ .programme) && (selectedPort headP.port 2).any (fun q => decide (q ≠ headP.port)),
        .notPermitted)] = none ∧
    firstRefusal [(decide (24 = 0 ∨ 24 < 24), .badArgument)] = none :=
  ⟨sized_hall, by decide +kernel⟩

theorem codes_StatusReads : codes hall [.readPortStatus headP 4 false, .readPortStatus headP 3 true,
    .readPortStatus headA 2 false, .readPortStatus headA 1 false, .readPanel headP 0 false, .readPanel headP 25 false,
    .readPanel headP 1 true, .readSeatStatus headP true] =
    [some .badArgument, some .ok, some .notPermitted, some .ok, some .badArgument, some .badArgument, some .ok, some .ok] := by
  decide +kernel

theorem met_ReadsChangeNothing : (∀ c ∈ [Instr.queryShow headA 5, .listShows headA 6 0, .readNotices headA, .readAlert headA,
      .readShow headP 5, .readPool headP, .readHold headP 191, .readBoard headP 255, .readDoor headP 16, .readSpot headP 9,
      .readReel headP 3, .readChime headP, .readHouseLines headP, .readJournal headP 255, .readPolicy headP,
      .readClock headP], Ready c hall = true) ∧ (hall.findShow 5).isSome = true ∧ (hall.findSpot 9).isSome = true := by
  decide +kernel

theorem codes_ReadsChangeNothing : codes hall [.queryShow headA 4, .listShows headA 7 0, .readShow headP 6, .readHold headP 192,
    .readDoor headP 0, .readDoor headP 17, .readSpot headP 8, .readReel headP 4, .queryShow headA 5, .listShows headA 6 0,
    .readNotices headA, .readAlert headA, .readShow headP 5, .readPool headP, .readHold headP 191, .readBoard headP 255,
    .readDoor headP 16, .readSpot headP 9, .readReel headP 3, .readChime headP, .readHouseLines headP,
    .readJournal headP 255, .readPolicy headP, .readClock headP] =
    [some .noSuchShow, some .badArgument, some .noSuchShow, some .badArgument, some .badArgument, some .badArgument,
     some .badArgument, some .badArgument] ++ List.replicate 16 (some .ok) := by decide +kernel

/-- A Read Journal start beyond the rule's range is answered OK without entries (log 42). -/
theorem test_journalStart : codes hall [.readJournal headP 64, .readJournal headP 255] = [some .ok, some .ok] ∧
    (answered (.readJournal headP 64) (hall.withJournal ⟨1, 0, [⟨1, .alert, .update⟩]⟩)).map (fun r => r.body.getLast?) = some (some 0) := by decide +kernel

/-- Read Clock gives VALID as 0 and NOT SET as 1 (log 13). -/
theorem test_clockCode : (answered (.readClock headP) hall).map (fun r => r.body.head?) = some (some 0) ∧
    (answered (.readClock headP) (hall.withClock ⟨false, 0, 0⟩)).map (fun r => r.body.head?) = some (some 1) := by
  decide +kernel

/-- The notices stand in queue order (R120). -/
theorem test_queueOrder : (queueOrder (noticed 820).notice).map (fun x => (x.2.2.prio, x.2.2.cls)) =
    [(.high, .desk), (.normal, .cancel), (.normal, .delay), (.normal, .desk)] ∧
    ((noticed 820).noticeSlot 3).notice.isSome = true := by decide +kernel

theorem met_HoldSeatsGrants : Sized hall ∧ Ready (.holdSeats headA 5 0 16) hall = true ∧
    firstRefusal (saleTests hall 5 0 16 ++
      [(decide (hall.policy.quota headA.port ≤ hall.seat.portCount headA.port), .quotaFull),
       (hall.seat.free.isEmpty, .tableFull)]) = none ∧
    zoneOf 0 = some .standard ∧ hall.seat.free = 1 :: ((List.range 190).map (· + 2)) ∧ 1 < 192 :=
  ⟨sized_hall, by decide +kernel⟩

theorem codes_HoldSeatsGrants :
    codes hall [.holdSeats headA 5 3 1, .holdSeats headA 5 0 0, .holdSeats headA 5 0 17, .holdSeats headA 6 0 1,
      .holdSeats headA 5 2 5, .holdSeats headA 5 2 4] =
      [some .badArgument, some .badArgument, some .badArgument, some .noSuchShow, some .notEnough, some .ok] ∧
    codes (hallAlert .held) [.holdSeats headA 5 0 1] = [some .houseAlert] ∧
    codes (hallIn .closed) [.holdSeats headA 5 0 1] = [some .notSelling] ∧
    codes (hall.withSeat { hall.seat with countA := 96 }) [.holdSeats headA 5 0 1] = [some .quotaFull] ∧
    codes (hall.withSeat { hall.seat with free := [] }) [.holdSeats headA 5 0 1] = [some .tableFull] := by decide +kernel

/-- The ACTIVE hold of the hall, and the same slot ended. -/
def hallEnded : State := hall.withHoldSlot 0 ⟨1, .ended ⟨5, .standard, 2, .salesA, 2, 0⟩ .voided⟩

theorem met_HoldsAreConfirmedAndReleased : Sized hall ∧ Ready (.confirmHold headA 0 1) hall = true ∧
    Ready (.releaseHold headA 0 1) hall = true ∧ firstRefusal (lookupTests hall headA.port 0 1) = none ∧
    (hall.holdSlot 0).use = .active ⟨5, .standard, 2, .salesA, 2, 0⟩ 100 ∧
    Ready (.confirmHold headA 0 1) hallEnded = true ∧ Ready (.releaseHold headA 0 1) hallEnded = true ∧
    firstRefusal (lookupTests hallEnded headA.port 0 1) = none ∧ Sized hallEnded :=
  ⟨sized_hall, by decide +kernel, by decide +kernel, by decide +kernel, by decide +kernel, by decide +kernel,
    by decide +kernel, by decide +kernel, sized_of (by decide +kernel) rfl⟩

theorem codes_HoldsAreConfirmedAndReleased :
    codes hall [.confirmHold headA 192 1, .confirmHold headA 0 0, .confirmHold headA 191 0, .confirmHold ⟨.salesB, 1, 2⟩ 0 1,
      .confirmHold headA 0 1, .releaseHold headA 192 1, .releaseHold headA 0 2, .releaseHold ⟨.salesB, 1, 2⟩ 0 1,
      .releaseHold headA 0 1] =
      [some .badArgument, some .unknownHold, some .unknownHold, some .notOwner, some .ok, some .badArgument,
       some .unknownHold, some .notOwner, some .ok] ∧
    codes hallEnded [.confirmHold headA 0 1, .releaseHold headA 0 1] = [some .holdEnded, some .holdEnded] := by
  decide +kernel

/-- Extensions left, and extensions used up. -/
theorem met_HoldsAreExtendedAndQueried : Sized hall ∧ Ready (.extendHold headA 0 1) hall = true ∧
    firstRefusal ([(decide (192 ≤ 0), .badArgument), (hall.house.alert != .normal, .houseAlert)] ++
      lookupTests hall headA.port 0 1) = none ∧
    Ready (.queryHold headA 0 1) hall = true ∧ firstRefusal (lookupTests hall headA.port 0 1) = none ∧
    (hall.holdSlot 0).use = .active ⟨5, .standard, 2, .salesA, 2, 0⟩ 100 ∧ 0 < hall.policy.holdExtends ∧
    Ready (.queryHold headA 0 1) hallEnded = true :=
  ⟨sized_hall, by decide +kernel⟩

theorem codes_HoldsAreExtendedAndQueried :
    codes hall [.extendHold headA 192 1, .extendHold headA 0 2, .extendHold ⟨.salesB, 1, 2⟩ 0 1, .extendHold headA 0 1,
      .queryHold headA 192 1, .queryHold headA 0 2, .queryHold ⟨.salesB, 1, 2⟩ 0 1, .queryHold headA 0 1] =
      [some .badArgument, some .unknownHold, some .notOwner, some .ok, some .badArgument, some .unknownHold,
       some .notOwner, some .ok] ∧
    codes (hallAlert .alert) [.extendHold headA 0 1] = [some .houseAlert] ∧
    codes (hall.withHoldSlot 0 ⟨1, .active ⟨5, .standard, 2, .salesA, 2, 2⟩ 100⟩) [.extendHold headA 0 1] =
      [some .extendLimit] ∧
    codes hallEnded [.extendHold headA 0 1, .queryHold headA 0 1] = [some .holdEnded, some .holdEnded] := by decide +kernel

theorem met_SeatsAreSoldAndRefunded : Sized hall ∧ Ready (.sellNow headA 5 0 16) hall = true ∧
    firstRefusal (saleTests hall 5 0 16) = none ∧ zoneOf 0 = some .standard ∧ Ready (.refundSeats headA 5 0 10) hall = true ∧
    firstRefusal [((zoneOf 0).isNone || decide (10 < 1) || decide (16 < 10), .badArgument),
      ((hall.findShow 5).isNone, .noSuchShow), ((hall.findShow 5).any (fun sh => sh.state == .ended), .notRefundable),
      (onZone hall 5 0 (fun x => decide (x.sold < 10)), .notSold)] = none :=
  ⟨sized_hall, by decide +kernel⟩

theorem codes_SeatsAreSoldAndRefunded :
    codes hall [.sellNow headA 5 3 1, .sellNow headA 6 0 1, .sellNow headA 5 2 5, .sellNow headA 5 2 4, .refundSeats headA 5 0 17,
      .refundSeats headA 6 0 1, .refundSeats headA 5 0 11, .refundSeats headA 5 0 10] =
      [some .badArgument, some .noSuchShow, some .notEnough, some .ok, some .badArgument, some .noSuchShow, some .notSold,
       some .ok] ∧
    codes (hallAlert .alert) [.sellNow headA 5 0 1, .refundSeats headA 5 0 1] = [some .houseAlert, some .ok] ∧
    codes (hallIn .ended) [.sellNow headA 5 0 1, .refundSeats headA 5 0 1] = [some .notSelling, some .notRefundable] := by
  decide +kernel

theorem met_CapacityAndWithholding : Sized hall ∧ Ready (.setCapacity headP 5 0 17) hall = true ∧
    firstRefusal (zoneTests hall 5 0 ++ [(decide (1023 < 17), .badArgument),
      (onZone hall 5 0 (fun x => decide (17 < x.sold + x.held + x.withheld)), .belowCommitted)]) = none ∧
    zoneOf 0 = some .standard ∧ hall.findShow 5 = some show5 ∧ (show5.zone .standard).cap ≠ 17 ∧
    Ready (.setCapacity headP 5 0 100) hall = true ∧ (show5.zone .standard).cap = 100 ∧
    Ready (.withhold headP 5 0 83) hall = true ∧
    firstRefusal (zoneTests hall 5 0 ++ [(decide (83 < 1 ∨ 1023 < 83), .badArgument),
      (onZone hall 5 0 (fun x => decide (x.available < 83)), .notEnough)]) = none ∧
    Ready (.unwithhold headP 5 0 5) hall = true ∧
    firstRefusal (zoneTests hall 5 0 ++ [(decide (5 < 1 ∨ 1023 < 5), .badArgument),
      (onZone hall 5 0 (fun x => decide (x.withheld < 5)), .notWithheld)]) = none :=
  ⟨sized_hall, by decide +kernel⟩

theorem codes_CapacityAndWithholding : codes hall [.setCapacity headP 6 0 1, .setCapacity headP 5 3 1, .setCapacity headP 5 0 1024,
    .setCapacity headP 5 0 16, .setCapacity headP 5 0 1023, .withhold headP 5 0 0, .withhold headP 5 0 84,
    .withhold headP 6 0 1, .unwithhold headP 5 0 6, .unwithhold headP 5 3 1, .unwithhold headP 5 0 5] =
    [some .noSuchShow, some .badArgument, some .badArgument, some .belowCommitted, some .ok, some .badArgument,
     some .notEnough, some .noSuchShow, some .notWithheld, some .badArgument, some .ok] := by decide +kernel

/-- OPEN, FILLING, FEW_LEFT and SOLD_OUT, a latch that stays by its hysteresis, and a capacity of 0. -/
theorem met_AvailabilityComputation :
    (let c := fun (cap sold : Nat) (latch : Bool) =>
      Show.compute Policy.default { show5 with std := ⟨cap, sold, 0, 0⟩, prm := ⟨0, 0, 0, 0⟩, acc := ⟨0, 0, 0, 0⟩, latch := latch }
     [(c 100 74 false).band, (c 100 75 false).band, (c 100 70 true).band, (c 100 68 true).band, (c 100 80 false).band,
       (c 100 79 false).band, (c 100 100 false).band, (c 0 0 false).band] =
       [.open_, .filling, .filling, .open_, .fewLeft, .filling, .soldOut, .soldOut] ∧
     (c 100 79 false).figure = ⟨20, true⟩ ∧ (c 100 80 false).figure = ⟨20, false⟩) := by decide +kernel

/-- An image that stands, one that differs, and the same of a door. -/
theorem met_PublicationByDifference : hall.board.doors.length = 16 ∧ hall.lineImage 6 = computeLine hall 6 ∧
    hall.lineImage 5 ≠ computeLine hall 5 ∧ hall.doorImage 16 = computeDoor hall 16 ∧
    hall.doorImage 1 ≠ computeDoor hall 1 ∧ (computeLine hall 5).isSome = true ∧ (computeLine hall 6).isSome = false ∧
    hall.doorShow 1 = some 5 ∧ hall.doorShow 2 = none := by
  decide +kernel

/-- A journal of 64 board lines at revision `cur`, its floor 0, before a panel 1 of a state at a shown revision. -/
def filing (cur shown : Nat) (st : PanelState) : State :=
  ((linked st .idle).withPanelAt 1 { panelOne st with shown := shown, refresh := some ⟨0, [], 0, false⟩ }).withJournal
    ⟨cur, 0, (List.range 64).map (fun i => ⟨cur - 63 + i, .boardLine (i + 1), .update⟩)⟩

/-- Every kind of filing meets the premise: one that coalesces, one that drops, and one that wraps. -/
theorem met_PublicationByDifference_filing : ∀ cur ∈ [64, 65534, 65535], Sized (filing cur 64 .current) ∧
    (filing cur 64 .current).journal.entries.length = 64 ∧
    ((filing cur 64 .current).journal.entries.filter (fun e => decide (e.target ≠ .boardLine 1))).length = 63 ∧
    ((filing cur 64 .current).journal.entries.filter (fun e => decide (e.target ≠ .alert))).length = 64 :=
  fun cur hc => ⟨sized_of (by revert cur; decide +kernel) rfl, by revert cur; decide +kernel⟩

/-- Coalescing, dropping with REFRESH_FORCED, and the wrap (R155 to R157, R159). -/
theorem test_filing :
    (let t := file (.boardLine 1) .remove (filing 64 64 .current)
     (t.journal.cur, t.journal.floor, t.journal.entries.length) = (65, 0, 64) ∧
       t.journal.entries.getLast? = some ⟨65, .boardLine 1, .remove⟩ ∧ causeBit .programme 4 t = false) ∧
    (let t := file .alert .update (filing 64 64 .current)
     (t.journal.cur, t.journal.floor, t.journal.entries.length) = (65, 1, 64) ∧ causeBit .programme 4 t = true) ∧
    (let t := file .alert .update (filing 65535 64 .current)
     t.journal = ⟨1, 0, [⟨1, .alert, .update⟩]⟩ ∧ causeBit .programme 4 t = true) := by decide +kernel

/-- A CURRENT panel becomes BEHIND by a relevant filing; below the floor it becomes SYNCING, and its refresh goes or is marked
to restart; a wrap resets it (R185, R186). -/
theorem test_panelsTold :
    (let st := fun (u : State) => ((u.panelAt 1).state, (u.panelAt 1).shown, (u.panelAt 1).refresh.map (·.restart))
     st (file .alert .update (filing 64 64 .current)) = (.behind, 64, some true) ∧
     st (file (.boardLine 1) .update (filing 64 64 .behind)) = (.current, 64, some false) ∧
     st (file .alert .update (filing 64 0 .current)) = (.syncing, 0, none) ∧
     st (file .alert .update (filing 64 64 .offline)) = (.offline, 64, some true) ∧
     st (file .alert .update (filing 65535 64 .offline)) = (.offline, 0, none) ∧
     st (file .alert .update (filing 65535 64 .unknown)) = (.syncing, 0, none) ∧
     st (after (exec (.dayClear headP) (filing 64 64 .current))) = (.syncing, 64, none) ∧
     st (after (exec (.dayClear headP) (filing 65535 64 .current))) = (.syncing, 0, none)) := by decide +kernel

/-- Each status word, and a sibling's hint (R79, R43); a CANCELLED show's line at its window's end (R76). -/
theorem test_lines :
    (let w := fun f => statusWord (f show5)
     [w (fun x => { x with state := .cancelled, band := .soldOut }), w (fun x => { x with state := .running }),
      w (fun x => { x with band := .soldOut }), w (fun x => { x with state := .seating, delay := 5 }),
      w (fun x => { x with delay := 5 }), w (fun x => { x with band := .fewLeft }), w (fun x => { x with band := .filling }),
      w id] = [.cancelled, .started, .soldOut, .seatingNow, .delayed, .fewLeft, .filling, .onSale]) ∧
    (let s := hall.withShowList [{ show5 with sibling := some 6, band := .fewLeft },
       { show5 with key := 6, aud := 2, delay := 7, band := .filling }]
     (computeLine s 5).bind (·.hint) = some ⟨707, 2⟩ ∧ (computeLine s 6).bind (·.hint) = none) ∧
    ([819, 820].map (fun m => (computeLine ((hallIn .cancelled).withClock ⟨true, m, 0⟩) 5).isSome)) = [true, false] := by
  decide +kernel

/-- A Load Show of show 6 in auditorium 16 with a start, a run and a delay that are clamped or not. -/
def load6 (openNow : Bool) : Instr :=
  .loadShow headP 6 0 16 63 1439 300 180 (1023, 0, 4) false (some 5) (some 1000, none, none) (some 23, none, some 4) openNow

theorem met_ShowsAreLoaded : Sized hall ∧ ∀ openNow, Ready (load6 openNow) hall = true ∧
    firstRefusal
      [(decide (6 = 0 ∨ 6 < 0 ∨ 16 = 0 ∨ 16 < 16 ∨ 63 < 63 ∨ 1439 < 1439 ∨ 1023 < 1023 ∨ 1023 < 0 ∨ 1023 < 4 ∨
          some 5 = some 0 ∨ some 5 = some 6), .badArgument),
       (hall.house.alert != .normal && decide (0 < 1000), .houseAlert),
       ((hall.findShow 6).isSome, .duplicate),
       (decide (1023 < 1000 + 23 ∨ 0 < 0 + 0 ∨ 4 < 0 + 4), .belowCommitted),
       (openNow && decide (0 = 0) && !hall.shows.clock.valid, .clockNotSet),
       ((List.range (16 * hall.shows.poolSplit)).all (fun r => hall.shows.shows.any (fun x => x.record == r)), .tableFull)] =
      none :=
  ⟨sized_hall, fun b => by cases b <;> decide +kernel⟩

theorem codes_ShowsAreLoaded :
    codes hall [.loadShow headP 0 0 1 0 0 0 0 (0, 0, 0) false none (none, none, none) (none, none, none) false,
      .loadShow headP 6 0 1 0 1440 0 0 (0, 0, 0) false none (none, none, none) (none, none, none) false,
      .loadShow headP 6 0 1 0 0 0 0 (0, 0, 0) false (some 6) (none, none, none) (none, none, none) false,
      .loadShow headP 5 0 1 0 0 0 0 (0, 0, 0) false none (none, none, none) (none, none, none) false,
      .loadShow headP 6 0 1 0 0 0 0 (0, 0, 0) false none (none, some 1, none) (none, none, none) false, load6 true] =
      [some .badArgument, some .badArgument, some .badArgument, some .duplicate, some .belowCommitted, some .ok] ∧
    codes (hallAlert .held) [load6 false] = [some .houseAlert] ∧
    codes (hall.withClock ⟨false, 0, 0⟩) [load6 true, load6 false] = [some .clockNotSet, some .ok] ∧
    codes (hall.withShowList ((List.range 128).map (fun r => { show5 with key := r + 7, record := r }))) [load6 false] =
      [some .tableFull] := by decide +kernel

theorem met_ShowsAreAmended : Sized hall ∧
    Ready (.amendShow headP 5 (some 1439) (some 301) (some 16) (some 63) (some none) (some true)) hall = true ∧
    Ready (.amendShow headP 5 none none none none none none) hall = true ∧ hall.findShow 5 = some show5 ∧
    firstRefusal [((hall.findShow 5).isNone, .noSuchShow),
      ((hall.findShow 5).any (fun sh =>
        sh.state == .running || sh.state == .closed || sh.state == .ended || sh.state == .cancelled), .notAmendable),
      ((hall.findShow 5).any (fun sh => decide ((some 16).getD sh.aud = 0 ∨ 16 < (some 16).getD sh.aud ∨
        63 < (some 63).getD sh.title ∨ 1439 < (some 1439).getD sh.start ∨ (some none : Option (Option Nat)) = some (some 0) ∨
        (some none : Option (Option Nat)) = some (some 5))), .badArgument)] = none :=
  ⟨sized_hall, by decide +kernel⟩

theorem codes_ShowsAreAmended : codes hall [.amendShow headP 6 none none none none none none,
      .amendShow headP 5 (some 1440) none none none none none, .amendShow headP 5 none none none none (some (some 5)) none,
      .amendShow headP 5 none none (some 17) none none none, .amendShow headP 5 none (some 0) none none none none] =
      [some .noSuchShow, some .badArgument, some .badArgument, some .badArgument, some .ok] ∧
    codes (hallIn .running) [.amendShow headP 5 (some 1440) none none none none none] = [some .notAmendable] := by
  decide +kernel

theorem met_SalesOpenAndShowsCancel : Sized (hallIn .loaded) ∧ Ready (.openSales headP 5) (hallIn .loaded) = true ∧
    ((hallIn .loaded).findShow 5).map (·.state) = some .loaded ∧ Ready (.openSales headP 5) hall = true ∧
    (hall.findShow 5).map (·.state) = some .onSale ∧ Ready (.cancelShow headP 5) hall = true ∧
    firstRefusal [(((hallIn .loaded).findShow 5).isNone, .noSuchShow),
      (((hallIn .loaded).findShow 5).any (fun sh => decide (sh.day = 0) && !(hallIn .loaded).shows.clock.valid), .clockNotSet),
      (((hallIn .loaded).findShow 5).any (fun sh => sh.state != .loaded && sh.state != .onSale), .notAmendable)] = none ∧
    firstRefusal [((hall.findShow 5).isNone, .noSuchShow),
      ((hall.findShow 5).any (fun sh => sh.state == .closed || sh.state == .ended || sh.state == .cancelled),
        .notAmendable)] = none :=
  ⟨sized_of (by decide +kernel) rfl, by decide +kernel⟩

theorem codes_SalesOpenAndShowsCancel : codes hall [.openSales headP 6, .openSales headP 5, .cancelShow headP 6, .cancelShow headP 5] =
      [some .noSuchShow, some .ok, some .noSuchShow, some .ok] ∧
    codes (hallIn .seating) [.openSales headP 5] = [some .notAmendable] ∧
    codes (hall.withClock ⟨false, 0, 0⟩) [.openSales headP 5] = [some .clockNotSet] ∧
    codes (hallIn .closed) [.cancelShow headP 5] = [some .notAmendable] := by decide +kernel

/-- The hold of the hall is VOIDED with its show, and its port is told. -/
theorem test_cancelVoids : ((after (exec (.cancelShow headP 5) hall)).holdSlot 0).use =
      .ended ⟨5, .standard, 2, .salesA, 2, 0⟩ .voided ∧
    causeSet .salesA .holdVoided (after (exec (.cancelShow headP 5) hall)) = true := by decide +kernel

theorem met_ShowsAreRemoved : ∃ s : State, Sized s ∧ Ready (.removeShow headP 5) s = true ∧ (s.findShow 5).isSome = true ∧
    firstRefusal [((s.findShow 5).isNone, .noSuchShow),
      ((s.findShow 5).any (fun sh => decide (0 < sh.committed)), .inUse)] = none :=
  ⟨hall.modifyShow 5 (fun sh => { sh with std := ⟨100, 0, 0, 0⟩ }), sized_of (by decide +kernel) rfl, by decide +kernel⟩

theorem codes_ShowsAreRemoved : codes hall [.removeShow headP 6, .removeShow headP 5] = [some .noSuchShow, some .inUse] ∧
    codes (hall.modifyShow 5 (fun sh => { sh with std := ⟨100, 0, 0, 0⟩ })) [.removeShow headP 5] = [some .ok] := by
  decide +kernel

theorem met_TitlesAreDefined : Sized hall ∧ Ready (.defineTitle headP 63 [32, 126] 7) hall = true ∧
    firstRefusal [(decide (63 < 63) || decide ([(32 : Byte), 126].length = 0) || decide (32 < [(32 : Byte), 126].length) ||
      [(32 : Byte), 126].any (fun c => decide (c.toNat < 32) || decide (126 < c.toNat)) || decide (7 < 7), .badArgument)] =
      none :=
  ⟨sized_hall, by decide +kernel⟩

theorem codes_TitlesAreDefined : codes hall [.defineTitle headP 64 [65] 0, .defineTitle headP 0 [] 0, .defineTitle headP 0 [31] 0,
    .defineTitle headP 0 [127] 0, .defineTitle headP 0 [65] 8, .defineTitle headP 0 (List.replicate 33 65) 0,
    .defineTitle headP 0 (List.replicate 32 65) 7] =
    List.replicate 6 (some .badArgument) ++ [some .ok] := by decide +kernel

/-- A day with a show of today that has an ACTIVE hold, and one of tomorrow. -/
theorem met_DayRollsAndClears : ∃ s : State, Sized s ∧ s.shows.shows.Pairwise (fun a b => a.key < b.key) ∧
    Ready (.rollDay headP) s = true ∧ firstRefusal [(!s.shows.clock.valid, .clockNotSet)] = none ∧
    Ready (.dayClear headP) s = true ∧ s.shows.shows.map (·.day) = [0, 1] :=
  ⟨hall.withShowList [show5, { show5 with key := 6, day := 1, std := ⟨0, 0, 0, 0⟩ }], sized_of (by decide +kernel) rfl,
    by decide +kernel⟩

theorem codes_DayRollsAndClears : codes hall [.rollDay headP, .dayClear headP] = [some .ok, some .ok] ∧
    codes (hall.withClock ⟨false, 0, 0⟩) [.rollDay headP, .dayClear headP] = [some .clockNotSet, some .ok] := by
  decide +kernel

theorem met_PoolAndSpots : Sized hall ∧ Ready (.setPoolSplit headP 16) hall = true ∧ 15 = clampTo 1 15 16 ∧
    firstRefusal [(hall.store.state != .idle, .storeBusy),
      (hall.shows.shows.any (fun x => decide (16 * 15 ≤ x.record ∧ x.record < 16 * hall.shows.poolSplit)) ||
        hall.reel.spots.any (fun x => decide (16 * hall.shows.poolSplit ≤ x.record ∧ x.record < 16 * 15)), .inUse)] = none ∧
    Ready (.defineSpot headP 65535 65535 180 (some 63)) hall = true ∧ hall.findSpot 65535 = none ∧
    firstRefusal [(hall.store.state != .idle, .storeBusy), (decide (65535 = 0 ∨ 63 < (some 63).getD 0), .badArgument),
      ((hall.findSpot 65535).isNone && (List.range 256).all (fun r =>
        decide (r < 16 * hall.shows.poolSplit) || hall.reel.spots.any (fun x => x.record == r)), .tableFull)] = none ∧
    Ready (.defineSpot headP 9 0 5 none) hall = true ∧ (hall.findSpot 9).isSome = true ∧
    Ready (.removeSpot headP 9) (hall.withReelAt 0 (Reel.ofSlots [])) = true ∧
    firstRefusal [((hall.withReelAt 0 (Reel.ofSlots [])).store.state != .idle, .storeBusy),
      (((hall.withReelAt 0 (Reel.ofSlots [])).findSpot 9).isNone, .badArgument),
      ((hall.withReelAt 0 (Reel.ofSlots [])).reel.reels.any (fun x => x.slots.contains 9), .inUse)] = none :=
  ⟨sized_hall, by decide +kernel⟩

theorem codes_PoolAndSpots :
    codes hall [.setPoolSplit headP 0, .setPoolSplit headP 255, .defineSpot headP 0 0 5 none, .defineSpot headP 1 0 5 (some 64),
      .defineSpot headP 9 0 0 none, .removeSpot headP 8, .removeSpot headP 9] =
      [some .ok, some .ok, some .badArgument, some .badArgument, some .ok, some .badArgument, some .inUse] ∧
    codes (hallStore .checking) [.setPoolSplit headP 1, .defineSpot headP 0 0 5 none, .removeSpot headP 8] =
      List.replicate 3 (some .storeBusy) ∧
    codes (hall.withShowList [{ show5 with record := 112 }]) [.setPoolSplit headP 7] = [some .inUse] ∧
    codes (hall.withReel { hall.reel with spots := (List.range 128).map (fun i => ⟨i + 1, 128 + i, 0, 5, none⟩) })
      [.setPoolSplit headP 9, .defineSpot headP 200 0 5 none] = [some .inUse, some .tableFull] := by decide +kernel

theorem met_ReelsAreBuiltAndCleared : Sized hall ∧ (∀ x ∈ [([(9, 4)], 1), ([(9, 4)], 255)],
      Ready (.buildReel headP 3 x.1 x.2) hall = true ∧
      firstRefusal [(hall.store.state != .idle, .storeBusy),
        (decide (3 < 3) || x.1.any (fun y : Nat × Nat => decide (y.2 < 1) || decide (4 < y.2) || (hall.findSpot y.1).isNone),
          .badArgument),
        (decide ((x.1.map (·.2)).sum = 0), .reelEmpty), (decide (24 < (x.1.map (·.2)).sum), .reelTooLong)] = none) ∧
    (∀ items ∈ [[(9, 4)], [(1, 3), (2, 2), (3, 1)]], 0 < (items.flatMap (fun x : Nat × Nat => List.replicate x.2 x.1)).length) ∧
    (hallAlert .held).house.alert ≠ .normal ∧ Ready (.clearReel headP 3) hall = true ∧
    firstRefusal [(hall.store.state != .idle, .storeBusy), (decide (3 < 3), .badArgument)] = none :=
  ⟨sized_hall, by decide +kernel⟩

theorem codes_ReelsAreBuiltAndCleared :
    codes hall [.buildReel headP 4 [(9, 1)] 1, .buildReel headP 0 [(9, 5)] 1, .buildReel headP 0 [(9, 0)] 1,
      .buildReel headP 0 [(8, 1)] 1, .buildReel headP 0 [] 1, .buildReel headP 0 (List.replicate 7 (9, 4)) 1,
      .buildReel headP 0 (List.replicate 6 (9, 4)) 0, .clearReel headP 4, .clearReel headP 0] =
      [some .badArgument, some .badArgument, some .badArgument, some .badArgument, some .reelEmpty, some .reelTooLong,
       some .ok, some .badArgument, some .ok] ∧
    codes (hallStore .erasing) [.buildReel headP 4 [] 1, .clearReel headP 4] = [some .storeBusy, some .storeBusy] := by
  decide +kernel

theorem met_ReelsAreStoppedAndStarted : Sized hall ∧ Ready (.stopReel headP 0) hall = true ∧
    (hall.reelAt 0).state = .playing ∧ (hall.reelAt 1).state = .stopped ∧ Ready (.stopReel headP 1) hall = true ∧
    firstRefusal [(decide (3 < 0), .badArgument)] = none ∧ Ready (.startReel headP 0) hall = true ∧
    firstRefusal [(decide (3 < 0), .badArgument), (decide ((hall.reelAt 0).slots = []), .reelEmpty)] = none ∧
    (let s := hall.withReelAt 3 (Reel.ofSlots [9])
     Ready (.startReel headP 3) s = true ∧ (s.reelAt 3).state = .stopped ∧
       firstRefusal [(decide (3 < 3), .badArgument), (decide ((s.reelAt 3).slots = []), .reelEmpty)] = none) :=
  ⟨sized_hall, by decide +kernel⟩

theorem codes_ReelsAreStoppedAndStarted : codes hall [.stopReel headP 4, .stopReel headP 0, .stopReel headP 3, .startReel headP 4,
    .startReel headP 3, .startReel headP 0] =
    [some .badArgument, some .ok, some .ok, some .badArgument, some .reelEmpty, some .ok] := by decide +kernel

/-- A DESK posting of a sales port, an INFO posting of the programme server, and a notice withdrawn. -/
theorem met_NoticesArePostedAndWithdrawn : Sized hall ∧
    Ready (.postNotice headA 3 0 (.door 16) [32] (.once 240) none none) hall = true ∧ classOf 3 = some .desk ∧
    NoticeClass.desk ≠ .delay ∧ NoticeClass.desk ≠ .cancel ∧ priorityOf 0 = some .high ∧ scopeOf (.door 16) = some (.door 16) ∧
    lifeOf (.once 240) = some (.once 240) ∧ hall.notice.counter < 65535 ∧
    firstRefusal [((priorityOf 0).isNone || (scopeOf (.door 16)).isNone || (lifeOf (.once 240)).isNone ||
        decide (48 < [(32 : Byte)].length) || [(32 : Byte)].any (fun x => decide (x.toNat < 32) || decide (126 < x.toNat)),
        .badArgument),
      (NoticeClass.desk == .evacuate, .notPermitted),
      (decide (headA.port ≠ .programme) && decide (8 ≤ hall.notice.portLive headA.port), .noticeLimit),
      ((List.range 31).all (fun i => (hall.noticeSlot i).notice.isSome), .noticeFull)] = none ∧
    (∀ c ∈ [Instr.postNotice headA 5 1 .all [] (.once 5) none none, .postNotice headA 255 1 .all [] (.once 5) none none,
      .postNotice headP 2 1 .all [] (.once 5) none (some 5), .postNotice headP 1 1 .all [] (.once 5) none none,
      .postNotice headP 2 1 .all [] (.once 5) (some 5) none], Ready c hall = true) ∧ classOf 5 = none ∧ classOf 255 = none ∧
    classOf 2 = some .delay ∧ classOf 1 = some .cancel ∧
    Ready (.withdrawNotice headP 0 1) hall = true ∧ (hall.noticeSlot 0).notice = some deskNotice ∧
    firstRefusal [(decide (31 < 0) || (hall.noticeSlot 0).notice.isNone || decide ((hall.noticeSlot 0).gen ≠ 1), .badArgument),
      (decide (0 = 31), .notPermitted),
      (decide (headP.port ≠ .programme) && (hall.noticeSlot 0).notice.any (fun n => !n.origin.isPort headP.port),
        .notOwner)] = none :=
  ⟨sized_hall, by decide +kernel⟩

theorem codes_NoticesArePostedAndWithdrawn :
    codes hall [.postNotice headA 5 1 .all [] (.once 5) none none, .postNotice headA 255 1 .all [] (.once 5) none none] =
      [some .badArgument, some .badArgument] ∧
    codes hall [.postNotice headA 3 2 .all [] (.once 5) none none, .postNotice headA 3 1 (.groups 0) [] (.once 5) none none,
      .postNotice headA 4 1 (.door 17) [] (.once 5) none none, .postNotice headA 4 1 .all [] .standing none none,
      .postNotice headA 4 1 .all (List.replicate 49 65) (.once 5) none none, .postNotice headA 0 1 .all [] (.once 5) none none,
      .postNotice headP 4 1 (.groups 255) (List.replicate 48 65) (.repeats 0) none none,
      .withdrawNotice headA 32 0, .withdrawNotice headA 1 0, .withdrawNotice headA 0 0, .withdrawNotice ⟨.salesB, 1, 2⟩ 0 1,
      .withdrawNotice headA 0 1] =
      [some .badArgument, some .badArgument, some .badArgument, some .badArgument, some .badArgument, some .notPermitted,
       some .ok, some .badArgument, some .badArgument, some .badArgument, some .notOwner, some .ok] ∧
    codes (hall.withNotice { hall.notice with liveA := 8 }) [.postNotice headA 3 1 .all [] (.once 5) none none,
      .postNotice headP 3 1 .all [] (.once 5) none none] = [some .noticeLimit, some .ok] ∧
    codes (hall.withNotice { hall.notice with slots := List.replicate 32 ⟨1, some deskNotice⟩ })
      [.postNotice headA 3 1 .all [] (.once 5) none none, .withdrawNotice headP 31 1] =
      [some .noticeFull, some .notPermitted] := by decide +kernel

/-- Fields a posting carries beyond its class are not used (log 43). -/
theorem test_extraFieldsIgnored :
    codes hall [.postNotice headA 3 1 .all [] (.once 5) (some 99) (some 7)] = [some .ok] ∧
    ((after (exec (.postNotice headA 3 1 .all [] (.once 5) (some 99) (some 7)) hall)).noticeSlot 1).notice.map (·.linked) =
      some none := by decide +kernel

/-- A Read Reel answer carries a countdown exactly with an item (log 15). -/
theorem test_countdownWithItem :
    wReel (hall.reelAt 0) = [1, 0, 9, 0, 1, 0, 1, 0, 40, 1, 20, 1, 20, 0, 1] ∧
    wReel (hall.reelAt 1) = [0, 0, 0, 2, 0, 0, 0, 0, 0] := by decide +kernel

/-- An arrival that qualifies during start-up raises STRAY_START (log 44). -/
theorem test_arrivalDuringStartUp :
    causeSet .programme .strayStart (after (exec (.startLineQualified 15) ((base.withPhase .starting).withHouse
      { base.house with
        map := base.house.map.set 15 ⟨16, .rising, 10⟩
        lines := List.replicate 16 ⟨.low, 49⟩ }))) = true := by decide +kernel

/-- The hall with its show SEATING, delayed by an hour, late enough that a shorter delay carries it into RUNNING. -/
def hallLate : State := ((hallIn .seating).modifyShow 5 (fun sh => { sh with delay := 60 })).withClock ⟨true, 725, 0⟩

/-- A DELAY posting whose show enters RUNNING answers an id, leaves no DELAY notice and files NOTICES once (R127, R128); one
of delay 0 has an empty body (log 15). -/
theorem test_delayIntoRunning :
    (let t := after (exec (.postNotice headP 2 1 .all [] (.once 5) (some 5) (some 1)) hallLate)
     (t.findShow 5).map (fun y => (y.delay, y.state.pastAmending)) = some (1, true) ∧ (t.noticeSlot 1) = ⟨1, none⟩ ∧
       (t.journal.entries.filter (fun e => e.target == .notices)).map (·.rev) = [1] ∧
       (answered (.postNotice headP 2 1 .all [] (.once 5) (some 5) (some 1)) hallLate).map (·.body) = some [1, 1, 5]) ∧
    (let t := after (exec (.postNotice headP 2 1 .all [] (.once 5) (some 5) (some 50)) hallLate)
     (t.findShow 5).map (fun y => (y.delay, y.state.pastAmending)) = some (50, false) ∧ (t.noticeSlot 1).notice.isSome = true) ∧
    (answered (.postNotice headP 2 1 .all [] (.once 5) (some 5) (some 0)) hall).map (·.body) = some [] := by
  decide +kernel

/-- A CANCEL posting, with minutes or without, files NOTICES once, last of its filings (log 10). -/
theorem test_cancelFiles : ∀ minutes ∈ [none, some 5],
    Ready (.postNotice headP 1 1 .all [] (.once 5) (some 5) minutes) hall = true ∧
    (let t := after (exec (.postNotice headP 1 1 .all [] (.once 5) (some 5) minutes) hall)
     t.journal.entries.map (·.target) = [.boardLine 5, .notices] ∧ t.journal.cur = 2 ∧
       (t.findShow 5).map (·.state) = some .cancelled) := by decide +kernel

/-- A delay above 0 and one of 0, one equal to the show's, and a cancellation. -/
theorem met_DelayAndCancelNotices : Sized hall ∧ hall.findShow 5 = some show5 ∧ (∀ minutes ∈ [0, 180],
      Ready (.postNotice headP 2 1 .all [] (.once 5) (some 5) (some minutes)) hall = true ∧
      minutes = Nat.min minutes (Nat.min 180 (1439 - show5.start)) ∧
      dueTransition hall.policy hall.shows.clock { show5 with delay := minutes } = none ∧
      firstRefusal [(false, .badArgument), (decide (headP.port ≠ .programme), .notPermitted),
        ((hall.findShow 5).isNone, .noSuchShow),
        ((hall.findShow 5).any (fun sh =>
          sh.state == .running || sh.state == .closed || sh.state == .ended || sh.state == .cancelled), .notDelayable),
        ((hall.findShow 5).any (fun sh => decide (0 < Nat.min minutes (Nat.min 180 (1439 - sh.start))) &&
          (List.range 31).all (fun i => (hall.noticeSlot i).notice.any (fun n => !isDelayOf 5 n))), .noticeFull)] = none) ∧
    Sized hallLate ∧ (∀ minutes ∈ [1, 60],
      Ready (.postNotice headP 2 1 .all [] (.once 5) (some 5) (some minutes)) hallLate = true) ∧
    (hallLate.findShow 5).map (·.delay) = some 60 ∧
    priorityOf 1 = some .normal ∧ scopeOf .all = some .all ∧ lifeOf (.once 5) = some (.once 5) ∧
    Ready (.postNotice headP 1 1 .all [] (.once 5) (some 5) none) hall = true ∧
    firstRefusal [(false, .badArgument), (decide (headP.port ≠ .programme), .notPermitted),
      ((hall.findShow 5).isNone, .noSuchShow),
      ((hall.findShow 5).any (fun sh => sh.state == .closed || sh.state == .ended || sh.state == .cancelled), .notAmendable),
      ((List.range 31).all (fun i => (hall.noticeSlot i).notice.isSome), .noticeFull)] = none ∧
    false = ((priorityOf 1).isNone || (scopeOf .all).isNone || (lifeOf (.once 5)).isNone || decide (48 < ([] : List Byte).length) ||
      ([] : List Byte).any (fun x => decide (x.toNat < 32) || decide (126 < x.toNat))) :=
  ⟨sized_hall, by decide +kernel, by decide +kernel, sized_of (by decide +kernel) rfl, by decide +kernel⟩

theorem codes_DelayAndCancelNotices :
    codes hall [.postNotice headP 2 1 .all [] (.once 5) none (some 5), .postNotice headP 2 1 .all [] (.once 5) (some 5) none,
      .postNotice headA 2 1 .all [] (.once 5) (some 5) (some 5), .postNotice headP 2 1 .all [] (.once 5) (some 6) (some 5),
      .postNotice headP 2 1 .all [] (.once 5) (some 5) (some 181), .postNotice headA 1 1 .all [] (.once 5) (some 5) none,
      .postNotice headP 1 1 .all [] (.once 5) (some 6) none, .postNotice headP 1 1 .all [] (.once 5) (some 5) none] =
      [some .badArgument, some .badArgument, some .notPermitted, some .noSuchShow, some .ok, some .notPermitted,
       some .noSuchShow, some .ok] ∧
    codes (hallIn .running) [.postNotice headP 2 1 .all [] (.once 5) (some 5) (some 5),
      .postNotice headP 1 1 .all [] (.once 5) (some 5) none] = [some .notDelayable, some .ok] ∧
    codes (hallIn .ended) [.postNotice headP 1 1 .all [] (.once 5) (some 5) none] = [some .notAmendable] ∧
    codes (hall.withNotice { hall.notice with slots := List.replicate 32 ⟨1, some deskNotice⟩ })
      [.postNotice headP 2 1 .all [] (.once 5) (some 5) (some 5), .postNotice headP 2 1 .all [] (.once 5) (some 5) (some 0),
       .postNotice headP 1 1 .all [] (.once 5) (some 5) none] = [some .noticeFull, some .ok, some .noticeFull] := by
  decide +kernel

theorem met_HouseSettings : Sized hall ∧ Ready (.setChimePattern headP 2 [(16, 1), (255, 40), (0, 0), (255, 255)]) hall = true ∧
    firstRefusal [(hall.store.state != .idle, .storeBusy),
      (decide (2 < 2) || decide ([(16, 1), (255, 40), (0, 0), (255, 255)].length < 1) ||
        decide (4 < [(16, 1), (255, 40), (0, 0), (255, 255)].length), .badArgument)] = none ∧
    patternOf 2 = some .alarm ∧ Ready (.setStartLine headP 15 16 1 501) hall = true ∧ edgeOf 1 = some .falling ∧
    firstRefusal [(hall.store.state != .idle, .storeBusy), (decide (15 < 15 ∨ 16 < 16 ∨ 1 < 1), .badArgument)] = none ∧
    Ready (.setAlertLine headP 1 9) hall = true ∧ polarityOf 1 = some .activeLow ∧ polarityOf 0 = some .activeHigh ∧
    firstRefusal [(hall.store.state != .idle, .storeBusy), (decide (1 < 1), .badArgument)] = none ∧
    Polarity.activeLow ≠ hall.house.alertEntry.polarity ∧ Polarity.activeHigh = hall.house.alertEntry.polarity ∧
    Polarity.active .activeLow = hall.house.alertLine.stable :=
  ⟨sized_hall, by decide +kernel⟩

theorem codes_HouseSettings :
    codes hall [.setChimePattern headP 3 [(16, 1)], .setChimePattern headP 0 [], .setChimePattern headP 0 (List.replicate 5 (16, 1)),
      .setChimePattern headP 0 [(16, 1)], .setStartLine headP 16 0 0 50, .setStartLine headP 0 17 0 50,
      .setStartLine headP 0 0 2 50, .setStartLine headP 0 0 1 50, .setAlertLine headP 2 50, .setAlertLine headP 1 50] =
      [some .badArgument, some .badArgument, some .badArgument, some .ok, some .badArgument, some .badArgument,
       some .badArgument, some .ok, some .badArgument, some .ok] ∧
    codes (hallStore .writing) [.setChimePattern headP 3 [], .setStartLine headP 16 0 0 50, .setAlertLine headP 2 50] =
      List.replicate 3 (some .storeBusy) ∧
    (let t := after (exec (.setAlertLine headP 1 50) hall)
     t.house.alert = .alert ∧ (t.noticeSlot 31).notice.map (·.cls) = some .evacuate ∧ (t.reelAt 0).state = .held ∧
       t.journal.entries.map (·.target) = [.reel 0, .notices, .alert]) ∧
    (after (exec (.setAlertLine headP 1 50) (hallAlert .held))).journal = (hallAlert .held).journal ∧
    (after (exec (.setAlertLine headP 1 50) ((hallAlert .alert).withAlertLine ⟨.high, 0⟩))).house.alert = .held := by
  decide +kernel

theorem met_ClearAlertAnswersByState : ∃ s : State, Sized s ∧ Ready (.clearAlert headP) s = true ∧
    firstRefusal [(s.house.alert == .normal, .noAlert), (s.house.alert == .alert, .alertActive)] = none ∧
    (s.reelAt 0).state = .held ∧ (s.reelAt 1).state = .stopped :=
  ⟨(hallAlert .held).withReelAt 0 ⟨[9], 0, .spot 40 20, 20, .held, 1⟩, sized_of (by decide +kernel) rfl, by decide +kernel⟩

theorem codes_ClearAlertAnswersByState : codes (hallAlert .normal) [.clearAlert headP] = [some .noAlert] ∧
    codes (hallAlert .alert) [.clearAlert headP] = [some .alertActive] ∧
    codes (hallAlert .held) [.clearAlert headP] = [some .ok] := by decide +kernel

/-! ### Witnesses of the panel link -/

/-- Panel 1 in each state that waits, with what it has in hand. -/
def waitingPanels : List Panel :=
  [panelOne .unknown, panelOne .offline, panelOne .current, panelOne .behind,
   { panelOne .syncing with refresh := some ⟨0, [.alert, .notices], 0, false⟩ },
   { panelOne .syncing with refresh := some ⟨0, [.alert, .notices], 0, true⟩ },
   { panelOne .behind with batch := some ⟨.update, [.alert false], some 1⟩ }]

/-- A running part whose panel 1 is as given, with one change of the alert in the journal. -/
def withPanel (p : Panel) : State := (hall.withPanelAt 1 p).withJournal ⟨1, 0, [⟨1, .alert, .update⟩]⟩

theorem met_GrantServesTheNextPanel : ∀ p ∈ waitingPanels, Sized (withPanel p) ∧ (withPanel p).phase = .running ∧
    (withPanel p).link.cond = .idle ∧ (withPanel p).link.beaconPending = false ∧ nextWaiting (withPanel p) = some 1 ∧
    p = (withPanel p).panelAt 1 ∧
    (p.state = .behind → (withPanel p).journal.relevantAbove p.shown p.config ≠ [] ∧ (withPanel p).journal.floor ≤ p.shown) :=
  fun p hp => ⟨sized_of (by revert p; decide +kernel) rfl, by revert p; decide +kernel⟩

/-- The targets relevant to each view (R160). -/
theorem test_relevant : ([View.board, .door, .spot, .blank].map (fun v =>
      [Target.boardLine 5, .door 1, .door 2, .title 0, .reel 0, .reel 1, .notices, .alert].map
        (relevant { PanelConfig.default with view := v, aud := 1, reel := 0 }))) =
    [[true, false, false, true, false, false, true, true], [false, true, false, true, false, false, true, true],
     [false, false, false, false, true, false, true, true], [false, false, false, false, false, false, true, true]] := by
  decide +kernel

/-- The notices a panel reads: those of its scope, the first three in queue order (R131). -/
theorem test_noticesRead : (let s := hall.withNotice { hall.notice with
      slots := (List.range 31).map (fun i => ⟨1, some { deskNotice with scope := .groups (BitVec.ofNat 8 (2 ^ (i % 8))) }⟩) ++ [⟨0, none⟩] }
    match readTarget s { PanelConfig.default with group := 2 } .notices with
    | .notices l => l.map (·.slot)
    | _ => []) = [2, 10, 18] := by decide +kernel

/-- The order of the grants after each last-served address (R175), and a link with no panel waiting. -/
theorem test_grantOrder : arbiterOrder 0 = (List.range 24).map (· + 1) ∧ arbiterOrder 24 = (List.range 24).map (· + 1) ∧
    arbiterOrder 23 = 24 :: (List.range 23).map (· + 1) ∧ nextWaiting hall = none ∧
    (∀ b ∈ List.range 25, (hall.panelAt b).waiting hall.policy = false) ∧
    (∀ st ∈ [PanelState.unknown, .syncing, .behind], (panelOne st).waiting hall.policy = true) ∧
    ([1, 2].map (fun n => ({ panelOne .current with idle := n } : Panel).waiting hall.policy)) = [false, true] ∧
    ([29, 30].map (fun n => ({ panelOne .offline with idle := n } : Panel).waiting hall.policy)) = [false, true] ∧
    ({ panelOne .absent with retry := 1 } : Panel).waiting hall.policy = false := by decide +kernel

/-- The refresh list of each view (R178): 2 + 64 + N, 67, 3 and 2 targets. -/
theorem test_refreshLists : ([View.board, .door, .spot, .blank].map (fun v =>
      (refreshList (publishLine 5 hall) { PanelConfig.default with view := v }).length)) = [67, 67, 3, 2] := by decide +kernel

/-- A panel behind the floor begins a refresh (R177). -/
theorem test_behindFloor :
    ((after (exec .panelGrant ((withPanel (panelOne .behind)).withJournal ⟨9, 5, [⟨9, .alert, .update⟩]⟩))).panelAt 1).state =
      .syncing := by decide +kernel

theorem met_BeaconWindowAndIntervals : ∃ s : State, Sized s ∧ s.phase = .running ∧ s.link.cond = .idle ∧
    s.link.beaconPending = true ∧ (s.panelAt 24).state = .current ∧ (s.panelAt 24).idle + 1 = s.policy.pollInterval ∧
    s.policy.pollInterval ≤ 300 ∧ (s.panelAt 1).state = .offline ∧ (s.panelAt 1).idle + 1 = s.policy.probeInterval ∧
    s.policy.probeInterval ≤ 300 :=
  ⟨((hall.withPanelAt 24 { panelOne .current with idle := 1 }).withPanelAt 1 { panelOne .offline with idle := 29 }).setBeacon,
    sized_of (by decide +kernel) rfl, by decide +kernel⟩

theorem met_BeaconWindowAndIntervals_flight : (linked .current .beacon).link.cond = .beacon ∧
    (linked .current (.transaction { opened .poll false with window := none })).link.cond =
      .transaction { opened .poll false with window := none } ∧
    (linked .current (.transaction (opened .poll false))).link.cond = .transaction (opened .poll false) ∧
    (opened .poll false).window = some 1 ∧ (linked .current .beacon).phase = .running := by decide +kernel

/-- An ACK of each request from a panel of each state, with each batch in hand. -/
theorem met_PanelAcknowledges : ∀ p ∈ waitingPanels ++
      [{ panelOne .syncing with batch := some ⟨.refreshUpdate true, [], none⟩, refresh := some ⟨1, [], 0, false⟩ },
       { panelOne .syncing with batch := some ⟨.refreshUpdate false, [.alert true], none⟩, refresh := some ⟨1, [], 0, false⟩ },
       { panelOne .unknown with batch := some ⟨.refreshBegin, [], none⟩, refresh := some ⟨1, [], 0, false⟩ },
       { panelOne .current with phase := .resync, retry := 3, resync := true }],
    ∀ x ∈ [((0 : Byte), (0 : Byte)), (1, 0), (2, 255)], ∃ s tr r, Sized s ∧ s.phase = .running ∧
      s.link.cond = .transaction tr ∧ tr.window = some 1 ∧ 1 ≤ tr.addr ∧ tr.addr ≤ 24 ∧ tr.discard = false ∧
      checkAnswer tr.addr (answerBytes 1 0 x.1 x.2 6) = some r ∧ r.nak = none ∧ p = s.panelAt tr.addr ∧
      tr.hasBatch = p.batch.isSome := by
  intro p hp x hx
  refine ⟨(withPanel p).withCond (.transaction (opened .poll p.batch.isSome)), opened .poll p.batch.isSome,
    ⟨none, x.1.toNat, x.2.toNat, 6⟩, sized_of (by revert p; decide +kernel) rfl, rfl, rfl, rfl, Nat.le_refl 1,
    (by decide : 1 ≤ 24), rfl, ?_, rfl, rfl, rfl⟩
  simp only [List.mem_cons, List.not_mem_nil, or_false] at hx
  rcases hx with rfl | rfl | rfl
  · exact (by decide +kernel : checkAnswer 1 (answerBytes 1 0 0 0 6) = some ⟨none, 0, 0, 6⟩)
  · exact (by decide +kernel : checkAnswer 1 (answerBytes 1 0 1 0 6) = some ⟨none, 1, 0, 6⟩)
  · exact (by decide +kernel : checkAnswer 1 (answerBytes 1 0 2 255 6) = some ⟨none, 2, 255, 6⟩)

/-- A timeout, a check error, a bad answer and a NAK, at every retry count and phase. -/
theorem met_PanelFails : ∀ p ∈ [panelOne .offline, panelOne .unknown, { panelOne .current with retry := 2 },
      { panelOne .syncing with retry := 3 }, { panelOne .behind with retry := 3, phase := .resync },
      { panelOne .current with resync := true }],
    ∃ s tr, Sized s ∧ s.phase = .running ∧ s.link.cond = .transaction tr ∧ tr.window = some 1 ∧ 1 ≤ tr.addr ∧
      tr.addr ≤ 24 ∧ tr.discard = false ∧ p = s.panelAt tr.addr ∧ FailedBy .responseTimeout tr 1 .timeout ∧
      FailedBy (.panelAnswer []) tr 1 .check ∧ FailedBy (.panelAnswer (answerBytes 2 6 0 0 0)) tr 1 (.nak .overrun 0) := by
  intro p hp
  refine ⟨(withPanel p).withCond (.transaction (opened .poll false)), opened .poll false,
    sized_of (by revert p; decide +kernel) rfl, rfl, rfl, rfl, by decide, by decide, rfl, rfl, Or.inl ⟨rfl, by decide, rfl⟩,
    Or.inr (Or.inl ⟨[], rfl, rfl, rfl⟩), Or.inr (Or.inr ⟨answerBytes 2 6 0 0 0, ⟨some .overrun, 0, 0, 0⟩, .overrun, rfl, ?_, rfl, rfl⟩)⟩
  decide +kernel

/-- A NAK and an ACK with a fault, as they read; a frame whose check bytes are exchanged is none (log 39). -/
theorem test_answerReads : checkAnswer 1 (answerBytes 2 3 0 0 6) = some ⟨some .bodyCheck, 0, 0, 6⟩ ∧
    checkAnswer 1 (answerBytes 1 0 2 255 0) = some ⟨none, 2, 255, 0⟩ ∧
    checkAnswer 1 ((answerBytes 1 0 2 255 0).take 7 ++ ((answerBytes 1 0 2 255 0).drop 7).reverse) = none := by
  decide +kernel

/-- Check error by the window's end once an answer has begun. -/
theorem met_PanelFails_begun : FailedBy .responseTimeout { opened .poll false with begun := true } 0 .check :=
  Or.inl ⟨rfl, by decide, rfl⟩

/-- The field values and pairings R169 leaves out are check errors. -/
theorem test_answerChecks : checkAnswer 1 (answerBytes 1 0 2 0 0) = none ∧ checkAnswer 1 (answerBytes 1 0 0 1 0) = none ∧
    checkAnswer 1 (answerBytes 1 3 0 0 0) = none ∧ checkAnswer 1 (answerBytes 2 7 0 0 0) = none ∧
    checkAnswer 1 (answerBytes 2 3 1 0 0) = none ∧ checkAnswer 1 (answerBytes 1 0 0 0 7) = none ∧
    checkAnswer 2 (answerBytes 1 0 0 0 0) = none ∧ (checkAnswer 1 (answerBytes 2 3 0 0 6)).isSome = true := by decide +kernel

/-- An absent panel, a present one in each state, and one with a transaction in flight. -/
theorem met_PanelsAreConfigured : (∀ st ∈ [PanelState.absent, .unknown, .syncing, .current, .behind, .offline],
      ∀ c ∈ [LinkCond.idle, .transaction (opened .poll false)], Sized (linked st c) ∧
        Ready (.setPanel headP 1 true (.door 16) 7) (linked st c) = true ∧
        Ready (.setPanel headP 24 false .blank 0) (linked st c) = true) ∧
    firstRefusal [(hall.store.state != .idle, .storeBusy),
      (decide (1 = 0 ∨ 24 < 1 ∨ 7 < 7) || decide (16 = 0 ∨ 16 < 16), .badArgument)] = none :=
  ⟨fun st hs c hc => ⟨sized_of (by revert st c; decide +kernel) rfl, by revert st c; decide +kernel⟩, by decide +kernel⟩

theorem codes_PanelsAreConfigured : codes hall [.setPanel headP 0 true .blank 0, .setPanel headP 25 true .blank 0,
      .setPanel headP 1 true .blank 8, .setPanel headP 1 true (.unknown 4) 0, .setPanel headP 1 true (.door 0) 0,
      .setPanel headP 1 true (.door 17) 0, .setPanel headP 1 true (.spot 255) 0, .setPanel headP 24 true (.board 0 255) 7] =
      List.replicate 6 (some .badArgument) ++ [some .ok, some .ok] ∧
    codes (hallStore .checking) [.setPanel headP 0 true .blank 0] = [some .storeBusy] := by decide +kernel

theorem met_LinkResets : ∃ s tr, Sized s ∧ Ready (.linkReset headP) s = true ∧ (s.panelAt 1).state = .current ∧
    (s.panelAt 24).state = .absent ∧ s.link.cond = .transaction tr ∧ s.phase = .running ∧ tr.window = some 1 ∧
    1 ≤ tr.addr ∧ tr.addr ≤ 24 :=
  ⟨linked .current (.transaction (opened .poll false)), opened .poll false, sized_of (by decide +kernel) rfl, by decide +kernel⟩

/-- An answer whose transaction has been marked for discard, and the code of Link Reset. -/
theorem codes_LinkResets : codes hall [.linkReset headP] = [some .ok] ∧
    (after (exec (.panelAnswer (answerBytes 1 0 0 0 0))
      (linked .behind (.transaction { opened .update false with discard := true })))).link.cond = .idle := by decide +kernel

/-- Two shows whose bands change at Set Policy: each computation is whole before the next, in ascending key order (log 9). -/
theorem test_computations :
    (let s := hall.withShows { hall.shows with
        shows := [show5, { show5 with key := 6, aud := 2 }], doors := [some 5, some 6] ++ List.replicate 14 none }
     ((after (exec (.setPolicy headP [(7, 255)]) s)).journal.entries.map (·.target)) =
       [.boardLine 5, .door 1, .boardLine 6, .door 2]) := by decide +kernel

/-- Times changed, bands changed, the chime's setting changed either way, and nothing but the link's settings changed. -/
theorem met_PolicyIsSet : hall.shows.shows.Pairwise (fun a b => a.key < b.key) ∧
    (∀ l ∈ [[((0 : Nat), (255 : Nat))], [(7, 255)], [(15, 1)], [(10, 0), (13, 65535)], [(5, 192), (6, 0)]],
      Ready (.setPolicy headP l) hall = true ∧
      firstRefusal [(hall.store.state != .idle, .storeBusy),
        (decide (l = []) || l.any (fun x => decide (16 < x.1)) || !decide ((l.map (·.1)).Nodup) ||
          l.any (fun x => decide (x.1 = 15) && decide (1 < x.2)), .badArgument),
        (decide (192 < settingAfter hall.policy l 5 + settingAfter hall.policy l 6), .quotaSum)] = none) ∧
    timesChanged hall.policy (after (exec (.setPolicy headP [(0, 255)]) hall)).policy = true ∧
    bandsChanged hall.policy (after (exec (.setPolicy headP [(7, 255)]) hall)).policy = true ∧
    (after (exec (.setPolicy headP [(15, 1)]) hall)).policy.chimeEnable ≠ hall.policy.chimeEnable := by decide +kernel

theorem codes_PolicyIsSet : codes hall [.setPolicy headP [], .setPolicy headP [(17, 0)], .setPolicy headP [(0, 1), (0, 2)],
      .setPolicy headP [(15, 2)], .setPolicy headP [(5, 97)], .setPolicy headP [(5, 97), (6, 95)]] =
      [some .badArgument, some .badArgument, some .badArgument, some .badArgument, some .quotaSum, some .ok] ∧
    codes (hallStore .writing) [.setPolicy headP []] = [some .storeBusy] := by decide +kernel

/-- The clock set back leaves every life, and set past a window takes the CANCEL notice (R129, R204). -/
theorem test_clockNotices : (let live := fun m => (List.range 4).map (fun i =>
      ((after (exec (.setClock headP m 0) (noticed 600))).noticeSlot i).notice.map (·.life))
    live 819 = [some (.once 1), some (.repeats 60 1), some (.once 2), some (.once 2)] ∧
    live 820 = [some (.once 1), some (.repeats 60 1), none, some (.once 2)]) := by decide +kernel

theorem met_ClockIsSet : hall.shows.shows.Pairwise (fun a b => a.key < b.key) ∧ Ready (.setClock headP 1439 59) hall = true ∧
    firstRefusal [(decide (1439 < 1439 ∨ 59 < 59), .badArgument)] = none := by decide +kernel

theorem codes_ClockIsSet : codes hall [.setClock headP 1440 0, .setClock headP 0 60, .setClock headP 1439 59, .setClock headP 0 0] =
    [some .badArgument, some .badArgument, some .ok, some .ok] := by decide +kernel

theorem met_SetupIsSaved : Ready (.saveSetup headP) hall = true ∧
    firstRefusal [(hall.store.state != .idle, .storeBusy)] = none ∧
    (∀ x ∈ [StoreState.erasing, .writing, .checking], (hallStore x).phase = .running ∧ (hallStore x).store.state = x ∧
      x ≠ .idle) := by decide +kernel

/-- A save through its states, and one that ends in a fault. -/
theorem codes_SetupIsSaved : codes hall [.saveSetup headP] = [some .ok] ∧
    codes (hallStore .erasing) [.saveSetup headP] = [some .storeBusy] ∧
    (after (exec .storeWriteDone (hallStore .writing))).store = ⟨.checking, some (itemsOf hall)⟩ ∧
    causeSet .programme .storeDone (after (exec (.storeCheckDone true) (hallStore .checking))) = true ∧
    causeSet .programme .storeFailed (after (exec .storeFault (hallStore .erasing))) = true := by decide +kernel

/-! ### Decoding by words: no row of the table gives bits -/

theorem test_noWords : decodeTableWord 0 0 = none ∧ decodeTableWord 16 65535 = none ∧
    State.withFetchWord base 16 3 = base := ⟨rfl, rfl, rfl⟩

end Sys2Proof.Tests
end

/-! ## The sizes of the tables (O5) -/

namespace Sys2Proof.Machine

/-- The lengths of the tables, and the store: what every command but a reset, a start-up, a Day Clear and the store's own
events leaves equal. -/
def State.extents (s : State) : List Nat × SetupStore :=
  ([s.shows.titles.length, s.shows.doors.length, s.seat.slots.length, s.board.doors.length, s.board.titles.length,
    s.reel.reels.length, s.notice.slots.length, s.house.map.length, s.house.lines.length, s.link.panels.length],
    s.store)

theorem Sized.of_extents {s t : State} (h : t.extents = s.extents) (hs : Sized s) : Sized t := by
  simp only [State.extents, Prod.mk.injEq, List.cons.injEq, and_true] at h
  obtain ⟨⟨h1, h2, h3, h4, h5, h6, h7, h8, h9, h10⟩, h11⟩ := h
  simpa only [Sized, h1, h2, h3, h4, h5, h6, h7, h8, h9, h10, h11] using hs

/-! ### Updates of one block -/

@[simp] theorem withPhase_extents (s : State) (x : Phase) : (s.withPhase x).extents = s.extents := rfl
@[simp] theorem withStoreInvalid_extents (s : State) (x : Bool) : (s.withStoreInvalid x).extents = s.extents := rfl
@[simp] theorem withChime_extents (s : State) (x : ChimeUnit) : (s.withChime x).extents = s.extents := rfl
@[simp] theorem withJournal_extents (s : State) (x : Journal) : (s.withJournal x).extents = s.extents := rfl
@[simp] theorem withPorts_extents (s : State) (x : Ports) : (s.withPorts x).extents = s.extents := rfl
@[simp] theorem withPortAt_extents (s : State) (p : Port) (x : PortState) : (s.withPortAt p x).extents = s.extents := rfl
@[simp] theorem withPolicy_extents (s : State) (x : Policy) : (s.withPolicy x).extents = s.extents := rfl
@[simp] theorem withPending_extents (s : State) (x : List Instr) : (s.withPending x).extents = s.extents := rfl
@[simp] theorem withShowList_extents (s : State) (l : List Show) : (s.withShowList l).extents = s.extents := rfl
@[simp] theorem withClock_extents (s : State) (c : Clock) : (s.withClock c).extents = s.extents := rfl
@[simp] theorem modifyShow_extents (s : State) (k : Nat) (f : Show → Show) : (s.modifyShow k f).extents = s.extents := rfl
@[simp] theorem withLines_extents (s : State) (l : List BoardLine) : (s.withLines l).extents = s.extents := rfl
@[simp] theorem withCond_extents (s : State) (c : LinkCond) : (s.withCond c).extents = s.extents := rfl
@[simp] theorem setBeacon_extents (s : State) : s.setBeacon.extents = s.extents := rfl
@[simp] theorem withAlert_extents (s : State) (a : AlertState) : (s.withAlert a).extents = s.extents := rfl
@[simp] theorem withAlertLine_extents (s : State) (x : LineState) : (s.withAlertLine x).extents = s.extents := rfl

@[simp] theorem withShows_extents (s : State) (x : ShowTable) (ht : x.titles.length = s.shows.titles.length)
    (hd : x.doors.length = s.shows.doors.length) : (s.withShows x).extents = s.extents := by
  simp [State.extents, ht, hd]

@[simp] theorem withSeat_extents (s : State) (x : SeatUnit) (h : x.slots.length = s.seat.slots.length) :
    (s.withSeat x).extents = s.extents := by
  simp [State.extents, h]

@[simp] theorem withBoard_extents (s : State) (x : BoardBuilder) (hd : x.doors.length = s.board.doors.length)
    (ht : x.titles.length = s.board.titles.length) : (s.withBoard x).extents = s.extents := by
  simp [State.extents, ht, hd]

@[simp] theorem withReel_extents (s : State) (x : ReelUnit) (h : x.reels.length = s.reel.reels.length) :
    (s.withReel x).extents = s.extents := by
  simp [State.extents, h]

@[simp] theorem withNotice_extents (s : State) (x : NoticeQueue) (h : x.slots.length = s.notice.slots.length) :
    (s.withNotice x).extents = s.extents := by
  simp [State.extents, h]

@[simp] theorem withHouse_extents (s : State) (x : HouseUnit) (hm : x.map.length = s.house.map.length)
    (hl : x.lines.length = s.house.lines.length) : (s.withHouse x).extents = s.extents := by
  simp [State.extents, hm, hl]

@[simp] theorem withLink_extents (s : State) (x : PanelLink) (h : x.panels.length = s.link.panels.length) :
    (s.withLink x).extents = s.extents := by
  simp [State.extents, h]

@[simp] theorem withHoldSlot_extents (s : State) (i : Nat) (x : HoldSlot) : (s.withHoldSlot i x).extents = s.extents := by
  simp [State.withHoldSlot]

@[simp] theorem withReelAt_extents (s : State) (r : Nat) (x : Reel) : (s.withReelAt r x).extents = s.extents := by
  simp [State.withReelAt]

@[simp] theorem withPanelAt_extents (s : State) (a : Nat) (x : Panel) : (s.withPanelAt a x).extents = s.extents := by
  simp [State.withPanelAt]

@[simp] theorem withLineState_extents (s : State) (i : Nat) (x : LineState) :
    (s.withLineState i x).extents = s.extents := by
  simp [State.withLineState]

/-- A fold of operations that keep the sizes keeps them. -/
theorem foldl_extents {α : Type} (g : State → α → State) (h : ∀ s a, (g s a).extents = s.extents) (l : List α)
    (s : State) : (l.foldl g s).extents = s.extents := foldl_keep State.extents g h l s

/-! ### Causes, filings and publication -/

@[simp] theorem raise_extents (p : Port) (c : Cause) (s : State) : (raise p c s).extents = s.extents := rfl
@[simp] theorem raiseAll_extents (c : Cause) (s : State) : (raiseAll c s).extents = s.extents := rfl

@[simp] theorem handOff_extents (s : State) : (handOff s).extents = s.extents := by simp [handOff]
@[simp] theorem panelsAtWrap_extents (s : State) : (panelsAtWrap s).extents = s.extents := by simp [panelsAtWrap]

@[simp] theorem file_extents (t : Target) (f : Form) (s : State) : (file t f s).extents = s.extents := by
  simp only [file]
  split_ifs <;> simp

@[simp] theorem fileNotices_extents (s : State) : (fileNotices s).extents = s.extents := file_extents _ _ s
@[simp] theorem fileReel_extents (r : Nat) (s : State) : (fileReel r s).extents = s.extents := file_extents _ _ s

@[simp] theorem publishLine_extents (key : Nat) (s : State) : (publishLine key s).extents = s.extents := by
  unfold publishLine
  repeat' split
  all_goals simp

@[simp] theorem publishDoor_extents (aud : Nat) (s : State) : (publishDoor aud s).extents = s.extents := by
  unfold publishDoor
  split <;> simp

@[simp] theorem publishTitle_extents (index : Nat) (s : State) : (publishTitle index s).extents = s.extents := by
  simp only [publishTitle]
  split <;> simp

@[simp] theorem publishLines_extents (keys : List Nat) (s : State) : (publishLines keys s).extents = s.extents :=
  foldl_extents _ (fun s k => publishLine_extents k s) keys s

@[simp] theorem publishDoors_extents (auds : List Nat) (s : State) : (publishDoors auds s).extents = s.extents :=
  foldl_extents _ (fun s a => publishDoor_extents a s) auds s

@[simp] theorem publishShow_extents (key : Nat) (auds : List Nat) (s : State) :
    (publishShow key auds s).extents = s.extents := by simp [publishShow]

@[simp] theorem publishAll_extents (s : State) : (publishAll s).extents = s.extents := by simp [publishAll]
@[simp] theorem testWindows_extents (s : State) : (testWindows s).extents = s.extents := by simp [testWindows]

/-! ### Holds and availability -/

@[simp] theorem computeShow_extents (key : Nat) (s : State) : (computeShow key s).extents = s.extents := by
  simp [computeShow]
@[simp] theorem availability_extents (key : Nat) (s : State) : (availability key s).extents = s.extents := by
  simp [availability, handOn]
@[simp] theorem computeAll_extents (s : State) : (computeAll s).extents = s.extents :=
  foldl_extents _ (fun s k => availability_extents k s) s.showKeys s

@[simp] theorem withPortCount_slots (u : SeatUnit) (p : Port) (n : Nat) : (u.withPortCount p n).slots = u.slots := by
  cases p <;> rfl

@[simp] theorem grant_length (u : SeatUnit) (slot : Nat) (info : HoldInfo) (life : Nat) :
    (u.grant slot info life).slots.length = u.slots.length := by
  simp [SeatUnit.grant]

@[simp] theorem endHold_extents (slot : Nat) (r : EndReason) (s : State) : (endHold slot r s).extents = s.extents := by
  unfold endHold
  split <;> simp [release_length]

@[simp] theorem expireHold_extents (slot : Nat) (s : State) : (expireHold slot s).extents = s.extents := by
  unfold expireHold
  split <;> simp

@[simp] theorem voidHold_extents (slot : Nat) (s : State) : (voidHold slot s).extents = s.extents := by
  unfold voidHold
  split <;> simp

@[simp] theorem voidHolds_extents (keys : List Nat) (s : State) : (voidHolds keys s).extents = s.extents :=
  foldl_extents _ (fun s i => voidHold_extents i s) (activeSlotsOn keys s) s

@[simp] theorem voidShow_extents (key : Nat) (s : State) : (voidShow key s).extents = s.extents := by
  unfold voidShow
  split <;> simp

@[simp] theorem tickSlot_extents (slot : Nat) (s : State) : (tickSlot slot s).extents = s.extents := by
  unfold tickSlot
  repeat' split
  all_goals simp

@[simp] theorem seatTick_extents (s : State) : (seatTick s).extents = s.extents := by
  unfold seatTick
  split
  · exact foldl_extents _ (fun s i => tickSlot_extents i s) _ s
  · rfl

/-! ### Notices and the chime -/

@[simp] theorem withPortLive_slots (q : NoticeQueue) (p : Port) (n : Nat) : (q.withPortLive p n).slots = q.slots := by
  cases p <;> rfl

@[simp] theorem countOrigin_slots (q : NoticeQueue) (o : Origin) (f : Nat → Nat) :
    (q.countOrigin o f).slots = q.slots := by
  cases o <;> simp [NoticeQueue.countOrigin]

@[simp] theorem advance_length (q : NoticeQueue) : q.advance.slots.length = q.slots.length := by
  simp only [NoticeQueue.advance]
  split <;> simp [NoticeQueue.renumber]

@[simp] theorem post_length (q : NoticeQueue) (slot : Nat) (n : Notice) :
    (q.post slot n).slots.length = q.slots.length := by
  simp [NoticeQueue.post]

@[simp] theorem drop_length (q : NoticeQueue) (slot : Nat) : (q.drop slot).slots.length = q.slots.length := by
  unfold NoticeQueue.drop
  split <;> simp

@[simp] theorem dropAll_length (q : NoticeQueue) (slots : List Nat) :
    (q.dropAll slots).slots.length = q.slots.length :=
  foldl_keep (fun q : NoticeQueue => q.slots.length) _ drop_length slots q

@[simp] theorem mapNotices_length (q : NoticeQueue) (f : Notice → Notice) :
    (q.mapNotices f).slots.length = q.slots.length := by
  simp [NoticeQueue.mapNotices]

@[simp] theorem chimeTrigger_extents (p : ChimePattern) (s : State) : (chimeTrigger p s).extents = s.extents := rfl
@[simp] theorem chimeTick_extents (s : State) : (chimeTick s).extents = s.extents := rfl
@[simp] theorem chimeEnableChanged_extents (on : Bool) (s : State) : (chimeEnableChanged on s).extents = s.extents := by
  unfold chimeEnableChanged
  split_ifs <;> simp

@[simp] theorem withdrawWhere_extents (f : Notice → Bool) (s : State) : (withdrawWhere f s).extents = s.extents := by
  simp only [withdrawWhere]
  split <;> simp

@[simp] theorem withdrawDelay_extents (key : Nat) (s : State) : (withdrawDelay key s).extents = s.extents :=
  withdrawWhere_extents _ s
@[simp] theorem noticesAtClockSet_extents (s : State) : (noticesAtClockSet s).extents = s.extents :=
  withdrawWhere_extents _ s

@[simp] theorem raiseEnded_extents (gone : List Notice) (s : State) : (raiseEnded gone s).extents = s.extents :=
  foldl_extents _ (fun s n => by cases n.origin <;> simp) gone s

@[simp] theorem expireNotices_extents (s : State) : (expireNotices s).extents = s.extents := by
  simp only [expireNotices]
  split <;> simp

@[simp] theorem reachIntervals_extents (s : State) : (reachIntervals s).extents = s.extents := by
  simp only [reachIntervals]
  split <;> simp

@[simp] theorem noticeBoundary_extents (s : State) : (noticeBoundary s).extents = s.extents := by
  simp only [noticeBoundary]
  split_ifs <;> simp

@[simp] theorem postEvacuate_extents (s : State) : (postEvacuate s).extents = s.extents := by simp [postEvacuate]
@[simp] theorem dropEvacuate_extents (s : State) : (dropEvacuate s).extents = s.extents := by simp [dropEvacuate]

/-! ### Shows and the clock -/

@[simp] theorem recomputeDoor_extents (s : State) (aud : Nat) : (recomputeDoor s aud).extents = s.extents := by
  simp [recomputeDoor]

@[simp] theorem recomputeDoors_extents (auds : List Nat) (s : State) : (recomputeDoors auds s).extents = s.extents :=
  foldl_extents _ recomputeDoor_extents auds s

@[simp] theorem seatAtEntry_extents (key : Nat) (st : ShowState) (s : State) :
    (seatAtEntry key st s).extents = s.extents := by
  cases st <;> simp [seatAtEntry]

@[simp] theorem noticeAtEntry_extents (key : Nat) (st : ShowState) (s : State) :
    (noticeAtEntry key st s).extents = s.extents := by
  cases st <;> simp [noticeAtEntry]

@[simp] theorem enterState_extents (b : Bool) (key : Nat) (st : ShowState) (x : Option (StartedBy × Nat)) (s : State) :
    (enterState b key st x s).extents = s.extents := by
  unfold enterState
  split
  · rfl
  · dsimp only
    split <;> simp

@[simp] theorem evalOnce_extents (b : Bool) (key : Nat) (s : State) : (evalOnce b key s).extents = s.extents := by
  unfold evalOnce
  repeat' split
  all_goals simp

@[simp] theorem evaluate_extents (b : Bool) (key : Nat) (s : State) : (evaluate b key s).extents = s.extents := by
  simp [evaluate]

@[simp] theorem evaluateKeys_extents (b : Bool) (keys : List Nat) (s : State) :
    (evaluateKeys b keys s).extents = s.extents :=
  foldl_extents _ (fun s k => evaluate_extents b k s) keys s

@[simp] theorem evaluateAll_extents (s : State) : (evaluateAll s).extents = s.extents := evaluateKeys_extents _ _ s

@[simp] theorem startChanged_extents (key aud : Nat) (s : State) : (startChanged key aud s).extents = s.extents := by
  simp [startChanged]

@[simp] theorem arrival_extents (aud : Nat) (s : State) : (arrival aud s).extents = s.extents := by
  unfold arrival
  repeat' split
  all_goals simp

@[simp] theorem dropShow_extents (key : Nat) (s : State) : (dropShow key s).extents = s.extents := by simp [dropShow]

@[simp] theorem rollDay_extents (s : State) : (rollDay s).extents = s.extents := by
  simp only [rollDay]
  split <;> simp

@[simp] theorem boundaryAt_extents (r : MinReceiver) (s : State) : (boundaryAt r s).extents = s.extents := by
  cases r <;> simp [boundaryAt]

@[simp] theorem minuteBoundary_extents (order : List MinReceiver) (s : State) :
    (minuteBoundary order s).extents = s.extents := by
  simp only [minuteBoundary]
  rw [foldl_extents _ (fun s r => boundaryAt_extents r s)]
  split <;> simp

@[simp] theorem clockTick_extents (order : List MinReceiver) (s : State) : (clockTick order s).extents = s.extents := by
  unfold clockTick
  split_ifs <;> simp

@[simp] theorem clockSet_extents (s : State) : (clockSet s).extents = s.extents := by simp [clockSet]

/-! ### Reels, the house and the link -/

@[simp] theorem cueReel_extents (b : Bool) (r : Nat) (s : State) : (cueReel b r s).extents = s.extents := by
  simp [cueReel]

@[simp] theorem tickReel_extents (r : Nat) (s : State) : (tickReel r s).extents = s.extents := by
  unfold tickReel
  split_ifs <;> simp

@[simp] theorem reelTick_extents (s : State) : (reelTick s).extents = s.extents := by
  unfold reelTick
  split
  · exact foldl_extents _ (fun s r => tickReel_extents r s) _ s
  · rfl

@[simp] theorem holdReel_extents (r : Nat) (s : State) : (holdReel r s).extents = s.extents := by
  unfold holdReel
  split <;> simp

@[simp] theorem holdReels_extents (s : State) : (holdReels s).extents = s.extents :=
  foldl_extents _ (fun s r => holdReel_extents r s) _ s

@[simp] theorem resumeReel_extents (r : Nat) (s : State) : (resumeReel r s).extents = s.extents := by
  unfold resumeReel
  repeat' split
  all_goals simp

@[simp] theorem resumeReels_extents (s : State) : (resumeReels s).extents = s.extents :=
  foldl_extents _ (fun s r => resumeReel_extents r s) _ s

@[simp] theorem startUpReel_extents (r : Nat) (s : State) : (startUpReel r s).extents = s.extents := by
  unfold startUpReel
  split_ifs <;> simp

@[simp] theorem startUpReels_extents (s : State) : (startUpReels s).extents = s.extents :=
  foldl_extents _ (fun s r => startUpReel_extents r s) _ s

@[simp] theorem cueOrHold_extents (r : Nat) (s : State) : (cueOrHold r s).extents = s.extents := by
  unfold cueOrHold
  split <;> simp

@[simp] theorem alertEntry_extents (s : State) : (alertEntry s).extents = s.extents := by simp [alertEntry]
@[simp] theorem alertReentry_extents (s : State) : (alertReentry s).extents = s.extents := by simp [alertReentry]
@[simp] theorem alertHold_extents (s : State) : (alertHold s).extents = s.extents := by simp [alertHold]
@[simp] theorem alertReturn_extents (s : State) : (alertReturn s).extents = s.extents := by simp [alertReturn]

@[simp] theorem readingChanged_extents (b : Bool) (s : State) : (readingChanged b s).extents = s.extents := by
  unfold readingChanged becomesActive becomesInactive
  repeat' split
  all_goals simp

@[simp] theorem lineQualified_extents (i : Nat) (l : Level) (s : State) : (lineQualified i l s).extents = s.extents := by
  simp only [lineQualified]
  split <;> simp

@[simp] theorem sampleLine_extents (i : Nat) (l : Level) (s : State) : (sampleLine i l s).extents = s.extents := by
  simp only [sampleLine]
  split <;> simp

@[simp] theorem sampleLines_extents (w : Word) (s : State) : (sampleLines w s).extents = s.extents :=
  foldl_extents _ (fun s i => sampleLine_extents i _ s) _ s

@[simp] theorem sampleAlert_extents (l : Level) (s : State) : (sampleAlert l s).extents = s.extents := by
  simp only [sampleAlert]
  split <;> simp

@[simp] theorem writeAlertEntry_extents (p : Polarity) (d : Nat) (s : State) :
    (writeAlertEntry p d s).extents = s.extents := by
  simp only [writeAlertEntry]
  split <;> simp

@[simp] theorem raiseInvalid_extents (s : State) : (raiseInvalid s).extents = s.extents := by
  unfold raiseInvalid
  split <;> simp

@[simp] theorem alertFound_extents (l : Level) (s : State) : (alertFound l s).extents = s.extents := by
  simp only [alertFound, startUpAlert]
  split <;> simp

@[simp] theorem startUpAlertSample_extents (l : Level) (s : State) : (startUpAlertSample l s).extents = s.extents := by
  simp only [startUpAlertSample]
  split <;> simp

@[simp] theorem grantTo_extents (a : Nat) (s : State) : (grantTo a s).extents = s.extents := by simp [grantTo]

@[simp] theorem applyAck_extents (a : Nat) (b : Bool) (r : PanelReply) (s : State) :
    (applyAck a b r s).extents = s.extents := by
  simp only [applyAck]
  split_ifs <;> simp

@[simp] theorem applyFailure_extents (a : Nat) (f : Failure) (s : State) : (applyFailure a f s).extents = s.extents := by
  simp only [applyFailure]
  split_ifs <;> simp

@[simp] theorem endTransaction_extents (t : Transaction) (o : LinkOutcome) (s : State) :
    (endTransaction t o s).extents = s.extents := by
  simp only [endTransaction, applyOutcome]
  repeat' split
  all_goals simp

@[simp] theorem windowOut_extents (s : State) : (windowOut s).extents = s.extents := by
  unfold windowOut
  repeat' split
  all_goals simp

@[simp] theorem linkTick_extents (s : State) : (linkTick s).extents = s.extents := by
  unfold linkTick
  repeat' split
  all_goals simp

@[simp] theorem idleTick_extents (s : State) : (idleTick s).extents = s.extents := by simp [idleTick]

/-! ### Ticks -/

theorem whenTicking_extents (f : State → State) (h : ∀ s, (f s).extents = s.extents) (s : State) :
    (whenTicking f s).extents = s.extents := by
  unfold whenTicking
  split <;> simp [h]

theorem whenRunning_extents (f : State → State) (h : ∀ s, (f s).extents = s.extents) (s : State) :
    (whenRunning f s).extents = s.extents := by
  unfold whenRunning
  split <;> simp [h]

theorem msTickAt_extents (w : Word) (l : Level) (r : MsReceiver) (s : State) :
    (msTickAt w l r s).extents = s.extents := by
  cases r with
  | house =>
    simp only [msTickAt, houseTick]
    split <;> simp
  | _ => simp [msTickAt, portsTick]

theorem secTickAt_extents (m : List MinReceiver) (r : SecReceiver) (s : State) :
    (secTickAt m r s).extents = s.extents := by
  cases r <;> simp [secTickAt]

theorem expiryDue_extents (slot : Nat) (s : State) : (expiryDue slot s).extents = s.extents := by
  unfold expiryDue
  repeat' split
  all_goals simp

theorem noteDue_extents (s : State) : (noteDue s).extents = s.extents := by
  unfold noteDue
  repeat' split
  all_goals simp

theorem panelGrant_extents (s : State) : (panelGrant s).extents = s.extents := by
  unfold panelGrant
  repeat' split
  all_goals simp

theorem panelFrameSent_extents (s : State) : (panelFrameSent s).extents = s.extents := by
  unfold panelFrameSent
  repeat' split
  all_goals simp

theorem panelAnswer_extents (bytes : List Byte) (s : State) : (panelAnswer bytes s).extents = s.extents := by
  unfold panelAnswer
  repeat' split
  all_goals simp

theorem panelAnswerStart_extents (s : State) : (panelAnswerStart s).extents = s.extents := by
  unfold panelAnswerStart
  repeat' split
  all_goals simp

/-! ### Requests -/

theorem putInExecution_extents (h : Hdr) (f : Frame) (s : State) : (putInExecution h f s).extents = s.extents := by
  unfold putInExecution
  split <;> simp

theorem takeRequest_sized (c : Instr) {owner : Owner} (ho : ∀ u, Sized u → Sized (owner u).1) {s : State}
    (hs : Sized s) : Sized (takeRequest c owner s) := by
  unfold takeRequest
  split
  · exact hs
  · rename_i h kind body _
    have hp : Sized (putInExecution h (requestFrameOf h kind body) s) := hs.of_extents (putInExecution_extents _ _ s)
    split
    · dsimp only
      split
      · exact hp
      · exact ho _ hp
    · exact hs

/-- A request whose owner keeps the tables' sizes keeps them. -/
theorem request_sized {c : Instr} {owner : Owner} {s t : State} (ho : ∀ u, Sized u → Sized (owner u).1)
    (hs : Sized s) (h : request c owner s = .next t) : Sized t := by
  cases h
  exact takeRequest_sized c ho hs

/-- An owner that leaves the lengths and the store as they are keeps the tables' sizes. -/
theorem request_sized_of_extents {c : Instr} {owner : Owner} {s t : State}
    (ho : ∀ u, (owner u).1.extents = u.extents) (hs : Sized s) (h : request c owner s = .next t) : Sized t :=
  request_sized (fun u => Sized.of_extents (ho u)) hs h

@[simp] theorem deny_state (c : Result) (s : State) : (deny c s).1 = s := rfl

theorem openSales_extents (key : Nat) (s : State) : (openSales key s).1.extents = s.extents := by
  unfold openSales
  repeat' split
  all_goals simp

theorem cancelShow_extents (key : Nat) (s : State) : (cancelShow key s).1.extents = s.extents := by
  unfold cancelShow
  repeat' split
  all_goals simp

theorem removeShow_extents (key : Nat) (s : State) : (removeShow key s).1.extents = s.extents := by
  unfold removeShow
  repeat' split
  all_goals simp

theorem loadShow_extents (key day aud title start run delay : Nat) (caps : Nat × Nat × Nat) (hidden : Bool)
    (sibling : Option Nat) (sold withheld : Option Nat × Option Nat × Option Nat) (openNow : Bool) (s : State) :
    (loadShow key day aud title start run delay caps hidden sibling sold withheld openNow s).1.extents = s.extents := by
  simp only [loadShow]
  split <;> simp [createShow]

theorem amendShow_extents (key : Nat) (start run aud title : Option Nat) (sibling : Option (Option Nat))
    (hidden : Option Bool) (s : State) :
    (amendShow key start run aud title sibling hidden s).1.extents = s.extents := by
  unfold amendShow
  split
  · simp
  · dsimp only
    split_ifs <;> simp

theorem readShow_state (key : Nat) (s : State) : (readShow key s).1 = s := by
  unfold readShow
  split <;> rfl

theorem defineTitle_extents (index : Nat) (text : List Byte) (rating : Nat) (s : State) :
    (defineTitle index text rating s).1.extents = s.extents := by
  unfold defineTitle
  split <;> simp

theorem rollDayRequest_extents (s : State) : (rollDayRequest s).1.extents = s.extents := by
  unfold rollDayRequest
  split <;> simp

theorem setPoolSplit_extents (value : Nat) (s : State) : (setPoolSplit value s).1.extents = s.extents := by
  simp only [setPoolSplit]
  split_ifs <;> simp

theorem readDoor_state (aud : Nat) (s : State) : (readDoor aud s).1 = s := by
  unfold readDoor
  split <;> rfl

theorem setPanel_extents (addr : Nat) (present : Bool) (view : ViewArg) (group : Nat) (s : State) :
    (setPanel addr present view group s).1.extents = s.extents := by
  unfold setPanel
  repeat' split
  all_goals simp

theorem linkReset_extents (s : State) : (linkReset s).1.extents = s.extents := by
  simp [linkReset, PanelLink.reset]

theorem readPanel_extents (addr : Nat) (clear : Bool) (s : State) : (readPanel addr clear s).1.extents = s.extents := by
  unfold readPanel
  repeat' split
  all_goals simp

theorem setPolicy_extents (l : List (Nat × Nat)) (s : State) : (setPolicy l s).1.extents = s.extents := by
  simp only [setPolicy, policyChanged]
  split_ifs <;> simp

theorem setClock_extents (minute second : Nat) (s : State) : (setClock minute second s).1.extents = s.extents := by
  unfold setClock
  split <;> simp

theorem setStartLine_extents (line aud edge debounce : Nat) (s : State) :
    (setStartLine line aud edge debounce s).1.extents = s.extents := by
  unfold setStartLine
  repeat' split
  all_goals simp

theorem setAlertLine_extents (polarity debounce : Nat) (s : State) :
    (setAlertLine polarity debounce s).1.extents = s.extents := by
  unfold setAlertLine
  repeat' split
  all_goals simp

theorem clearAlert_extents (s : State) : (clearAlert s).1.extents = s.extents := by
  unfold clearAlert
  split <;> simp

theorem queueFor_length (x : Posting) (q : NoticeQueue) : (queueFor x q).slots.length = q.slots.length := by
  unfold queueFor
  split <;> simp

theorem takeSlot_extents (h : Hdr) (x : Posting) (s : State) : (takeSlot h x s).extents = s.extents := by
  simp [takeSlot]

theorem announce_extents (x : Posting) (s : State) : (announce x s).extents = s.extents := by
  unfold announce
  split <;> simp

theorem postDelay_extents (h : Hdr) (x : Posting) (sh : Show) (s : State) : (postDelay h x sh s).extents = s.extents := by
  simp only [postDelay, withdrawPosted]
  split_ifs <;> simp [queueFor_length, takeSlot_extents, announce_extents]

theorem postNotice_extents (h : Hdr) (cls prio : Nat) (scope : ScopeArg) (text : List Byte) (life : LifeArg)
    (key minutes : Option Nat) (s : State) :
    (postNotice h cls prio scope text life key minutes s).1.extents = s.extents := by
  unfold postNotice
  repeat' split
  all_goals simp [postDelay_extents, postCancel, postPlain, takeSlot_extents, announce_extents]

theorem withdrawNotice_extents (p : Port) (slot gen : Nat) (s : State) :
    (withdrawNotice p slot gen s).1.extents = s.extents := by
  unfold withdrawNotice
  repeat' split
  all_goals simp
  unfold raiseWithdrawn
  split <;> simp

theorem setChimePattern_extents (pattern : Nat) (notes : List (Nat × Nat)) (s : State) :
    (setChimePattern pattern notes s).1.extents = s.extents := by
  unfold setChimePattern
  repeat' split
  all_goals simp

theorem setCauseMask_extents (p : Port) (mask : Nat) (s : State) : (setCauseMask p mask s).1.extents = s.extents := by
  simp only [setCauseMask]
  split <;> simp

theorem readPortStatus_extents (own : Port) (selector : Nat) (clear : Bool) (s : State) :
    (readPortStatus own selector clear s).1.extents = s.extents := by
  unfold readPortStatus
  repeat' split
  all_goals simp

theorem defineSpot_extents (key media duration : Nat) (title : Option Nat) (s : State) :
    (defineSpot key media duration title s).1.extents = s.extents := by
  simp only [defineSpot]
  split_ifs <;> simp

theorem removeSpot_extents (key : Nat) (s : State) : (removeSpot key s).1.extents = s.extents := by
  unfold removeSpot
  split_ifs <;> simp

theorem readSpot_state (key : Nat) (s : State) : (readSpot key s).1 = s := by
  unfold readSpot
  split <;> rfl

theorem buildReel_extents (r : Nat) (items : List (Nat × Nat)) (step : Nat) (s : State) :
    (buildReel r items step s).1.extents = s.extents := by
  unfold buildReel
  split <;> simp

theorem clearReel_extents (r : Nat) (s : State) : (clearReel r s).1.extents = s.extents := by
  simp only [clearReel]
  split_ifs <;> simp

theorem stopReel_extents (r : Nat) (s : State) : (stopReel r s).1.extents = s.extents := by
  simp only [stopReel]
  split_ifs <;> simp

theorem startReel_extents (r : Nat) (s : State) : (startReel r s).1.extents = s.extents := by
  unfold startReel
  split_ifs <;> simp

theorem readReel_state (r : Nat) (s : State) : (readReel r s).1 = s := by
  unfold readReel
  split <;> rfl

/-- A request on a show's zone keeps the sizes when what it does to the zone keeps them. -/
theorem zoneRequest_extents (key zone : Nat) (act : Show → Zone → Owner)
    (ha : ∀ sh z u, (act sh z u).1.extents = u.extents) (s : State) :
    (zoneRequest key zone act s).1.extents = s.extents := by
  unfold zoneRequest
  repeat' split
  all_goals simp [ha]

theorem countsChanged_extents (key : Nat) (f : Show → Show) (body : List Byte) (s : State) :
    (countsChanged key f body s).1.extents = s.extents := by
  simp [countsChanged]

theorem setCapacity_extents (key zone value : Nat) (s : State) :
    (setCapacity key zone value s).1.extents = s.extents :=
  zoneRequest_extents key zone _ (fun sh z u => by split_ifs <;> simp [countsChanged_extents]) s

theorem withhold_extents (key zone n : Nat) (s : State) : (withhold key zone n s).1.extents = s.extents :=
  zoneRequest_extents key zone _ (fun sh z u => by split_ifs <;> simp [countsChanged_extents]) s

theorem unwithhold_extents (key zone n : Nat) (s : State) : (unwithhold key zone n s).1.extents = s.extents :=
  zoneRequest_extents key zone _ (fun sh z u => by split_ifs <;> simp [countsChanged_extents]) s

theorem readSeatStatus_extents (clear : Bool) (s : State) : (readSeatStatus clear s).1.extents = s.extents := by
  simp only [readSeatStatus]
  split <;> simp

theorem readHold_state (slot : Nat) (s : State) : (readHold slot s).1 = s := by
  unfold readHold
  split <;> rfl

theorem holdSeats_extents (h : Hdr) (key zone count : Nat) (s : State) :
    (holdSeats h key zone count s).1.extents = s.extents := by
  unfold holdSeats
  split <;> simp [grantHold]

/-- A request on a hold keeps the sizes when what it does to the hold keeps them. -/
theorem holdRequest_extents (p : Port) (slot gen : Nat) (act : HoldInfo → Nat → Owner)
    (ha : ∀ i l u, (act i l u).1.extents = u.extents) (s : State) :
    (holdRequest p slot gen act s).1.extents = s.extents := by
  unfold holdRequest
  split <;> simp [ha]

theorem confirmHold_extents (p : Port) (slot gen : Nat) (s : State) : (confirmHold p slot gen s).1.extents = s.extents :=
  holdRequest_extents p slot gen _ (fun i l u => by simp) s

theorem releaseHold_extents (p : Port) (slot gen : Nat) (s : State) : (releaseHold p slot gen s).1.extents = s.extents :=
  holdRequest_extents p slot gen _ (fun i l u => by simp) s

theorem extendHold_extents (p : Port) (slot gen : Nat) (s : State) : (extendHold p slot gen s).1.extents = s.extents := by
  unfold extendHold
  split_ifs
  · simp
  · simp
  · exact holdRequest_extents p slot gen _ (fun i l u => by split <;> simp) s

theorem queryHold_extents (p : Port) (slot gen : Nat) (s : State) : (queryHold p slot gen s).1.extents = s.extents :=
  holdRequest_extents p slot gen _ (fun _ _ _ => rfl) s

theorem sellNow_extents (key zone count : Nat) (s : State) : (sellNow key zone count s).1.extents = s.extents := by
  unfold sellNow
  split <;> simp [countsChanged_extents]

theorem refundSeats_extents (key zone count : Nat) (s : State) :
    (refundSeats key zone count s).1.extents = s.extents := by
  unfold refundSeats
  split <;> simp [countsChanged_extents]

theorem queryShow_state (key : Nat) (s : State) : (queryShow key s).1 = s := by
  unfold queryShow
  split <;> rfl

theorem listShows_state (day start : Nat) (s : State) : (listShows day start s).1 = s := by
  unfold listShows
  split <;> rfl

/-! ### Commands that write tables whole -/

theorem journalDayClear_extents (s : State) : (journalDayClear s).extents = s.extents := by
  simp only [journalDayClear]
  split <;> simp

theorem noticeDayCleared_length (q : NoticeQueue) : q.dayCleared.slots.length = q.slots.length := by
  simp only [NoticeQueue.dayCleared, List.length_append, List.length_map, List.length_take, List.length_drop]
  omega

/-- Day Clear writes titles, doors and images at their sizes (R25). -/
theorem clearDay_sized {s : State} (hs : Sized s) : Sized (clearDay s) := by
  obtain ⟨_, _, hseat, _, _, hrest⟩ := hs
  have h : Sized ((((s.withShows s.shows.dayCleared).withSeat s.seat.dayCleared).withBoard .empty).withNotice
      s.notice.dayCleared) :=
    ⟨List.length_replicate, List.length_replicate, (List.length_map _).trans hseat, List.length_replicate,
      List.length_replicate, by simpa [noticeDayCleared_length] using hrest⟩
  exact h.of_extents ((raiseAll_extents _ _).trans (journalDayClear_extents _))

/-- The state that stands on a setup image has the image's sizes (R208). -/
theorem ofImage_sized {img : SetupImage} {image : Option SetupImage} (hi : img.sized)
    (hs : ∀ i, image = some i → i.sized) : Sized (State.ofImage img image) := by
  obtain ⟨hm, hp, hr⟩ := hi
  exact ⟨List.length_replicate, List.length_replicate, List.length_replicate, List.length_replicate,
    List.length_replicate, (List.length_map _).trans hr, List.length_replicate, hm, List.length_replicate,
    (List.length_map _).trans hp, hs⟩

theorem default_sized : SetupImage.default.sized :=
  ⟨List.length_replicate, List.length_replicate, List.length_replicate⟩

theorem Sized.withStore {s : State} (hs : Sized s) {x : SetupStore} (hx : ∀ i, x.image = some i → i.sized) :
    Sized (s.withStore x) := by
  obtain ⟨h1, h2, h3, h4, h5, h6, h7, h8, h9, h10, _⟩ := hs
  exact ⟨h1, h2, h3, h4, h5, h6, h7, h8, h9, h10, hx⟩

theorem Sized.image {s : State} (hs : Sized s) {i : SetupImage} (h : s.store.image = some i) : i.sized := by
  obtain ⟨_, _, _, _, _, _, _, _, _, _, hi⟩ := hs
  exact hi i h

theorem hardReset_sized {s : State} (hs : Sized s) : Sized (hardReset s) := by
  refine Sized.of_extents (withPending_extents _ _) (ofImage_sized default_sized fun i hi => ?_)
  unfold SetupStore.afterReset at hi
  split at hi
  · cases hi
  · cases hi
  · exact hs.image hi

theorem startUp_sized (w : Word) (holds : Bool) {s : State} (hs : Sized s) : Sized (startUp w holds s) := by
  have himg : ∀ i, s.store.read holds = some i → i.sized := fun i hi => by
    unfold SetupStore.read at hi
    split at hi
    · exact hs.image hi
    · cases hi
  have hget : ((s.store.read holds).getD .default).sized := by
    cases hr : s.store.read holds with
    | none => exact default_sized
    | some i => exact himg i hr
  simp only [startUp]
  split
  · refine (ofImage_sized hget himg).of_extents ?_
    have hl : (firstSamples w).length = (List.replicate 16 (⟨.low, 0⟩ : LineState)).length := by simp [firstSamples]
    simp only [withStoreInvalid_extents, withPhase_extents]
    exact withHouse_extents _ _ rfl hl
  · exact hs

theorem itemsOf_sized {s : State} (hs : Sized s) : (itemsOf s).sized := by
  obtain ⟨_, _, _, _, _, hr, _, hm, _, hp, _⟩ := hs
  simp [SetupImage.sized, itemsOf, hm, hp, hr]

theorem storeEraseDone_sized {s : State} (hs : Sized s) : Sized (storeEraseDone s) := by
  unfold storeEraseDone
  split
  · exact hs.withStore fun i hi => hs.image hi
  · exact hs

theorem storeWriteDone_sized {s : State} (hs : Sized s) : Sized (storeWriteDone s) := by
  unfold storeWriteDone
  split
  · exact hs.withStore fun i hi => by cases hi; exact itemsOf_sized hs
  · exact hs

theorem storeCheckDone_sized (holds : Bool) {s : State} (hs : Sized s) : Sized (storeCheckDone holds s) := by
  unfold storeCheckDone
  split_ifs
  · exact (hs.withStore (x := { s.store with state := .idle }) fun i hi => hs.image hi).of_extents (by simp)
  · exact (hs.withStore (x := ⟨.idle, none⟩) fun i hi => by cases hi).of_extents (by simp)
  · exact hs

theorem storeFault_sized {s : State} (hs : Sized s) : Sized (storeFault s) := by
  unfold storeFault
  split
  · exact (hs.withStore (x := ⟨.idle, none⟩) fun i hi => by cases hi).of_extents (by simp)
  · exact hs

theorem saveSetup_sized {s : State} (hs : Sized s) : Sized (saveSetup s).1 := by
  unfold saveSetup
  split
  · exact hs
  · exact hs.withStore fun i hi => by cases hi

theorem whenRunning_sized {f : State → State} {s : State} (h : Sized (f s)) (hs : Sized s) :
    Sized (whenRunning f s) := by
  unfold whenRunning
  split
  · exact h
  · exact hs

/-! ### Every command -/

theorem next_sized {s t : State} (hs : Sized s) (h : (Host.Outcome.next s : StepOutcome) = .next t) : Sized t := by
  cases h
  exact hs

/-- An event taken while the ticks run keeps the sizes when its meaning keeps them. -/
theorem ticking_sized {f : State → State} {s t : State} (hf : ∀ u, (f u).extents = u.extents) (hs : Sized s)
    (h : (Host.Outcome.next (whenTicking f s) : StepOutcome) = .next t) : Sized t :=
  next_sized (hs.of_extents (whenTicking_extents f hf s)) h

/-- An event of the running part keeps the sizes when its meaning keeps them. -/
theorem running_sized {f : State → State} {s t : State} (hf : ∀ u, (f u).extents = u.extents) (hs : Sized s)
    (h : (Host.Outcome.next (whenRunning f s) : StepOutcome) = .next t) : Sized t :=
  next_sized (hs.of_extents (whenRunning_extents f hf s)) h

theorem exec_sized (c : Instr) {s t : State} (hs : Sized s) (h : exec c s = .next t) : Sized t := by
  cases c with
  | hardReset => exact next_sized (hardReset_sized hs) h
  | startUp w holds => exact next_sized (startUp_sized w holds hs) h
  | startUpAlertFound l =>
    refine next_sized (hs.of_extents ?_) h
    unfold startUpAlertFound
    split <;> simp
  | tick1ms w l order => exact ticking_sized (fun u => foldl_extents _ (fun s r => msTickAt_extents w l r s) _ u) hs h
  | tick1s order m => exact ticking_sized (fun u => foldl_extents _ (fun s r => secTickAt_extents m r s) _ u) hs h
  | minuteBoundary order => exact ticking_sized (fun u => by unfold boundaryDue; split <;> simp) hs h
  | holdExpiry slot => exact ticking_sized (expiryDue_extents slot) hs h
  | reelItemEnd r => exact ticking_sized (fun u => by unfold itemEndDue; split <;> simp) hs h
  | startLineQualified i => exact ticking_sized (fun u => by unfold lineDue; split <;> simp) hs h
  | alertLineActive => exact running_sized (fun u => by simp only [alertDue]; split <;> simp) hs h
  | alertLineInactive => exact running_sized (fun u => by simp only [alertDue]; split <;> simp) hs h
  | chimeNoteEnd => exact ticking_sized noteDue_extents hs h
  | noticeExpiry => exact ticking_sized (fun u => by unfold noticesDue; split <;> simp) hs h
  | noticeInterval => exact ticking_sized (fun u => by unfold intervalsDue; split <;> simp) hs h
  | frameGapTimeout p => exact running_sized (fun u => withPortAt_extents u p _) hs h
  | requestFrame p bytes => exact running_sized (fun u => withPortAt_extents u p _) hs h
  | answerSent p => exact running_sized (fun u => withPortAt_extents u p _) hs h
  | panelPollDue a => exact running_sized (fun u => by simp only [idleReaches]; split <;> simp) hs h
  | panelProbeDue a => exact running_sized (fun u => by simp only [idleReaches]; split <;> simp) hs h
  | panelGrant => exact running_sized panelGrant_extents hs h
  | beaconSend => exact running_sized (fun u => by unfold beaconSend; split <;> simp) hs h
  | beaconEnd => exact running_sized (fun u => by unfold beaconEnd; split <;> simp) hs h
  | panelFrameSent => exact running_sized panelFrameSent_extents hs h
  | panelAnswer bytes => exact running_sized (panelAnswer_extents bytes) hs h
  | responseTimeout => exact running_sized windowOut_extents hs h
  | storeEraseDone => exact next_sized (whenRunning_sized (storeEraseDone_sized hs) hs) h
  | storeWriteDone => exact next_sized (whenRunning_sized (storeWriteDone_sized hs) hs) h
  | storeCheckDone holds => exact next_sized (whenRunning_sized (storeCheckDone_sized holds hs) hs) h
  | storeFault => exact next_sized (whenRunning_sized (storeFault_sized hs) hs) h
  | holdSeats hd key zone n => exact request_sized_of_extents (holdSeats_extents hd key zone n) hs h
  | confirmHold hd slot gen => exact request_sized_of_extents (confirmHold_extents hd.port slot gen) hs h
  | releaseHold hd slot gen => exact request_sized_of_extents (releaseHold_extents hd.port slot gen) hs h
  | extendHold hd slot gen => exact request_sized_of_extents (extendHold_extents hd.port slot gen) hs h
  | queryHold hd slot gen => exact request_sized_of_extents (queryHold_extents hd.port slot gen) hs h
  | sellNow hd key zone n => exact request_sized_of_extents (sellNow_extents key zone n) hs h
  | refundSeats hd key zone n => exact request_sized_of_extents (refundSeats_extents key zone n) hs h
  | queryShow hd key => exact request_sized_of_extents (fun u => by rw [queryShow_state]) hs h
  | listShows hd day start => exact request_sized_of_extents (fun u => by rw [listShows_state]) hs h
  | postNotice hd c p sc text life key m => exact request_sized_of_extents (postNotice_extents hd c p sc text life key m) hs h
  | withdrawNotice hd slot gen => exact request_sized_of_extents (withdrawNotice_extents hd.port slot gen) hs h
  | readNotices hd => exact request_sized_of_extents (fun _ => rfl) hs h
  | readAlert hd => exact request_sized_of_extents (fun _ => rfl) hs h
  | readCauses hd => exact request_sized_of_extents (fun _ => rfl) hs h
  | setCauseMask hd mask => exact request_sized_of_extents (setCauseMask_extents hd.port mask) hs h
  | readPortStatus hd sel clear => exact request_sized_of_extents (readPortStatus_extents hd.port sel clear) hs h
  | loadShow hd key day aud title start run delay caps hidden sib sold withheld now =>
    exact request_sized_of_extents (loadShow_extents key day aud title start run delay caps hidden sib sold withheld now) hs h
  | amendShow hd key start run aud title sib hidden =>
    exact request_sized_of_extents (amendShow_extents key start run aud title sib hidden) hs h
  | openSales hd key => exact request_sized_of_extents (openSales_extents key) hs h
  | cancelShow hd key => exact request_sized_of_extents (cancelShow_extents key) hs h
  | removeShow hd key => exact request_sized_of_extents (removeShow_extents key) hs h
  | readShow hd key => exact request_sized_of_extents (fun u => by rw [readShow_state]) hs h
  | defineTitle hd index text rating => exact request_sized_of_extents (defineTitle_extents index text rating) hs h
  | rollDay hd => exact request_sized_of_extents rollDayRequest_extents hs h
  | dayClear hd => exact request_sized (fun _ hu => clearDay_sized hu) hs h
  | setPoolSplit hd value => exact request_sized_of_extents (setPoolSplit_extents value) hs h
  | readPool hd => exact request_sized_of_extents (fun _ => rfl) hs h
  | setCapacity hd key zone value => exact request_sized_of_extents (setCapacity_extents key zone value) hs h
  | withhold hd key zone n => exact request_sized_of_extents (withhold_extents key zone n) hs h
  | unwithhold hd key zone n => exact request_sized_of_extents (unwithhold_extents key zone n) hs h
  | readSeatStatus hd clear => exact request_sized_of_extents (readSeatStatus_extents clear) hs h
  | readHold hd slot => exact request_sized_of_extents (fun u => by rw [readHold_state]) hs h
  | readBoard hd start => exact request_sized_of_extents (fun _ => rfl) hs h
  | readDoor hd aud => exact request_sized_of_extents (fun u => by rw [readDoor_state]) hs h
  | defineSpot hd key media d title => exact request_sized_of_extents (defineSpot_extents key media d title) hs h
  | removeSpot hd key => exact request_sized_of_extents (removeSpot_extents key) hs h
  | buildReel hd r items step => exact request_sized_of_extents (buildReel_extents r items step) hs h
  | clearReel hd r => exact request_sized_of_extents (clearReel_extents r) hs h
  | stopReel hd r => exact request_sized_of_extents (stopReel_extents r) hs h
  | startReel hd r => exact request_sized_of_extents (startReel_extents r) hs h
  | readSpot hd key => exact request_sized_of_extents (fun u => by rw [readSpot_state]) hs h
  | readReel hd r => exact request_sized_of_extents (fun u => by rw [readReel_state]) hs h
  | setChimePattern hd p notes => exact request_sized_of_extents (setChimePattern_extents p notes) hs h
  | readChime hd => exact request_sized_of_extents (fun _ => rfl) hs h
  | setStartLine hd line aud edge d => exact request_sized_of_extents (setStartLine_extents line aud edge d) hs h
  | setAlertLine hd p d => exact request_sized_of_extents (setAlertLine_extents p d) hs h
  | clearAlert hd => exact request_sized_of_extents clearAlert_extents hs h
  | readHouseLines hd => exact request_sized_of_extents (fun _ => rfl) hs h
  | readJournal hd start => exact request_sized_of_extents (fun _ => rfl) hs h
  | setPanel hd a present view g => exact request_sized_of_extents (setPanel_extents a present view g) hs h
  | linkReset hd => exact request_sized_of_extents linkReset_extents hs h
  | readPanel hd a clear => exact request_sized_of_extents (readPanel_extents a clear) hs h
  | setPolicy hd l => exact request_sized_of_extents (setPolicy_extents l) hs h
  | readPolicy hd => exact request_sized_of_extents (fun _ => rfl) hs h
  | setClock hd m sec => exact request_sized_of_extents (setClock_extents m sec) hs h
  | readClock hd => exact request_sized_of_extents (fun _ => rfl) hs h
  | saveSetup hd => exact request_sized (fun _ hu => saveSetup_sized hu) hs h
  | portByteReceived p b stopLow => exact running_sized (fun u => withPortAt_extents u p _) hs h
  | panelAnswerStart => exact running_sized panelAnswerStart_extents hs h

/-- Settles O5: a step is a command taken on a state with the queue's rest. -/
theorem stepKeepsTheSizes : Obligations.StepKeepsTheSizes := by
  intro s t hs h
  unfold step at h
  split at h
  · exact next_sized hs h
  · exact exec_sized _ (hs.of_extents (withPending_extents s _)) h

end Sys2Proof.Machine

/-! ## Requests that only read (O31) -/

namespace Sys2Proof.Machine

/-! ### Requests in their turn -/

/-- The state with the request in execution differs from the state in its ports alone. -/
theorem Seated.eq_withPorts {h : Hdr} {s s1 : State} (a : Seated h s s1) : s1 = s.withPorts s1.ports := a.blocks

/-- A request is taken when none of its tests holds. -/
theorem firstRefusal_eq_none {tests : List (Bool × Result)} : firstRefusal tests = none ↔ ∀ x ∈ tests, x.1 = false := by
  induction tests with
  | nil => simp [firstRefusal]
  | cons x l ih => cases hx : x.1 <;> simp [firstRefusal, hx, ih]

/-- An owner's event on `u` under the tests of its rule: the first refusal, or what is done. -/
def tested (tests : List (Bool × Result)) (u : State) (done : State × Reply) : State × Reply :=
  match firstRefusal tests with
  | some code => (u, refuse code)
  | none => done

theorem tested_refuses {tests : List (Bool × Result)} {code : Result} (h : firstRefusal tests = some code) (u : State)
    (done : State × Reply) : tested tests u done = (u, refuse code) := by
  simp [tested, h]

theorem tested_passes {tests : List (Bool × Result)} (h : firstRefusal tests = none) (u : State)
    (done : State × Reply) : tested tests u done = done := by
  simp [tested, h]

/-- A request's statement, from what its owner does on the state with the request in execution: the first refusal, or an
effect `act` with an answer, from which `taken` follows. -/
theorem takenOrRefused_of {c : Instr} {h : Hdr} {k : Nat} {b : List Byte} {s : State} {tests : List (Bool × Result)}
    {taken : Prop} (owner : Owner) (act : State → State) (reply : Reply) (he : exec c s = request c owner s)
    (hb : requestBody c = some (h, k, b))
    (ho : ∀ q, owner (s.withPorts q) = tested tests (s.withPorts q) (act (s.withPorts q), reply))
    (ht : ∀ s1 t, firstRefusal tests = none → Seated h s s1 → exec c s = .next t → Finished h k reply (act s1) t →
      taken) : TakenOrRefused c h k s tests taken := by
  intro hready
  refine ⟨fun code hc => refuses_of owner he hb hready fun s1 a => ?_, fun hn => ?_⟩
  · rw [a.eq_withPorts, ho, tested_refuses hc]
  · obtain ⟨s1, t, a, hx, f⟩ := request_taken owner hb hready
    rw [a.eq_withPorts, ho, tested_passes hn, ← a.eq_withPorts] at f
    exact ht s1 t hn a (he.trans hx) f

/-- A reading request: its first refusal, or its body. -/
theorem takenOrRefused_reads {c : Instr} {h : Hdr} {k : Nat} {b : List Byte} {s : State} {tests : List (Bool × Result)}
    {body : List Byte} (owner : Owner) (he : exec c s = request c owner s) (hb : requestBody c = some (h, k, b))
    (ho : ∀ q, owner (s.withPorts q) = tested tests (s.withPorts q) (s.withPorts q, okWith body)) :
    TakenOrRefused c h k s tests (Reads c s h k body) := by
  intro hready
  refine ⟨fun code hc => refuses_of owner he hb hready fun s1 a => ?_,
    fun hn => reads_of owner he hb hready fun s1 a => ?_⟩
  · rw [a.eq_withPorts, ho, tested_refuses hc]
  · rw [a.eq_withPorts, ho, tested_passes hn]

/-- A request that reads something looked up: refused when it is not there. -/
theorem takenOrRefused_lookup {α : Type} {c : Instr} {h : Hdr} {k : Nat} {b : List Byte} {s : State} {o : Option α}
    {code : Result} {body : α → List Byte} (owner : Owner) (he : exec c s = request c owner s)
    (hb : requestBody c = some (h, k, b))
    (ho : ∀ q, owner (s.withPorts q) = (s.withPorts q, (o.map fun x => okWith (body x)).getD (refuse code))) :
    TakenOrRefused c h k s [(o.isNone, code)] (∀ x, o = some x → Reads c s h k (body x)) := by
  cases o with
  | none =>
    intro hready
    exact ⟨(takenOrRefused_reads (tests := [((none : Option α).isNone, code)]) (body := []) owner he hb ho hready).1,
      fun _ x hx => by cases hx⟩
  | some y =>
    intro hready
    obtain ⟨hr, ht⟩ := takenOrRefused_reads (tests := [((some y).isNone, code)]) (body := body y) owner he hb ho hready
    exact ⟨hr, fun hn x hx => Option.some.inj hx ▸ ht hn⟩

/-! ### Queue order -/

theorem insertBy_perm {α : Type} (before : α → α → Bool) (x : α) (l : List α) : (insertBy before x l).Perm (x :: l) := by
  induction l with
  | nil => exact .refl _
  | cons y l ih =>
    unfold insertBy
    split
    · exact (ih.cons y).trans (.swap x y l)
    · exact .refl _

theorem sortBy_perm {α : Type} (before : α → α → Bool) (l : List α) : (sortBy before l).Perm l := by
  induction l with
  | nil => exact .refl _
  | cons x l ih => exact (insertBy_perm before x _).trans (ih.cons x)

theorem mem_liveNotices (q : NoticeQueue) (slot gen : Nat) (n : Notice) :
    (slot, gen, n) ∈ liveNotices q ↔ (q.slots)[slot]? = some ⟨gen, some n⟩ := by
  simp only [liveNotices, List.mem_filterMap, Prod.exists, List.mem_zipIdx_iff_getElem?, Option.map_eq_some_iff,
    Prod.mk.injEq]
  constructor
  · rintro ⟨⟨g, o⟩, i, hx, m, hm, rfl, rfl, rfl⟩
    simpa [show o = some m from hm] using hx
  · intro hx
    exact ⟨⟨gen, some n⟩, slot, hx, n, rfl, rfl, rfl, rfl⟩

theorem liveNotices_nodup (q : NoticeQueue) : (liveNotices q).Nodup := by
  refine List.Nodup.filterMap ?_ ?_
  · rintro ⟨⟨g, o⟩, i⟩ ⟨⟨g', o'⟩, i'⟩ ⟨j, k, m⟩ hx hy
    simp only [Option.mem_def, Option.map_eq_some_iff, Prod.mk.injEq] at hx hy
    obtain ⟨_, rfl, rfl, rfl, rfl⟩ := hx
    obtain ⟨_, rfl, rfl, rfl, rfl⟩ := hy
    rfl
  · exact (List.nodup_zipIdx_map_snd q.slots).of_map

theorem prio_code_inj {a b : Priority} (h : a.code = b.code) : a = b := by cases a <;> cases b <;> simp_all [Priority.code]

theorem cls_code_inj {a b : NoticeClass} (h : a.code = b.code) : a = b := by
  cases a <;> cases b <;> simp_all [NoticeClass.code]

theorem notBehind_iff (a b : Notice) : a.notBehind b ↔ a.prio.code < b.prio.code ∨ (a.prio.code = b.prio.code ∧
    (a.cls.code < b.cls.code ∨ (a.cls.code = b.cls.code ∧ a.seq ≤ b.seq))) := by
  have hp : a.prio = b.prio ↔ a.prio.code = b.prio.code := ⟨fun h => h ▸ rfl, prio_code_inj⟩
  have hc : a.cls = b.cls ↔ a.cls.code = b.cls.code := ⟨fun h => h ▸ rfl, cls_code_inj⟩
  rw [Notice.notBehind, hp, hc]

theorem noticeBefore_iff (a b : Notice) : noticeBefore a b = true ↔ a.prio.code < b.prio.code ∨
    (a.prio.code = b.prio.code ∧ (a.cls.code < b.cls.code ∨ (a.cls.code = b.cls.code ∧ a.seq < b.seq))) := by
  have hp : a.prio = b.prio ↔ a.prio.code = b.prio.code := ⟨fun h => h ▸ rfl, prio_code_inj⟩
  have hc : a.cls = b.cls ↔ a.cls.code = b.cls.code := ⟨fun h => h ▸ rfl, cls_code_inj⟩
  simp only [noticeBefore, Bool.or_eq_true, Bool.and_eq_true, decide_eq_true_eq, beq_iff_eq, hp, hc]

theorem queueOrder_pairwise (q : NoticeQueue) :
    (queueOrder q).Pairwise (fun a b => a.2.2.notBehind b.2.2) := by
  refine sortBy_pairwise _ _ (fun a b c => ?_) (fun a b h => ?_) (fun a b h => ?_) _
  · simp only [notBehind_iff]
    omega
  · rw [noticeBefore_iff] at h
    rw [notBehind_iff]
    omega
  · rw [← Bool.not_eq_true, noticeBefore_iff] at h
    rw [notBehind_iff]
    omega

theorem queueOrder_nodup (q : NoticeQueue) : (queueOrder q).Nodup :=
  (sortBy_perm _ _).nodup_iff.mpr (liveNotices_nodup q)

theorem mem_queueOrder (q : NoticeQueue) (slot gen : Nat) (n : Notice) :
    (slot, gen, n) ∈ queueOrder q ↔ (q.slots)[slot]? = some ⟨gen, some n⟩ :=
  (mem_sortBy _ _ _).trans (mem_liveNotices q slot gen n)

/-! ### The bodies -/

theorem queryShow_owner (key : Nat) (s : State) :
    queryShow key s = (s, ((s.findShow key).map fun sh => okWith (wQuery sh)).getD (refuse .noSuchShow)) := by
  unfold queryShow
  cases s.findShow key <;> rfl

theorem readShow_owner (key : Nat) (s : State) :
    readShow key s = (s, ((s.findShow key).map fun sh => okWith (wShow sh)).getD (refuse .noSuchShow)) := by
  unfold readShow
  cases s.findShow key <;> rfl

theorem readSpot_owner (key : Nat) (s : State) :
    readSpot key s = (s, ((s.findSpot key).map fun sp => okWith (w2 sp.key ++ w2 sp.media ++ w1 sp.duration ++
      wOpt w1 sp.title ++ w1 sp.record ++ wList w1 (reelsNaming s key))).getD (refuse .badArgument)) := by
  unfold readSpot
  cases s.findSpot key <;> rfl

/-- A test on an operand's range before a body. -/
theorem ranged_read (p : Prop) [Decidable p] (code : Result) (body : List Byte) (s : State) :
    (if p then deny code s else (s, okWith body)) =
      tested [(decide p, code)] s (s, okWith body) := by
  by_cases hp : p <;> simp [hp, tested, firstRefusal, deny]

/-- Settles O31: each request by the body its owner writes; queue order is the sort of R120 of the LIVE slots. -/
theorem readsChangeNothing : Obligations.ReadsChangeNothing := by
  intro h s
  refine ⟨⟨rfl, rfl, queueOrder_pairwise _, queueOrder_nodup _, mem_queueOrder _⟩, ?_, ?_, ?_, ?_, ?_, ?_, ?_, ?_, ?_,
    ?_, ?_, ?_, ?_, ?_, ?_, ?_⟩
  case refine_1 => exact fun key => takenOrRefused_lookup _ rfl rfl fun q => queryShow_owner key (s.withPorts q)
  case refine_2 => exact fun day start => takenOrRefused_reads _ rfl rfl fun q => ranged_read _ _ _ (s.withPorts q)
  case refine_3 => exact takenOrRefused_reads _ rfl rfl fun _ => rfl
  case refine_4 => exact takenOrRefused_reads _ rfl rfl fun _ => rfl
  case refine_5 => exact fun key => takenOrRefused_lookup _ rfl rfl fun q => readShow_owner key (s.withPorts q)
  case refine_6 => exact takenOrRefused_reads _ rfl rfl fun _ => rfl
  case refine_7 => exact fun slot => takenOrRefused_reads _ rfl rfl fun q => ranged_read _ _ _ (s.withPorts q)
  case refine_8 => exact fun start => takenOrRefused_reads _ rfl rfl fun _ => rfl
  case refine_9 => exact fun aud => takenOrRefused_reads _ rfl rfl fun q => ranged_read _ _ _ (s.withPorts q)
  case refine_10 => exact fun key => takenOrRefused_lookup _ rfl rfl fun q => readSpot_owner key (s.withPorts q)
  case refine_11 => exact fun r => takenOrRefused_reads _ rfl rfl fun q => ranged_read _ _ _ (s.withPorts q)
  case refine_12 => exact takenOrRefused_reads _ rfl rfl fun _ => rfl
  case refine_13 => exact takenOrRefused_reads _ rfl rfl fun _ => rfl
  case refine_14 => exact fun start => takenOrRefused_reads _ rfl rfl fun _ => rfl
  case refine_15 => exact takenOrRefused_reads _ rfl rfl fun _ => rfl
  case refine_16 => exact takenOrRefused_reads _ rfl rfl fun _ => rfl

end Sys2Proof.Machine

/-! ## The record pool and spots (O45), titles (O43) -/

namespace Sys2Proof.Machine

/-! ### What a request leaves of the ports -/

theorem causesKept_of {h : Hdr} {k : Nat} {r : Reply} {s s1 u t : State} (a : Seated h s s1) (f : Finished h k r u t)
    (hq : u.ports = s1.ports) : CausesKept s t := fun q => by
  rw [f.causes, portAt_eq, hq, ← portAt_eq, a.causes]

/-- An owner that leaves the ports alone raises no cause. -/
theorem quietly_of {h : Hdr} {k : Nat} {r : Reply} {s s1 u t : State} (a : Seated h s s1) (f : Finished h k r u t)
    (hq : u.ports = s1.ports) : Quietly h.port s t :=
  ⟨buffersKept_of a f (congrArg Ports.quiet hq), causesKept_of a f hq⟩

/-! ### Finding in an ordered list -/

theorem find?_insertBy_of_not {α : Type} (before : α → α → Bool) (p : α → Bool) (x : α) (l : List α)
    (h : p x = false) : (insertBy before x l).find? p = l.find? p := by
  induction l with
  | nil => simp [insertBy, h]
  | cons y l ih =>
    unfold insertBy
    split
    · simp only [List.find?_cons, ih]
    · simp [h]

theorem find?_insertBy_self {α : Type} (before : α → α → Bool) (p : α → Bool) (x : α) (l : List α) (h : p x = true)
    (hl : ∀ y ∈ l, p y = false) : (insertBy before x l).find? p = some x := by
  induction l with
  | nil => simp [insertBy, h]
  | cons y l ih =>
    unfold insertBy
    split
    · rw [List.find?_cons, hl y (by simp), ih fun z hz => hl z (by simp [hz])]
    · simp [h]

/-- Filtering out what one key names leaves what the others name. -/
theorem find?_filter_of_imp {α : Type} (p q : α → Bool) (l : List α) (h : ∀ x ∈ l, p x = true → q x = true) :
    (l.filter q).find? p = l.find? p := by
  rw [List.find?_filter]
  refine List.find?_congr fun x hx => ?_
  cases hp : p x with
  | false => simp
  | true => simp [h x hx hp]

/-! ### The pool split -/

theorem splitInUse_eq (s : State) (v : Nat) : splitInUse s v =
    (s.shows.shows.any (fun x => decide (16 * v ≤ x.record ∧ x.record < 16 * s.shows.poolSplit)) ||
      s.reel.spots.any (fun x => decide (16 * s.shows.poolSplit ≤ x.record ∧ x.record < 16 * v))) := by
  rw [Bool.eq_iff_iff]
  unfold splitInUse
  split
  all_goals
    simp only [List.any_eq_true, Bool.and_eq_true, decide_eq_true_eq, Bool.or_eq_true]
  · refine ⟨Or.inl, fun h => h.elim id ?_⟩
    rintro ⟨x, _, _⟩
    omega
  · refine ⟨Or.inr, fun h => h.elim ?_ id⟩
    rintro ⟨x, _, _⟩
    omega

theorem poolSplit_taken (h : Hdr) (s : State) (value v : Nat) (hv : v = clampTo 1 15 value) :
    TakenOrRefused (.setPoolSplit h value) h 41 s
      [(s.store.state != .idle, .storeBusy),
       (s.shows.shows.any (fun x => decide (16 * v ≤ x.record ∧ x.record < 16 * s.shows.poolSplit)) ||
          s.reel.spots.any (fun x => decide (16 * s.shows.poolSplit ≤ x.record ∧ x.record < 16 * v)), .inUse)]
      (∃ t, Takes (.setPoolSplit h value) s h 41 (okMarked (v != value) []) t ∧
        t = { s with shows := { s.shows with poolSplit := v }, ports := t.ports } ∧ Quietly h.port s t) := by
  subst hv
  rw [← splitInUse_eq]
  have ho : ∀ q, setPoolSplit value (s.withPorts q) =
      tested [(s.store.state != .idle, .storeBusy), (splitInUse s (clampTo 1 15 value), .inUse)] (s.withPorts q)
        ((s.withPorts q).withShows { s.shows with poolSplit := clampTo 1 15 value },
          okMarked (clampTo 1 15 value != value) []) := fun q => by
    have hb : storeBusy (s.withPorts q) = (s.store.state != .idle) := rfl
    have hu : splitInUse (s.withPorts q) (clampTo 1 15 value) = splitInUse s (clampTo 1 15 value) := rfl
    simp only [setPoolSplit, tested, firstRefusal, hb, hu, deny]
    split_ifs <;> rfl
  refine takenOrRefused_of (setPoolSplit value) (fun u => u.withShows { s.shows with poolSplit := clampTo 1 15 value })
    _ rfl rfl ho fun s1 t _ a hx f => ?_
  refine ⟨t, ⟨hx, f.answered⟩, ?_, quietly_of a f rfl⟩
  rw [f.blocks, a.blocks]
  rfl

/-! ### Spots -/

/-- The records that the search for a FREE spot record passes, the highest first. -/
theorem mem_spotRecords {n k r : Nat} : r ∈ ((List.range n).reverse.take k) ↔ n - k ≤ r ∧ r < n := by
  rw [List.take_reverse, List.length_range, List.mem_reverse, List.mem_drop_iff_getElem]
  constructor
  · rintro ⟨i, hi, rfl⟩
    simp only [List.length_range] at hi
    simp only [List.getElem_range]
    omega
  · rintro ⟨h1, h2⟩
    exact ⟨r - (n - k), by simp only [List.length_range]; omega, by simp only [List.getElem_range]; omega⟩

theorem spotRecords_pairwise (n k : Nat) : ((List.range n).reverse.take k).Pairwise (fun a b => b < a) :=
  (List.pairwise_reverse.mpr List.pairwise_lt_range).sublist (List.take_sublist _ _)

theorem freeSpotRecord_isNone (s : State) : s.freeSpotRecord.isNone = (List.range 256).all (fun r =>
    decide (r < 16 * s.shows.poolSplit) || s.reel.spots.any (fun x => x.record == r)) := by
  rw [Bool.eq_iff_iff, Option.isNone_iff_eq_none, State.freeSpotRecord, List.find?_eq_none]
  simp only [mem_spotRecords, List.all_eq_true, List.mem_range, Bool.or_eq_true, decide_eq_true_eq, Bool.not_eq_true',
    Bool.not_eq_false, State.spotAreaSize, State.showAreaSize, Config.poolSize]
  constructor
  · intro h r hr
    by_cases hl : r < 16 * s.shows.poolSplit
    · exact .inl hl
    · exact .inr (h r ⟨by omega, hr⟩)
  · rintro h r ⟨h1, h2⟩
    exact (h r h2).resolve_left (by omega)

theorem freeSpotRecord_some {s : State} {r : Nat} (h : s.freeSpotRecord = some r) :
    16 * s.shows.poolSplit ≤ r ∧ r < 256 ∧ (∀ x ∈ s.reel.spots, x.record ≠ r) ∧
      ∀ r', r < r' → r' < 256 → ∃ x ∈ s.reel.spots, x.record = r' := by
  have hm := mem_spotRecords.mp (List.mem_of_find?_eq_some h)
  have hp := spotRecords_pairwise Config.poolSize s.spotAreaSize
  obtain ⟨hf, before, after, hl, hb⟩ := List.find?_eq_some_iff_append.mp h
  simp only [State.spotAreaSize, State.showAreaSize, Config.poolSize] at hm
  refine ⟨by omega, hm.2, ?_, fun r' h1 h2 => ?_⟩
  · simpa using hf
  · have hr' : r' ∈ (List.range Config.poolSize).reverse.take s.spotAreaSize := by
      simp only [mem_spotRecords, State.spotAreaSize, State.showAreaSize, Config.poolSize]
      omega
    rw [hl] at hr' hp
    rcases List.mem_append.mp hr' with hin | hin
    · simpa using hb r' hin
    · rcases List.mem_cons.mp hin with rfl | hin
      · omega
      · have := List.rel_of_pairwise_cons (List.pairwise_append.mp hp).2.1 hin
        omega

/-- Redefining keeps the keys, so every key finds the spot it found. -/
theorem find?_redefined (key k media duration : Nat) (title : Option Nat) (l : List Spot) :
    (l.map (fun sp => if sp.key = key then { sp with media := media, duration := duration, title := title } else sp)).find?
      (fun sp => sp.key == k) =
    (l.find? (fun sp => sp.key == k)).map
      (fun sp => if sp.key = key then { sp with media := media, duration := duration, title := title } else sp) := by
  rw [List.find?_map]
  congr 2
  funext sp
  simp only [Function.comp]
  split <;> rfl

theorem findSpot_placeSpot_same (record key media duration : Nat) (title : Option Nat) (l : List Spot) :
    (placeSpot record key media duration title l).find? (fun sp => sp.key == key) =
      some (match l.find? (fun sp => sp.key == key) with
        | some sp => { sp with media := media, duration := duration, title := title }
        | none => ⟨key, record, media, duration, title⟩) := by
  cases hf : l.find? (fun sp => sp.key == key) with
  | none =>
    have hn : ∀ y ∈ l, (y.key == key) = false := by simpa using hf
    have ha : l.any (fun sp => sp.key == key) = false := by simpa using hf
    simp only [placeSpot, ha]
    exact find?_insertBy_self _ _ _ l (by simp) hn
  | some sp =>
    have hk : sp.key = key := by simpa using List.find?_some hf
    have ha : l.any (fun sp => sp.key == key) = true :=
      List.any_eq_true.mpr ⟨sp, List.mem_of_find?_eq_some hf, by simp [hk]⟩
    simp only [placeSpot, ha, if_true]
    rw [find?_redefined, hf]
    simp [hk]

theorem findSpot_placeSpot_other (record key k media duration : Nat) (title : Option Nat) (l : List Spot)
    (h : k ≠ key) :
    (placeSpot record key media duration title l).find? (fun sp => sp.key == k) =
      l.find? (fun sp => sp.key == k) := by
  unfold placeSpot
  split
  · rw [find?_redefined]
    cases hf : l.find? (fun sp => sp.key == k) with
    | none => rfl
    | some sp =>
      have hk : sp.key = k := by simpa using List.find?_some hf
      simp [hk, h]
  · exact find?_insertBy_of_not _ _ _ l (by simpa using Ne.symm h)

theorem spot_defined (h : Hdr) (s : State) (key media duration : Nat) (title : Option Nat) :
    TakenOrRefused (.defineSpot h key media duration title) h 64 s
      [(s.store.state != .idle, .storeBusy), (decide (key = 0 ∨ 63 < title.getD 0), .badArgument),
       ((s.findSpot key).isNone &&
          (List.range 256).all (fun r =>
            decide (r < 16 * s.shows.poolSplit) || s.reel.spots.any (fun x => x.record == r)), .tableFull)]
      (∃ t sp, Takes (.defineSpot h key media duration title) s h 64
          (okMarked (clampTo 5 180 duration != duration) []) t ∧
        t.findSpot key = some sp ∧ sp.media = media ∧ sp.duration = clampTo 5 180 duration ∧ sp.title = title ∧
        (∀ old, s.findSpot key = some old → sp.record = old.record) ∧
        (s.findSpot key = none → 16 * s.shows.poolSplit ≤ sp.record ∧ sp.record < 256 ∧
          (∀ x ∈ s.reel.spots, x.record ≠ sp.record) ∧
          ∀ r, sp.record < r → r < 256 → ∃ x ∈ s.reel.spots, x.record = r) ∧
        (∀ k, k ≠ key → t.findSpot k = s.findSpot k) ∧
        t = { s with reel := { s.reel with spots := t.reel.spots }, ports := t.ports } ∧ Quietly h.port s t) := by
  rw [← freeSpotRecord_isNone]
  have ho : ∀ q, defineSpot key media duration title (s.withPorts q) =
      tested [(s.store.state != .idle, .storeBusy), (decide (key = 0 ∨ 63 < title.getD 0), .badArgument),
        ((s.findSpot key).isNone && s.freeSpotRecord.isNone, .tableFull)] (s.withPorts q)
        ((s.withPorts q).withReel { s.reel with
          spots := placeSpot (s.freeSpotRecord.getD 0) key media (clampTo 5 180 duration) title s.reel.spots },
          okMarked (clampTo 5 180 duration != duration) []) := fun q => by
    have hb : storeBusy (s.withPorts q) = (s.store.state != .idle) := rfl
    have hf : (s.withPorts q).findSpot key = s.findSpot key := rfl
    have hr : (s.withPorts q).freeSpotRecord = s.freeSpotRecord := rfl
    simp only [defineSpot, tested, firstRefusal, hb, hf, hr, deny, decide_eq_true_eq, Bool.and_eq_true]
    split_ifs <;> rfl
  refine takenOrRefused_of (defineSpot key media duration title) (fun u => u.withReel { s.reel with
    spots := placeSpot (s.freeSpotRecord.getD 0) key media (clampTo 5 180 duration) title s.reel.spots }) _ rfl rfl ho
    fun s1 t hn a hx f => ?_
  have hreel : t.reel = { s.reel with
      spots := placeSpot (s.freeSpotRecord.getD 0) key media (clampTo 5 180 duration) title s.reel.spots } := by
    rw [f.blocks]
    rfl
  have hfind : ∀ k, t.findSpot k =
      (placeSpot (s.freeSpotRecord.getD 0) key media (clampTo 5 180 duration) title s.reel.spots).find?
        (fun sp => sp.key == k) := fun k => by rw [State.findSpot, hreel]
  have hfree : s.findSpot key = none → ∃ r, s.freeSpotRecord = some r := fun hnone => by
    cases hr : s.freeSpotRecord with
    | some r => exact ⟨r, rfl⟩
    | none =>
      have hfull := firstRefusal_eq_none.mp hn ((s.findSpot key).isNone && s.freeSpotRecord.isNone, .tableFull) (by simp)
      simp [hnone, hr] at hfull
  refine ⟨t, _, ⟨hx, f.answered⟩, (hfind key).trans (findSpot_placeSpot_same _ _ _ _ _ _), ?_, ?_, ?_,
    fun old hold => ?_, fun hnone => ?_, fun k hk => (hfind k).trans (findSpot_placeSpot_other _ _ _ _ _ _ _ hk), ?_,
    quietly_of a f rfl⟩
  · split <;> rfl
  · split <;> rfl
  · split <;> rfl
  · rw [show s.reel.spots.find? (fun sp => sp.key == key) = some old from hold]
  · obtain ⟨r, hr⟩ := hfree hnone
    rw [show s.reel.spots.find? (fun sp => sp.key == key) = none from hnone, hr]
    exact freeSpotRecord_some hr
  · rw [f.blocks, a.blocks]
    rfl

theorem reelsNaming_isEmpty (s : State) (key : Nat) (hl : s.reel.reels.length = 4) :
    (reelsNaming s key).isEmpty = !s.reel.reels.any (fun x => x.slots.contains key) := by
  rw [Bool.eq_iff_iff, List.isEmpty_iff, reelsNaming, List.filter_eq_nil_iff, Bool.not_eq_true', List.any_eq_false]
  simp only [List.mem_range, List.forall_mem_iff_forall_getElem, hl]
  refine forall_congr' fun r => forall_congr' fun hr => ?_
  rw [State.reelAt, List.getElem?_eq_getElem (by omega), Option.getD_some]

theorem spot_removed (h : Hdr) (s : State) (key : Nat) (hs : Sized s) :
    TakenOrRefused (.removeSpot h key) h 65 s
      [(s.store.state != .idle, .storeBusy), ((s.findSpot key).isNone, .badArgument),
       (s.reel.reels.any (fun x => x.slots.contains key), .inUse)]
      (∃ t, Takes (.removeSpot h key) s h 65 (okWith []) t ∧ t.findSpot key = none ∧
        (∀ k, k ≠ key → t.findSpot k = s.findSpot k) ∧
        t = { s with reel := { s.reel with spots := t.reel.spots }, ports := t.ports } ∧ Quietly h.port s t) := by
  have hl : s.reel.reels.length = 4 := hs.2.2.2.2.2.1
  have ho : ∀ q, removeSpot key (s.withPorts q) =
      tested [(s.store.state != .idle, .storeBusy), ((s.findSpot key).isNone, .badArgument),
        (s.reel.reels.any (fun x => x.slots.contains key), .inUse)] (s.withPorts q)
        ((s.withPorts q).withReel { s.reel with spots := s.reel.spots.filter (fun sp => sp.key != key) },
          okWith []) := fun q => by
    have hb : storeBusy (s.withPorts q) = (s.store.state != .idle) := rfl
    have hf : (s.withPorts q).findSpot key = s.findSpot key := rfl
    have hr : (reelsNaming (s.withPorts q) key).isEmpty = !s.reel.reels.any (fun x => x.slots.contains key) :=
      reelsNaming_isEmpty (s.withPorts q) key hl
    simp only [removeSpot, tested, firstRefusal, hb, hf, hr, deny, Bool.not_eq_true']
    generalize s.reel.reels.any (fun x => x.slots.contains key) = used
    cases used <;> simp only [Bool.false_eq_true, Bool.true_eq_false, if_true, if_false] <;> split_ifs <;> rfl
  refine takenOrRefused_of (removeSpot key)
    (fun u => u.withReel { s.reel with spots := s.reel.spots.filter (fun sp => sp.key != key) }) _ rfl rfl ho
    fun s1 t _ a hx f => ?_
  have hreel : t.reel = { s.reel with spots := s.reel.spots.filter (fun sp => sp.key != key) } := by
    rw [f.blocks]
    rfl
  refine ⟨t, ⟨hx, f.answered⟩, ?_, fun k hk => ?_, ?_, quietly_of a f rfl⟩
  · simp [State.findSpot, hreel]
  · rw [State.findSpot, hreel]
    exact find?_filter_of_imp _ _ _ fun x _ hx => by simp_all
  · rw [f.blocks, a.blocks]
    rfl

/-- Settles O45: the three requests of the pool and the spots. -/
theorem poolAndSpots : Obligations.PoolAndSpots := fun h s =>
  ⟨poolSplit_taken h s, spot_defined h s, fun key hs => spot_removed h s key hs⟩

/-! ### Titles -/

theorem titleBad_eq (index : Nat) (text : List Byte) (rating : Nat) : titleBad index text rating =
    (decide (63 < index) || decide (text.length = 0) || decide (32 < text.length) ||
      text.any (fun c => decide (c.toNat < 32) || decide (126 < c.toNat)) || decide (7 < rating)) := by
  have hc : (!textOk text) = text.any (fun c => decide (c.toNat < 32) || decide (126 < c.toNat)) := by
    simp only [textOk, List.not_all_eq_any_not, Bool.not_and, ← decide_not, Nat.not_le]
  have he : text.isEmpty = decide (text.length = 0) := by cases text <;> simp
  rw [titleBad, hc, he]

/-- What an owner leaves of causes but for REFRESH_FORCED, the request leaves. -/
theorem onlyForced_of {h : Hdr} {k : Nat} {r : Reply} {s s1 u t : State} (a : Seated h s s1) (f : Finished h k r u t)
    (ho : OnlyForced s1 u) : OnlyForced s t := fun q n hn => by
  simp only [causeBit, f.causes, ← a.causes]
  exact ho q n hn

/-- The title as defined is the title's image (R83). -/
theorem titleForm_set (l : List (Option Title)) (index : Nat) (x : Title) (h : index < l.length) :
    titleForm ((l.set index (some x))[index]?).join = x := by
  simp [h, titleForm]

theorem publishTitle_defined (index : Nat) (x : Title) (s : State)
    (h : titleForm ((s.shows.titles)[index]?).join = x) :
    publishTitle index s = if (s.board.titles)[index]? = some x then s
      else file (.title index) .update (s.withBoard { s.board with titles := s.board.titles.set index x }) := by
  simp only [publishTitle, h]

/-- Writing an image over itself. -/
theorem set_getElem?_self {α : Type} {l : List α} {i : Nat} {x : α} (h : l[i]? = some x) : l.set i x = l := by
  obtain ⟨hi, rfl⟩ := List.getElem?_eq_some_iff.mp h
  exact List.set_getElem_self hi

/-- Settles O43: the title is written, its image published by difference. -/
theorem titlesAreDefined : Obligations.TitlesAreDefined := by
  intro h index text rating s hs
  rw [← titleBad_eq]
  have ho : ∀ q, defineTitle index text rating (s.withPorts q) =
      tested [(titleBad index text rating, .badArgument)] (s.withPorts q)
        (publishTitle index ((s.withPorts q).withShows { s.shows with
          titles := s.shows.titles.set index (some ⟨text, rating⟩) }), okWith []) := fun q => by
    simp only [defineTitle, tested, firstRefusal, deny]
    split_ifs <;> rfl
  refine takenOrRefused_of (defineTitle index text rating)
    (fun u => publishTitle index (u.withShows { s.shows with titles := s.shows.titles.set index (some ⟨text, rating⟩) }))
    _ rfl rfl ho fun s1 t hn a hx f => ?_
  have hi : index < s.shows.titles.length := by
    have hb := firstRefusal_eq_none.mp hn (titleBad index text rating, .badArgument) (by simp)
    simp only [titleBad, Bool.or_eq_false_iff, decide_eq_false_iff_not] at hb
    rw [hs.1]
    omega
  generalize hw : s1.withShows { s.shows with titles := s.shows.titles.set index (some ⟨text, rating⟩) } = w at f
  have hwb : w.board = s.board := by rw [← hw, a.blocks]; rfl
  have hpub := publishTitle_defined index ⟨text, rating⟩ w (by rw [← hw]; exact titleForm_set _ _ _ hi)
  rw [hpub, hwb] at f
  have hq : BuffersKept h.port s t := buffersKept_of a f (by rw [← hw]; split_ifs <;> simp)
  have hf : OnlyForced s t := onlyForced_of a f (by
    rw [← hw]
    split_ifs
    · exact fun _ _ _ => rfl
    · exact file_onlyForced _ _ _)
  rw [a.blocks] at hw
  subst hw
  by_cases hsame : (s.board.titles)[index]? = some ⟨text, rating⟩
  · rw [if_pos hsame] at f
    have hset : s.board.titles.set index ⟨text, rating⟩ = s.board.titles := set_getElem?_self hsame
    refine ⟨t, ⟨hx, f.answered⟩, ?_, ?_, fun _ => ?_, fun hne => absurd hsame hne, ?_, ?_, hq, hf⟩
    all_goals rw [f.blocks]
    · rfl
    · rw [hset]; rfl
    · exact ⟨rfl, rfl⟩
    · rfl
    · rfl
  · rw [if_neg hsame] at f
    refine ⟨t, ⟨hx, f.answered⟩, ?_, ?_, fun he => absurd he hsame, fun _ => ?_, ?_, ?_, hq, hf⟩
    all_goals rw [f.blocks]
    · simp
    · simp
    · simp [file_journal]
    · exact state_eq (by simp) (by simp) rfl (by simp) rfl (by simp) (by simp) (by simp) (by simp) rfl rfl rfl
        (by simp) (by simp) (by simp)
    · simp

end Sys2Proof.Machine

/-! ## Arrivals (O21) -/

namespace Sys2Proof.Machine

/-! ### Shows by their keys -/

/-- In ascending key order every loaded show is found by its key. -/
theorem findShow_of_mem {s : State} (h : s.shows.shows.Pairwise (fun a b => a.key < b.key)) {sh : Show}
    (hm : sh ∈ s.shows.shows) : s.findShow sh.key = some sh := by
  rw [State.findShow, List.find?_eq_some_iff_append]
  obtain ⟨before, after, hl⟩ := List.append_of_mem hm
  refine ⟨by simp, before, after, hl, fun x hx => ?_⟩
  rw [hl, List.pairwise_append] at h
  have := h.2.2 x hx sh (by simp)
  simpa using this.ne

/-- In ascending key order two shows of one key are one show. -/
theorem eq_of_key_eq {s : State} (h : s.shows.shows.Pairwise (fun a b => a.key < b.key)) {x y : Show}
    (hx : x ∈ s.shows.shows) (hy : y ∈ s.shows.shows) (hk : x.key = y.key) : x = y := by
  have := findShow_of_mem h hx
  rw [hk, findShow_of_mem h hy] at this
  exact (Option.some.inj this).symm

theorem notAfter_key {x y : Show} (h1 : x.notAfter y) (h2 : y.notAfter x) : x.key = y.key := by
  unfold Show.notAfter at h1 h2
  omega

/-! ### Which show an arrival starts -/

theorem isRepeat_iff (s : State) (aud : Nat) : isRepeat s aud = true ↔ ∃ sh ∈ s.shows.shows, sh.day = 0 ∧ sh.aud = aud ∧
    ∃ b since, sh.started = some (b, since) ∧ since ≤ s.shows.clock.minute ∧ s.shows.clock.minute < since + 2 := by
  simp only [isRepeat, List.any_eq_true, todayIn, List.mem_filter, Bool.and_eq_true, beq_iff_eq, and_assoc]
  refine exists_congr fun sh => and_congr_right fun _ => and_congr_right fun _ => and_congr_right fun _ => ?_
  cases sh.started with
  | none => simp
  | some x =>
    obtain ⟨b, since⟩ := x
    simp only [Bool.and_eq_true, decide_eq_true_eq, Option.some.injEq, Prod.mk.injEq]
    exact ⟨fun h => ⟨b, since, ⟨rfl, rfl⟩, h⟩, by rintro ⟨_, _, ⟨rfl, rfl⟩, h⟩; exact h⟩

/-- The show an arrival starts: the earliest SEATING show of today in the auditorium. -/
theorem earliest_seating {s : State} {aud : Nat} (h : s.shows.shows.Pairwise (fun a b => a.key < b.key)) {sh : Show}
    (hm : sh ∈ s.shows.shows) (hd : sh.day = 0) (ha : sh.aud = aud) (hst : sh.state = .seating)
    (hmin : ∀ x ∈ s.shows.shows, x.day = 0 → x.aud = aud → x.state = .seating → sh.notAfter x) :
    earliest ((todayIn s aud).filter (fun sh => sh.state == .seating)) = some sh := by
  have hin : sh ∈ (todayIn s aud).filter (fun sh => sh.state == .seating) := mem_todayIn.mpr ⟨hm, hd, ha, by simp [hst]⟩
  cases he : earliest ((todayIn s aud).filter (fun sh => sh.state == .seating)) with
  | none => rw [earliest_none he] at hin; cases hin
  | some y =>
    obtain ⟨hy, hle⟩ := earliest_some he
    obtain ⟨hym, hyd, hya, hys⟩ := mem_todayIn.mp hy
    have hk : sh.key = y.key := notAfter_key (hmin y hym hyd hya (by simpa using hys)) (hle sh hin)
    rw [eq_of_key_eq h hm hym hk]

theorem earliest_seating_none {s : State} {aud : Nat}
    (h : ∀ sh ∈ s.shows.shows, sh.day = 0 → sh.aud = aud → sh.state ≠ .seating) :
    earliest ((todayIn s aud).filter (fun sh => sh.state == .seating)) = none := by
  cases he : earliest ((todayIn s aud).filter (fun sh => sh.state == .seating)) with
  | none => rfl
  | some y =>
    obtain ⟨hym, hyd, hya, hys⟩ := mem_todayIn.mp (earliest_some he).1
    exact absurd (by simpa using hys) (h y hym hyd hya)

/-! ### What the evaluation makes of a show just started -/

theorem advanced_of_none {p : Policy} {c : Clock} {sh : Show} (h : dueTransition p c sh = none) : sh.advanced p c = sh := by
  simp [Show.advanced, h]

theorem advanced_of_some {p : Policy} {c : Clock} {sh : Show} {st : ShowState}
    (h : dueTransition p c sh = some (st, none)) : sh.advanced p c = { sh with state := st } := by
  simp [Show.advanced, h]

theorem evaluated_of_none {p : Policy} {c : Clock} {sh : Show} (h : dueTransition p c sh = none) :
    sh.evaluated p c = sh := by
  simp only [Show.evaluated, advanced_of_none h]

theorem due_ended (p : Policy) (c : Clock) {sh : Show} (h : sh.state = .ended) : dueTransition p c sh = none := by
  simp [dueTransition, h]

/-- A RUNNING show of today after its evaluation (R11): RUNNING while the clock is NOT SET or before late sale ends, CLOSED
before the run is over, ENDED from there. -/
theorem evaluated_of_running (p : Policy) (c : Clock) (sh : Show) (hs : sh.state = .running) (hd : sh.day = 0) :
    sh.evaluated p c = { sh with state :=
      if c.valid = false ∨ c.minute < sh.start + sh.delay + p.lateSale then .running
      else if c.minute < sh.start + sh.delay + sh.run then .closed else .ended } := by
  by_cases hrun : c.valid = false ∨ c.minute < sh.start + sh.delay + p.lateSale
  · have hn : dueTransition p c sh = none := by
      simp only [dueTransition, hs, hd, Show.effStart]
      rcases hrun with hv | hm
      · simp [hv]
      · simp [Nat.not_le.mpr hm]
    rw [evaluated_of_none hn, if_pos hrun, ← hs]
  · obtain ⟨hv, hm⟩ := not_or.mp hrun
    have hclosed : dueTransition p c sh = some (.closed, none) := by
      simp [dueTransition, hs, hd, Show.effStart, hv, Nat.not_lt.mp hm]
    rw [if_neg hrun]
    simp only [Show.evaluated, advanced_of_some hclosed]
    by_cases he : c.minute < sh.start + sh.delay + sh.run
    · have hn : dueTransition p c { sh with state := .closed } = none := by
        simp [dueTransition, Show.effStart, Nat.not_le.mpr he]
      rw [if_pos he, advanced_of_none hn, advanced_of_none hn, advanced_of_none hn]
    · have hended : dueTransition p c { sh with state := .closed } = some (.ended, none) := by
        simp [dueTransition, hd, Show.effStart, hv, Nat.not_lt.mp he]
      have hn : dueTransition p c { sh with state := .ended } = none := due_ended p c rfl
      rw [if_neg he, advanced_of_some hended, advanced_of_none hn, advanced_of_none hn]

/-- A show that an arrival starts. -/
theorem arrival_starts {s : State} {aud : Nat} {sh : Show} (hr : isRepeat s aud = false)
    (he : earliest ((todayIn s aud).filter (fun sh => sh.state == .seating)) = some sh) :
    arrival aud s = evaluate true sh.key (enterState true sh.key .running (some (.contact, s.shows.clock.minute)) s) := by
  simp [arrival, hr, he]

/-- Settles O21: the repeat test, the stray start, and the start of the earliest SEATING show with its evaluation. -/
theorem arrivalStartsTheShow : Obligations.ArrivalStartsTheShow := by
  intro aud s
  refine ⟨isRepeat_iff s aud, fun hr => by simp [arrival, hr], fun hr hn => ?_, fun hr hp sh hm hd ha hst hmin => ?_⟩
  · simp [arrival, hr, earliest_seating_none hn]
  · rw [arrival_starts hr (earliest_seating hp hm hd ha hst hmin)]
    have hf := findShow_of_mem hp hm
    have moved := moved_enterState true sh.key .running (some (.contact, s.shows.clock.minute)) s
    have raised := enterState_raises true sh.key .running (some (.contact, s.shows.clock.minute)) s sh hf
    obtain ⟨y0, hy0, hstate, hstarted⟩ :=
      enterState_state true sh.key .running (some (.contact, s.shows.clock.minute)) s sh hf
    obtain ⟨y0', hy0', hsame⟩ := moved.same sh hf
    obtain rfl : y0 = y0' := Option.some.inj (hy0.symm.trans hy0')
    generalize enterState true sh.key .running (some (.contact, s.shows.clock.minute)) s = w at *
    have hrec := hsame.record
    have hstart : y0.start = sh.start := by rw [hrec]
    have hdelay : y0.delay = sh.delay := by rw [hrec]
    have hrun : y0.run = sh.run := by rw [hrec]
    have hday : y0.day = 0 := by rw [hrec]; exact hd
    obtain ⟨y, hy, hts⟩ := evaluate_record true sh.key w y0 hy0
    rw [evaluated_of_running _ _ y0 hstate hday, moved.clock, moved.policy, hstart, hdelay, hrun] at hts
    obtain ⟨hys, hyst, _⟩ := hts
    exact ⟨y, hy, by simpa [hstarted] using hyst, hys,
      fun k hk => ((moved_evaluate true sh.key w).other k hk).trans (moved.other k hk), evaluate_raised _ _ _ raised⟩

end Sys2Proof.Machine

/-! ## Frames of shows' requests: causes that stay, withdrawals, doors and lines served (R13, R20, R84, R128) -/

namespace Sys2Proof.Machine

/-! ### Causes that stay raised -/

/-- Every cause raised stays raised, but for REFRESH_FORCED, of which nothing is said. -/
def CausesStay (s t : State) : Prop :=
  ∀ q n, ¬ (q = .programme ∧ n = 4) → causeBit q n s = true → causeBit q n t = true

theorem CausesStay.refl (s : State) : CausesStay s s := fun _ _ _ h => h

theorem CausesStay.trans {s t u : State} (a : CausesStay s t) (b : CausesStay t u) : CausesStay s u :=
  fun q n hn h => b q n hn (a q n hn h)

theorem CausesStay.of_ports {s t : State} (h : t.ports = s.ports) : CausesStay s t := fun q n _ hs => by
  simpa only [causeBit, portAt_eq, h] using hs

theorem OnlyForced.stay {s t : State} (a : OnlyForced s t) : CausesStay s t := fun q n hn h => (a q n hn).trans h

theorem raise_stay (p : Port) (c : Cause) (s : State) : CausesStay s (raise p c s) := fun q n _ h => by
  simp [raise_causeBit, h]

theorem raiseAll_stay (c : Cause) (s : State) : CausesStay s (raiseAll c s) :=
  ((raise_stay _ c s).trans (raise_stay _ c _)).trans (raise_stay _ c _)

theorem causeSet_eq_causeBit {p : Port} {c : Cause} {n : Nat} (h : c.bit p = some n) (s : State) :
    causeSet p c s = causeBit p n s := by
  simp [causeSet, causeBit, h]

/-- A cause that is not REFRESH_FORCED stays raised on its port. -/
theorem CausesStay.causeSet {s t : State} (a : CausesStay s t) {p : Port} {c : Cause} (hc : c ≠ .refreshForced)
    (h : causeSet p c s = true) : causeSet p c t = true := by
  cases hb : c.bit p with
  | none => simp [Sys2Proof.Machine.causeSet, hb] at h
  | some n =>
    rw [causeSet_eq_causeBit hb] at h ⊢
    refine a p n ?_ h
    rintro ⟨rfl, rfl⟩
    cases c <;> simp_all [Cause.bit]

theorem publishLine_onlyForced (k : Nat) (s : State) : OnlyForced s (publishLine k s) := by
  have hfile : ∀ t f l, OnlyForced s (file t f (s.withLines l)) := fun t f l =>
    OnlyForced.of_ports (t := s.withLines l) rfl (file_onlyForced _ _ _)
  unfold publishLine
  split
  · exact OnlyForced.refl s
  · exact hfile _ _ _
  · split
    · exact OnlyForced.refl s
    · exact hfile _ _ _
  · exact hfile _ _ _

theorem publishDoor_onlyForced (a : Nat) (s : State) : OnlyForced s (publishDoor a s) := by
  unfold publishDoor
  split
  · exact OnlyForced.refl s
  · exact OnlyForced.of_ports (t := s.withBoard _) rfl (file_onlyForced _ _ _)

theorem foldl_onlyForced {α : Type} (g : State → α → State) (h : ∀ s a, OnlyForced s (g s a)) (l : List α) (s : State) :
    OnlyForced s (l.foldl g s) :=
  foldl_inv (OnlyForced s) g (fun u a hu => hu.trans (h u a)) l s (OnlyForced.refl s)

theorem publishLines_onlyForced (keys : List Nat) (s : State) : OnlyForced s (publishLines keys s) :=
  foldl_onlyForced _ (fun s k => publishLine_onlyForced k s) keys s

theorem publishDoors_onlyForced (auds : List Nat) (s : State) : OnlyForced s (publishDoors auds s) :=
  foldl_onlyForced _ (fun s a => publishDoor_onlyForced a s) auds s

theorem fileNotices_onlyForced (s : State) : OnlyForced s (fileNotices s) := file_onlyForced _ _ s

theorem withdrawWhere_onlyForced (f : Notice → Bool) (s : State) : OnlyForced s (withdrawWhere f s) := by
  simp only [withdrawWhere]
  split
  · exact OnlyForced.refl s
  · exact OnlyForced.of_ports (t := s.withNotice _) rfl (file_onlyForced _ _ _)

theorem foldl_stay {α : Type} (g : State → α → State) (h : ∀ s a, CausesStay s (g s a)) (l : List α) (s : State) :
    CausesStay s (l.foldl g s) :=
  foldl_inv (CausesStay s) g (fun u a hu => hu.trans (h u a)) l s (CausesStay.refl s)

theorem endHold_ports (i : Nat) (r : EndReason) (s : State) : (endHold i r s).ports = s.ports := by simp

theorem voidHold_stay (i : Nat) (s : State) : CausesStay s (voidHold i s) := by
  unfold voidHold
  split
  · exact (CausesStay.of_ports (endHold_ports i .voided s)).trans (raise_stay _ _ _)
  · exact CausesStay.refl s

theorem voidHolds_stay (keys : List Nat) (s : State) : CausesStay s (voidHolds keys s) :=
  foldl_stay _ (fun s i => voidHold_stay i s) _ s

theorem voidShow_stay (key : Nat) (s : State) : CausesStay s (voidShow key s) := by
  unfold voidShow
  split
  · exact CausesStay.refl s
  · exact (voidHolds_stay [key] s).trans (.of_ports (by simp))

/-- A void raises HOLD_VOIDED on the hold's sales port (R68). -/
theorem voidHold_raises {i : Nat} {s : State} {info : HoldInfo} {life : Nat}
    (h : (s.holdSlot i).use = .active info life) (hp : info.port ≠ .programme) :
    causeSet info.port .holdVoided (voidHold i s) = true := by
  unfold voidHold
  rw [h]
  refine raise_sets _ _ _ ?_
  cases hq : info.port <;> simp_all [Cause.bit]

theorem voidFold_raises (l : List Nat) (s : State) {i : Nat} {info : HoldInfo} {life : Nat} (hi : i ∈ l)
    (h : (s.holdSlot i).use = .active info life) (hp : info.port ≠ .programme) :
    causeSet info.port .holdVoided (l.foldl (fun s j => voidHold j s) s) = true := by
  induction l generalizing s with
  | nil => cases hi
  | cons j l ih =>
    rw [List.foldl_cons]
    by_cases hj : i = j
    · subst hj
      exact (foldl_stay _ (fun s j => voidHold_stay j s) l _).causeSet (by decide) (voidHold_raises h hp)
    · refine ih _ ((List.mem_cons.mp hi).resolve_left hj) ?_
      rw [voidHold_slot, if_neg hj, h]

/-- The voids of the holds on some shows raise HOLD_VOIDED on the sales ports of those holds (R68). -/
theorem voidHolds_raises (keys : List Nat) (s : State) {i : Nat} {info : HoldInfo} {life : Nat} (hi : i < 192)
    (h : (s.holdSlot i).use = .active info life) (hk : info.key ∈ keys) (hp : info.port ≠ .programme) :
    causeSet info.port .holdVoided (voidHolds keys s) = true :=
  voidFold_raises _ s ((mem_activeSlotsOn keys s i).mpr ⟨hi, by simp [HoldSlot.isOn, h, hk]⟩) h hp

theorem voidShow_raises (key : Nat) (s : State) {i : Nat} {info : HoldInfo} {life : Nat} (hi : i < 192)
    (h : (s.holdSlot i).use = .active info life) (hk : info.key = key) (hp : info.port ≠ .programme) :
    causeSet info.port .holdVoided (voidShow key s) = true := by
  have hm : i ∈ activeSlotsOn [key] s := (mem_activeSlotsOn _ _ _).mpr ⟨hi, by simp [HoldSlot.isOn, h, hk]⟩
  unfold voidShow
  split
  · rename_i he
    rw [List.isEmpty_iff.mp he] at hm
    cases hm
  · exact voidHolds_raises [key] s hi h (by simp [hk]) hp

/-! ### Withdrawals -/

/-- A slot's contents, a slot beyond the queue reading as one never used. -/
def NoticeQueue.at_ (q : NoticeQueue) (i : Nat) : NoticeSlot := (q.slots)[i]?.getD ⟨0, none⟩

theorem noticeSlot_eq (s : State) (i : Nat) : s.noticeSlot i = s.notice.at_ i := rfl

theorem noticeSlot_congr {s t : State} (h : t.notice = s.notice) (i : Nat) : t.noticeSlot i = s.noticeSlot i := by
  simp [noticeSlot_eq, h]

/-- The slot a notice leaves: its generation stays (R118). -/
def NoticeSlot.emptied (x : NoticeSlot) : NoticeSlot := ⟨x.gen, none⟩

theorem at_eq_some {q : NoticeQueue} {i gen : Nat} {n : Notice} :
    q.at_ i = ⟨gen, some n⟩ ↔ (q.slots)[i]? = some ⟨gen, some n⟩ := by
  unfold NoticeQueue.at_
  cases (q.slots)[i]? <;> simp

theorem drop_at (q : NoticeQueue) (j i : Nat) : (q.drop j).at_ i = if i = j then (q.at_ i).emptied else q.at_ i := by
  unfold NoticeQueue.drop
  split
  · rename_i gen n h
    have hj : j < q.slots.length := (List.getElem?_eq_some_iff.mp h).1
    simp only [NoticeQueue.at_, countOrigin_slots, List.getElem?_set]
    by_cases hi : i = j
    · subst hi
      simp [hj, (List.getElem?_eq_some_iff.mp h).2, NoticeSlot.emptied]
    · simp [hi, Ne.symm hi]
  · rename_i hn
    by_cases hi : i = j
    · subst hi
      have hnone : (q.at_ i).notice = none := by
        cases hx : q.at_ i with
        | mk gen o =>
          cases o with
          | none => rfl
          | some n => exact absurd (at_eq_some.mp hx) (hn gen n)
      rw [if_pos rfl, NoticeSlot.emptied, ← hnone]
    · rw [if_neg hi]

theorem dropAll_at (l : List Nat) (q : NoticeQueue) (i : Nat) :
    (q.dropAll l).at_ i = if i ∈ l then (q.at_ i).emptied else q.at_ i := by
  unfold NoticeQueue.dropAll
  induction l generalizing q with
  | nil => simp
  | cons j l ih =>
    rw [List.foldl_cons, ih, drop_at]
    by_cases hj : i = j <;> by_cases hl : i ∈ l <;> simp [hj, hl, NoticeSlot.emptied]

theorem mem_slotsWhere (q : NoticeQueue) (f : Notice → Bool) (i : Nat) :
    i ∈ q.slotsWhere f ↔ (q.at_ i).notice.any f = true := by
  simp only [NoticeQueue.slotsWhere, List.mem_map, List.mem_filter, Prod.exists, mem_liveNotices]
  constructor
  · rintro ⟨j, gen, n, ⟨hx, hf⟩, rfl⟩
    simp [NoticeQueue.at_, hx, hf]
  · intro h
    cases hx : q.at_ i with
    | mk gen o =>
      cases o with
      | none => simp [hx] at h
      | some n => exact ⟨i, gen, n, ⟨at_eq_some.mp hx, by simpa [hx] using h⟩, rfl⟩

/-- The queue without the notices that satisfy `f`. -/
theorem dropWhere_at (q : NoticeQueue) (f : Notice → Bool) (i : Nat) :
    (q.dropAll (q.slotsWhere f)).at_ i = if (q.at_ i).notice.any f then (q.at_ i).emptied else q.at_ i := by
  simp only [dropAll_at, mem_slotsWhere]

theorem withdrawWhere_notice (f : Notice → Bool) (s : State) :
    (withdrawWhere f s).notice = s.notice.dropAll (s.notice.slotsWhere f) := by
  simp only [withdrawWhere]
  split
  · rename_i h
    rw [List.isEmpty_iff.mp h]
    rfl
  · simp

theorem withdrawWhere_slot (f : Notice → Bool) (s : State) (i : Nat) :
    (withdrawWhere f s).noticeSlot i =
      if (s.noticeSlot i).notice.any f then (s.noticeSlot i).emptied else s.noticeSlot i := by
  rw [noticeSlot_eq, withdrawWhere_notice, dropWhere_at]
  rfl

/-- After a withdrawal no notice satisfies its condition. -/
theorem withdrawWhere_none {f : Notice → Bool} {s : State} {i : Nat} {n : Notice}
    (h : ((withdrawWhere f s).noticeSlot i).notice = some n) : f n = false := by
  rw [withdrawWhere_slot] at h
  split at h
  · cases h
  · rename_i hf
    simpa [h] using hf

/-- A withdrawal leaves the notices that do not satisfy its condition. -/
theorem withdrawWhere_kept {f : Notice → Bool} {s : State} {i : Nat} {n : Notice}
    (h : (s.noticeSlot i).notice = some n) (hf : f n = false) :
    (withdrawWhere f s).noticeSlot i = s.noticeSlot i := by
  rw [withdrawWhere_slot, h]
  simp [hf]

/-! ### What an entry does, said once -/

/-- The record a show has right after it enters a state (R13). -/
def Show.entering (st : ShowState) (e : Option (StartedBy × Nat)) (x : Show) : Show :=
  { x with state := st, started := e.orElse (fun _ => x.started) }

/-- The state an entry leaves before its lines are published: record, door, holds, notices (R13). -/
def entered (key aud : Nat) (st : ShowState) (e : Option (StartedBy × Nat)) (w : State) : State :=
  noticeAtEntry key st (seatAtEntry key st (recomputeDoor (w.modifyShow key (Show.entering st e)) aud))

theorem enterState_eq {key : Nat} {w : State} {sh : Show} (h : w.findShow key = some sh) (b : Bool) (st : ShowState)
    (e : Option (StartedBy × Nat)) : enterState b key st e w =
      raiseAll .showChange (if b then publishShow key [sh.aud] (entered key sh.aud st e w) else entered key sh.aud st e w) := by
  unfold enterState
  rw [h]
  rfl

theorem enterState_absent {key : Nat} {w : State} (h : w.findShow key = none) (b : Bool) (st : ShowState)
    (e : Option (StartedBy × Nat)) : enterState b key st e w = w := by
  unfold enterState
  rw [h]

theorem moved_entered (key aud : Nat) (st : ShowState) (e : Option (StartedBy × Nat)) (w : State) :
    Moved key w (entered key aud st e w) :=
  (moved_modify key _ w (fun y => sameShow_state st (e.orElse (fun _ => y.started)) y)).trans
    ((moved_recomputeDoor key aud _).trans ((moved_seatAtEntry key st _).trans (moved_noticeAtEntry key st _)))

theorem enterState_shows {key : Nat} {w : State} {sh : Show} (h : w.findShow key = some sh) (b : Bool) (st : ShowState)
    (e : Option (StartedBy × Nat)) : (enterState b key st e w).shows = (entered key sh.aud st e w).shows := by
  rw [enterState_eq h]
  split <;> simp

theorem enterState_seat {key : Nat} {w : State} {sh : Show} (h : w.findShow key = some sh) (b : Bool) (st : ShowState)
    (e : Option (StartedBy × Nat)) : (enterState b key st e w).seat = (entered key sh.aud st e w).seat := by
  rw [enterState_eq h]
  split <;> simp

theorem enterState_notice {key : Nat} {w : State} {sh : Show} (h : w.findShow key = some sh) (b : Bool) (st : ShowState)
    (e : Option (StartedBy × Nat)) : (enterState b key st e w).notice = (entered key sh.aud st e w).notice := by
  rw [enterState_eq h]
  split <;> simp

theorem enterState_stay_entered {key : Nat} {w : State} {sh : Show} (h : w.findShow key = some sh) (b : Bool)
    (st : ShowState) (e : Option (StartedBy × Nat)) : CausesStay (entered key sh.aud st e w) (enterState b key st e w) := by
  rw [enterState_eq h]
  refine CausesStay.trans ?_ (raiseAll_stay _ _)
  split
  · exact (publishShow_onlyForced _ _ _).stay
  · exact CausesStay.refl _

theorem seatAtEntry_stay (key : Nat) (st : ShowState) (s : State) : CausesStay s (seatAtEntry key st s) := by
  unfold seatAtEntry
  split
  · exact voidShow_stay key s
  · exact voidShow_stay key s
  · exact CausesStay.refl s

theorem noticeAtEntry_onlyForced (key : Nat) (st : ShowState) (s : State) : OnlyForced s (noticeAtEntry key st s) := by
  unfold noticeAtEntry
  split
  · exact withdrawWhere_onlyForced _ s
  · exact withdrawWhere_onlyForced _ s
  · exact OnlyForced.refl s

theorem enterState_stay (b : Bool) (key : Nat) (st : ShowState) (e : Option (StartedBy × Nat)) (w : State) :
    CausesStay w (enterState b key st e w) := by
  cases h : w.findShow key with
  | none => rw [enterState_absent h]; exact CausesStay.refl w
  | some sh =>
    refine CausesStay.trans ?_ (enterState_stay_entered h b st e)
    exact (CausesStay.of_ports (t := recomputeDoor (w.modifyShow key (Show.entering st e)) sh.aud) (by simp)).trans
      ((seatAtEntry_stay key st _).trans (noticeAtEntry_onlyForced key st _).stay)

/-- A property of states that every entry keeps is kept by an evaluation. -/
theorem evaluate_inv {b : Bool} {key : Nat} (P : State → Prop)
    (h : ∀ st e v, P v → P (enterState b key st e v)) {w : State} (hw : P w) : P (evaluate b key w) := by
  have once : ∀ v, P v → P (evalOnce b key v) := fun v hv => by
    unfold evalOnce
    split
    · split
      · exact h _ _ _ hv
      · exact hv
    · exact hv
  exact once _ (once _ (once _ (once _ hw)))

theorem evaluate_stay (b : Bool) (key : Nat) (w : State) : CausesStay w (evaluate b key w) :=
  evaluate_inv (CausesStay w) (fun st e v hv => hv.trans (enterState_stay b key st e v)) (CausesStay.refl w)

theorem evaluateKeys_stay (b : Bool) (keys : List Nat) (w : State) : CausesStay w (evaluateKeys b keys w) :=
  foldl_stay _ (fun s k => evaluate_stay b k s) keys w

/-! ### The door show of an auditorium -/

/-- What R20 reads of a record of today in auditorium `a`. -/
def Show.row (a : Nat) (x : Show) : Option (Nat × Nat × Nat × ShowState) :=
  if x.day = 0 ∧ x.aud = a then some (x.key, x.start, x.delay, x.state) else none

/-- What R20 reads of the shows of today in auditorium `a`. -/
def State.slate (s : State) (a : Nat) : List (Nat × Nat × Nat × ShowState) := s.shows.shows.filterMap (Show.row a)

theorem slate_congr {s t : State} (h : t.shows = s.shows) (a : Nat) : t.slate a = s.slate a := by
  simp [State.slate, h]

theorem slate_modify {s : State} {k a : Nat} {f : Show → Show}
    (h : ∀ x ∈ s.shows.shows, x.key = k → (f x).row a = x.row a) : (s.modifyShow k f).slate a = s.slate a := by
  simp only [State.slate, modifyShow_shows, updateShows, List.filterMap_map]
  refine List.filterMap_congr fun x hx => ?_
  simp only [Function.comp]
  split
  · exact h x hx ‹_›
  · rfl

theorem row_subHeld (z : Zone) (n a : Nat) (x : Show) : (subHeld z n x).row a = x.row a := by cases z <;> rfl

theorem endHold_slate (i : Nat) (r : EndReason) (s : State) (a : Nat) : (endHold i r s).slate a = s.slate a := by
  unfold endHold
  split
  · exact slate_modify fun x _ _ => row_subHeld _ _ _ _
  · rfl

theorem voidHold_slate (i : Nat) (s : State) (a : Nat) : (voidHold i s).slate a = s.slate a := by
  unfold voidHold
  split
  · exact (slate_congr (by simp) a).trans (endHold_slate i .voided s a)
  · rfl

theorem voidHolds_slate (keys : List Nat) (s : State) (a : Nat) : (voidHolds keys s).slate a = s.slate a :=
  foldl_keep (fun t : State => t.slate a) _ (fun s i => voidHold_slate i s a) _ s

theorem computeShow_slate (key : Nat) (s : State) (a : Nat) : (computeShow key s).slate a = s.slate a :=
  slate_modify fun _ _ _ => rfl

theorem seatAtEntry_slate (key : Nat) (st : ShowState) (s : State) (a : Nat) :
    (seatAtEntry key st s).slate a = s.slate a := by
  have hv : (voidShow key s).slate a = s.slate a := by
    unfold voidShow
    split
    · rfl
    · exact (computeShow_slate key _ a).trans (voidHolds_slate [key] s a)
  unfold seatAtEntry
  split
  · exact hv
  · exact hv
  · rfl

theorem endHold_doors (i : Nat) (r : EndReason) (s : State) : (endHold i r s).shows.doors = s.shows.doors := by
  unfold endHold
  split <;> rfl

theorem voidHold_doors (i : Nat) (s : State) : (voidHold i s).shows.doors = s.shows.doors := by
  unfold voidHold
  split
  · rw [(raise_frame _ _ _).2.2.1, endHold_doors]
  · rfl

theorem voidHolds_doors (keys : List Nat) (s : State) : (voidHolds keys s).shows.doors = s.shows.doors :=
  foldl_keep (fun t : State => t.shows.doors) _ (fun s i => voidHold_doors i s) _ s

theorem seatAtEntry_doors (key : Nat) (st : ShowState) (s : State) : (seatAtEntry key st s).shows.doors = s.shows.doors := by
  have hv : (voidShow key s).shows.doors = s.shows.doors := by
    unfold voidShow
    split
    · rfl
    · exact voidHolds_doors [key] s
  unfold seatAtEntry
  split
  · exact hv
  · exact hv
  · rfl

theorem doorShow_congr {s t : State} (h : t.shows.doors = s.shows.doors) (a : Nat) : t.doorShow a = s.doorShow a := by
  simp [State.doorShow, h]

theorem row_eq_some {a : Nat} {x : Show} {r : Nat × Nat × Nat × ShowState} : x.row a = some r ↔
    x.day = 0 ∧ x.aud = a ∧ r = (x.key, x.start, x.delay, x.state) := by
  unfold Show.row
  split
  · rename_i h
    simp [h, eq_comm]
  · rename_i h
    simp only [reduceCtorEq, false_iff]
    rintro ⟨h1, h2, _⟩
    exact h ⟨h1, h2⟩

theorem slate_mem {s t : State} {a : Nat} (h : t.slate a = s.slate a) {x : Show} (hx : x ∈ t.shows.shows)
    (hd : x.day = 0) (ha : x.aud = a) : ∃ y ∈ s.shows.shows, y.day = 0 ∧ y.aud = a ∧ y.key = x.key ∧ y.start = x.start ∧
      y.delay = x.delay ∧ y.state = x.state := by
  have hm : (x.key, x.start, x.delay, x.state) ∈ s.slate a := by
    rw [← h]
    exact List.mem_filterMap.mpr ⟨x, hx, row_eq_some.mpr ⟨hd, ha, rfl⟩⟩
  obtain ⟨y, hy, hr⟩ := List.mem_filterMap.mp hm
  obtain ⟨h1, h2, h3⟩ := row_eq_some.mp hr
  simp only [Prod.mk.injEq] at h3
  obtain ⟨k1, k2, k3, k4⟩ := h3
  exact ⟨y, hy, h1, h2, k1.symm, k2.symm, k3.symm, k4.symm⟩

/-- R20's choice reads the auditorium's slate alone. -/
theorem doorChosen_congr {s t : State} {a : Nat} (hd : t.doorShow a = s.doorShow a) (hs : t.slate a = s.slate a)
    (h : DoorChosen a s) : DoorChosen a t := by
  obtain ⟨hsome, hnone⟩ := h
  refine ⟨fun k hk => ?_, fun hk x hx hx0 hxa => ?_⟩
  · obtain ⟨sh, hm, hkey, h0, ha, hc⟩ := hsome k (hd ▸ hk)
    obtain ⟨y, hy, y0, ya, yk, ys, yd, yst⟩ := slate_mem hs.symm hm h0 ha
    have hle : ∀ x ∈ t.shows.shows, x.day = 0 → x.aud = a → ∀ z ∈ s.shows.shows, z.key = x.key → z.start = x.start →
        z.delay = x.delay → sh.notAfter z → y.notAfter x := by
      intro x _ _ _ z _ zk zs zd hz
      unfold Show.notAfter at hz ⊢
      rw [ys, yd, yk, ← zs, ← zd, ← zk]
      exact hz
    refine ⟨y, hy, yk.trans hkey, y0, ya, hc.imp ?_ ?_⟩
    · rintro ⟨hst, hmin⟩
      refine ⟨by rwa [yst], fun x hx hx0 hxa hxs => ?_⟩
      obtain ⟨z, hz, z0, za, zk, zs, zd, zst⟩ := slate_mem hs hx hx0 hxa
      exact hle x hx hx0 hxa z hz zk zs zd (hmin z hz z0 za (by rwa [zst]))
    · rintro ⟨hst, hmin⟩
      refine ⟨by rwa [yst], fun x hx hx0 hxa => ?_⟩
      obtain ⟨z, hz, z0, za, zk, zs, zd, zst⟩ := slate_mem hs hx hx0 hxa
      obtain ⟨m1, m2, m3⟩ := hmin z hz z0 za
      rw [zst] at m1 m2 m3
      exact ⟨m1, m2, fun hxs => hle x hx hx0 hxa z hz zk zs zd (m3 hxs)⟩
  · obtain ⟨z, hz, z0, za, _, _, _, zst⟩ := slate_mem hs hx hx0 hxa
    rw [← zst]
    exact hnone (hd ▸ hk) z hz z0 za

theorem entered_shows_of (key : Nat) (st : ShowState) (s : State) : (noticeAtEntry key st s).shows = s.shows := by simp

theorem entered_slate (key aud a : Nat) (st : ShowState) (e : Option (StartedBy × Nat)) (w : State) :
    (entered key aud st e w).slate a = (w.modifyShow key (Show.entering st e)).slate a :=
  (slate_congr (entered_shows_of key st _) a).trans (seatAtEntry_slate key st _ a)

theorem entered_doorShow (key aud a : Nat) (st : ShowState) (e : Option (StartedBy × Nat)) (w : State) :
    (entered key aud st e w).doorShow a = (recomputeDoor (w.modifyShow key (Show.entering st e)) aud).doorShow a := by
  refine doorShow_congr ?_ a
  unfold entered
  rw [entered_shows_of, seatAtEntry_doors]

/-- The door line of an auditorium that publication recomputed, or that stood and stands as computed. -/
theorem doorServed_congr {a : Nat} {s t : State} (hs : t.shows = s.shows) (hb : t.board = s.board)
    (h : DoorServed a s) : DoorServed a t := by
  intro h1 h2
  obtain ⟨hc, hi⟩ := h h1 h2
  refine ⟨doorChosen_congr (doorShow_congr (by rw [hs]) a) (slate_congr hs a) hc, ?_⟩
  rw [computeDoor_congr hs, ← hi]
  simp [State.doorImage, hb]

/-- A door line recomputed, wherever the auditoria's numbers lie: two numbers of one place give one line. -/
theorem publishDoor_keeps {aud a : Nat} {s : State} (h : s.doorImage a = computeDoor s a) :
    (publishDoor aud s).doorImage a = computeDoor s a := by
  unfold publishDoor
  split
  · exact h
  · simp only [State.doorImage, file_board, withBoard_board, List.getElem?_set] at h ⊢
    split
    · rename_i hp
      have hc : computeDoor s aud = computeDoor s a := by simp only [computeDoor, State.doorShow, hp]
      split
      · simp [hc]
      · rename_i hlen
        rw [← h, ← hp, List.getElem?_eq_none (by omega)]
    · exact h

theorem publishDoor_served {a : Nat} {s : State} (hl : s.board.doors.length = 16) (h1 : 1 ≤ a) (h2 : a ≤ 16) :
    (publishDoor a s).doorImage a = computeDoor s a := by
  simpa using publishDoor_image a a s hl h1 h2 h1

/-- Recomputing doors keeps a door line as computed. -/
theorem publishDoors_keeps {auds : List Nat} {a : Nat} {s : State} (h : s.doorImage a = computeDoor s a) :
    (publishDoors auds s).doorImage a = computeDoor s a := by
  induction auds generalizing s with
  | nil => exact h
  | cons b l ih =>
    have hc := computeDoor_congr (publishDoor_frame b s).2.2.1 a
    exact (ih ((publishDoor_keeps h).trans hc.symm)).trans hc

/-- Every door line among those recomputed is as computed. -/
theorem publishDoors_served {auds : List Nat} {a : Nat} {s : State} (hl : s.board.doors.length = 16) (h1 : 1 ≤ a)
    (h2 : a ≤ 16) (ha : a ∈ auds) : (publishDoors auds s).doorImage a = computeDoor s a := by
  induction auds generalizing s with
  | nil => cases ha
  | cons b l ih =>
    have hc := computeDoor_congr (publishDoor_frame b s).2.2.1 a
    rw [publishDoors, List.foldl_cons]
    rcases List.mem_cons.mp ha with rfl | hin
    · exact (publishDoors_keeps ((publishDoor_served hl h1 h2).trans hc.symm)).trans hc
    · exact (ih ((publishDoor_length b s).trans hl) hin).trans hc

theorem publishShow_doorImage {key a : Nat} {auds : List Nat} {s : State} (hl : s.board.doors.length = 16) (h1 : 1 ≤ a)
    (h2 : a ≤ 16) (ha : a ∈ auds) : (publishShow key auds s).doorImage a = computeDoor s a := by
  have hc := computeDoor_congr (publishLine_frame key s).2.2.1 a
  rw [← hc, ← publishDoors_served (by rw [publishLine_doors, hl]) h1 h2 ha, State.doorImage, State.doorImage, publishShow,
    publishLines_doors]

/-- Publication with the auditorium among those recomputed serves its door, once the door show is chosen. -/
theorem publishShow_doorServed {key a : Nat} {auds : List Nat} {s : State} (hl : s.board.doors.length = 16)
    (ha : a ∈ auds) (hc : 1 ≤ a → a ≤ 16 → DoorChosen a s) : DoorServed a (publishShow key auds s) := by
  intro h1 h2
  have hs : (publishShow key auds s).shows = s.shows := by simp
  refine ⟨doorChosen_congr (doorShow_congr (by rw [hs]) a) (slate_congr hs a) (hc h1 h2), ?_⟩
  rw [publishShow_doorImage hl h1 h2 ha, computeDoor_congr hs]

/-- An entry serves the door of the show's auditorium (R13, R20). -/
theorem enterState_doorServed_own {key : Nat} {w : State} {sh : Show} (h : w.findShow key = some sh) (st : ShowState)
    (e : Option (StartedBy × Nat)) (hb : w.board.doors.length = 16) (hd : w.shows.doors.length = 16) :
    DoorServed sh.aud (enterState true key st e w) := by
  intro h1 h2
  have hm := moved_entered key sh.aud st e w
  refine doorServed_congr (s := publishShow key [sh.aud] (entered key sh.aud st e w)) ?_ ?_
    (publishShow_doorServed (hm.images.trans hb) (by simp) fun _ _ => ?_) h1 h2
  · rw [enterState_shows h]
    simp
  · rw [enterState_eq h, if_pos rfl]
    simp
  · exact doorChosen_congr (entered_doorShow key sh.aud sh.aud st e w)
      ((entered_slate key sh.aud sh.aud st e w).trans (slate_congr rfl _).symm)
      (recomputeDoor_chosen _ _ hd h1 h2)

theorem recomputeDoor_other {s : State} {aud a : Nat} (h1 : 1 ≤ aud) (ha : 1 ≤ a) (hne : a ≠ aud) :
    (recomputeDoor s aud).doorShow a = s.doorShow a := by
  simp only [State.doorShow, recomputeDoor, withShows_shows, List.getElem?_set_ne (show aud - 1 ≠ a - 1 by omega)]

/-- An entry keeps the door of an auditorium served in which no show of its key plays. -/
theorem enterState_doorServed_other {key a : Nat} {w : State} (st : ShowState) (e : Option (StartedBy × Nat))
    (hb : w.board.doors.length = 16)
    (hk : ∀ x ∈ w.shows.shows, x.key = key → x.aud ≠ a ∧ 1 ≤ x.aud ∧ x.aud ≤ 16) (hs : DoorServed a w) :
    DoorServed a (enterState true key st e w) := by
  cases h : w.findShow key with
  | none => rwa [enterState_absent h]
  | some sh =>
    intro h1 h2
    obtain ⟨hc, hi⟩ := hs h1 h2
    obtain ⟨hne, hr1, hr2⟩ := hk sh (findShow_mem h) (findShow_key h)
    have hm := moved_enterState true key st e w
    have hshows := enterState_shows h true st e
    have hdoor : (enterState true key st e w).doorShow a = w.doorShow a := by
      rw [doorShow_congr (congrArg _ hshows), entered_doorShow, recomputeDoor_other hr1 h1 (Ne.symm hne)]
      rfl
    have hslate : (enterState true key st e w).slate a = w.slate a := by
      rw [slate_congr hshows, entered_slate]
      exact slate_modify fun x hx hxk => by simp [Show.row, Show.entering, (hk x hx hxk).1]
    refine ⟨doorChosen_congr hdoor hslate hc, ?_⟩
    have himage : (enterState true key st e w).doorImage a = w.doorImage a := by
      have he := moved_entered key sh.aud st e w
      have hentered : (entered key sh.aud st e w).doorImage a = w.doorImage a := by
        simp [State.doorImage, entered]
      rw [← hentered, enterState_eq h, if_pos rfl]
      simpa [State.doorImage, Ne.symm hne] using
        publishShow_doors key a [sh.aud] (entered key sh.aud st e w) (he.images.trans hb) (by simp [hr1, hr2]) h1
    have hcompute : computeDoor (enterState true key st e w) a = computeDoor w a := by
      simp only [computeDoor, hdoor]
      cases hds : w.doorShow a with
      | none => rfl
      | some k =>
        obtain ⟨x, hx, hxk, _, hxa, _⟩ := hc.1 k hds
        have hne' : k ≠ key := fun he => (hk x hx (hxk.trans he)).1 hxa
        simp only [Option.bind_some, hm.other k hne']
    rw [himage, hcompute, hi]

/-! ### Whose auditorium a show plays in -/

/-- Key, day and auditorium of the loaded shows: what no change of a show's state changes. -/
def State.roster (s : State) : List (Nat × Nat × Nat) := s.shows.shows.map (fun x => (x.key, x.day, x.aud))

theorem roster_congr {s t : State} (h : t.shows = s.shows) : t.roster = s.roster := by simp [State.roster, h]

theorem roster_modify (s : State) (k : Nat) (f : Show → Show)
    (h : ∀ x, ((f x).key, (f x).day, (f x).aud) = (x.key, x.day, x.aud)) : (s.modifyShow k f).roster = s.roster := by
  simp only [State.roster, modifyShow_shows, updateShows, List.map_map]
  refine List.map_congr_left fun x _ => ?_
  simp only [Function.comp]
  split
  · exact h x
  · rfl

theorem endHold_roster (i : Nat) (r : EndReason) (s : State) : (endHold i r s).roster = s.roster := by
  unfold endHold
  split
  · rename_i info _ _
    exact roster_modify _ _ _ fun x => by cases info.zone <;> rfl
  · rfl

theorem voidHold_roster (i : Nat) (s : State) : (voidHold i s).roster = s.roster := by
  unfold voidHold
  split
  · exact (roster_congr (by simp)).trans (endHold_roster i .voided s)
  · rfl

theorem voidHolds_roster (keys : List Nat) (s : State) : (voidHolds keys s).roster = s.roster :=
  foldl_keep State.roster _ (fun s i => voidHold_roster i s) _ s

theorem seatAtEntry_roster (key : Nat) (st : ShowState) (s : State) : (seatAtEntry key st s).roster = s.roster := by
  have hv : (voidShow key s).roster = s.roster := by
    unfold voidShow
    split
    · rfl
    · exact (roster_modify _ key (Show.compute _) fun _ => rfl).trans (voidHolds_roster [key] s)
  unfold seatAtEntry
  split
  · exact hv
  · exact hv
  · rfl

theorem enterState_roster (b : Bool) (key : Nat) (st : ShowState) (e : Option (StartedBy × Nat)) (w : State) :
    (enterState b key st e w).roster = w.roster := by
  cases h : w.findShow key with
  | none => rw [enterState_absent h]
  | some sh =>
    rw [roster_congr (enterState_shows h b st e), entered, roster_congr (entered_shows_of key st _), seatAtEntry_roster]
    exact roster_modify w key _ fun _ => rfl

theorem evaluate_roster (b : Bool) (key : Nat) (w : State) : (evaluate b key w).roster = w.roster :=
  evaluate_inv (fun t => t.roster = w.roster) (fun st e v hv => (enterState_roster b key st e v).trans hv) rfl

theorem mem_roster {s t : State} (h : t.roster = s.roster) {x : Show} (hx : x ∈ t.shows.shows) :
    ∃ y ∈ s.shows.shows, y.key = x.key ∧ y.day = x.day ∧ y.aud = x.aud := by
  have hm : (x.key, x.day, x.aud) ∈ s.roster := by
    rw [← h]
    exact List.mem_map.mpr ⟨x, hx, rfl⟩
  obtain ⟨y, hy, he⟩ := List.mem_map.mp hm
  simp only [Prod.mk.injEq] at he
  exact ⟨y, hy, he⟩

/-! ### Doors after an evaluation -/

/-- An evaluation keeps the door of the show's own auditorium served. -/
theorem evaluate_doorServed_own {key : Nat} {w : State} {sh : Show} (h : w.findShow key = some sh)
    (hb : w.board.doors.length = 16) (hd : w.shows.doors.length = 16) (hs : DoorServed sh.aud w) :
    DoorServed sh.aud (evaluate true key w) := by
  refine (evaluate_inv (fun t => Moved key w t ∧ DoorServed sh.aud t) (fun st e v ⟨hm, _⟩ => ?_)
    ⟨Moved.refl key w, hs⟩).2
  obtain ⟨y, hy, hsame⟩ := hm.same sh h
  have haud : y.aud = sh.aud := by rw [hsame.record]
  exact ⟨hm.trans (moved_enterState true key st e v),
    haud ▸ enterState_doorServed_own hy st e (hm.images.trans hb) (hm.doors.trans hd)⟩

/-- An evaluation keeps the door of an auditorium served in which no show of its key plays. -/
theorem evaluate_doorServed_other {key a : Nat} {w : State} (hb : w.board.doors.length = 16)
    (hk : ∀ x ∈ w.shows.shows, x.key = key → x.aud ≠ a ∧ 1 ≤ x.aud ∧ x.aud ≤ 16) (hs : DoorServed a w) :
    DoorServed a (evaluate true key w) := by
  refine (evaluate_inv (fun t => Moved key w t ∧ t.roster = w.roster ∧ DoorServed a t) (fun st e v ⟨hm, hr, hv⟩ => ?_)
    ⟨Moved.refl key w, rfl, hs⟩).2.2
  refine ⟨hm.trans (moved_enterState true key st e v), (enterState_roster true key st e v).trans hr,
    enterState_doorServed_other st e (hm.images.trans hb) (fun x hx hxk => ?_) hv⟩
  obtain ⟨y, hy, yk, _, ya⟩ := mem_roster hr hx
  exact ya ▸ hk y hy (yk.trans hxk)

end Sys2Proof.Machine

/-! ## Opening, cancelling and removing shows (O41, O42) -/

namespace Sys2Proof.Machine

/-! ### Requests that name a show -/

/-- A request that names a show: NO_SUCH_SHOW, then the tests on the show found, then what is done to it. -/
theorem takenOrRefused_show {c : Instr} {h : Hdr} {k key : Nat} {b : List Byte} {s : State}
    {tests : List (Bool × Result)} {taken : Show → Prop} (owner : Owner) (act : Show → State → State)
    (reply : Show → Reply) (he : exec c s = request c owner s) (hb : requestBody c = some (h, k, b))
    (hnone : s.findShow key = none → ∀ q, owner (s.withPorts q) = deny .noSuchShow (s.withPorts q))
    (ho : ∀ sh, s.findShow key = some sh → ∀ q,
      owner (s.withPorts q) = tested tests (s.withPorts q) (act sh (s.withPorts q), reply sh))
    (ht : ∀ sh s1 t, s.findShow key = some sh → firstRefusal tests = none → Seated h s s1 → exec c s = .next t →
      Finished h k (reply sh) (act sh s1) t → taken sh) :
    TakenOrRefused c h k s (((s.findShow key).isNone, .noSuchShow) :: tests)
      (∀ sh, s.findShow key = some sh → taken sh) := by
  cases hf : s.findShow key with
  | none =>
    exact takenOrRefused_of owner id (refuse .noSuchShow) he hb (fun q => (hnone hf q).trans rfl)
      fun _ _ _ _ _ _ sh hsh => by cases hsh
  | some x =>
    exact takenOrRefused_of owner (act x) (reply x) he hb (fun q => ho x hf q)
      fun s1 t hn a hx f sh hsh => Option.some.inj hsh ▸ ht x s1 t hf hn a hx f

theorem TakenOrRefused.imp {c : Instr} {h : Hdr} {k : Nat} {s : State} {tests : List (Bool × Result)} {p q : Prop}
    (ht : TakenOrRefused c h k s tests p) (hpq : firstRefusal tests = none → p → q) : TakenOrRefused c h k s tests q :=
  fun hr => ⟨(ht hr).1, fun hn => hpq hn ((ht hr).2 hn)⟩

/-- An answer with a body from an owner that changed nothing. -/
theorem reads_of_finished {c : Instr} {h : Hdr} {k : Nat} {s s1 t : State} {body : List Byte} (a : Seated h s s1)
    (hx : exec c s = .next t) (f : Finished h k (okWith body) s1 t) : Reads c s h k body :=
  ⟨t, ⟨hx, f.answered⟩, by rw [f.blocks, a.blocks], quietly_of a f rfl⟩

/-! ### Carrying facts over the answer -/

section
variable {h : Hdr} {k : Nat} {r : Reply} {s s1 u t : State}

theorem Seated.shows (a : Seated h s s1) : s1.shows = s.shows := by rw [a.blocks]
theorem Seated.seat (a : Seated h s s1) : s1.seat = s.seat := by rw [a.blocks]
theorem Seated.board (a : Seated h s s1) : s1.board = s.board := by rw [a.blocks]
theorem Seated.notice (a : Seated h s s1) : s1.notice = s.notice := by rw [a.blocks]
theorem Seated.chime (a : Seated h s s1) : s1.chime = s.chime := by rw [a.blocks]
theorem Seated.house (a : Seated h s s1) : s1.house = s.house := by rw [a.blocks]
theorem Seated.journal (a : Seated h s s1) : s1.journal = s.journal := by rw [a.blocks]
theorem Seated.link (a : Seated h s s1) : s1.link = s.link := by rw [a.blocks]
theorem Seated.policy (a : Seated h s s1) : s1.policy = s.policy := by rw [a.blocks]
theorem Seated.findShow (a : Seated h s s1) (key : Nat) : s1.findShow key = s.findShow key := findShow_congr a.shows key
theorem Finished.shows (f : Finished h k r u t) : t.shows = u.shows := by rw [f.blocks]
theorem Finished.seat (f : Finished h k r u t) : t.seat = u.seat := by rw [f.blocks]
theorem Finished.board (f : Finished h k r u t) : t.board = u.board := by rw [f.blocks]
theorem Finished.notice (f : Finished h k r u t) : t.notice = u.notice := by rw [f.blocks]
theorem Finished.chime (f : Finished h k r u t) : t.chime = u.chime := by rw [f.blocks]
theorem Finished.house (f : Finished h k r u t) : t.house = u.house := by rw [f.blocks]
theorem Finished.reel (f : Finished h k r u t) : t.reel = u.reel := by rw [f.blocks]
theorem Finished.store (f : Finished h k r u t) : t.store = u.store := by rw [f.blocks]
theorem Finished.journal (f : Finished h k r u t) : t.journal = u.journal := by rw [f.blocks]
theorem Finished.link (f : Finished h k r u t) : t.link = u.link := by rw [f.blocks]
theorem Finished.policy (f : Finished h k r u t) : t.policy = u.policy := by rw [f.blocks]
theorem Finished.findShow (f : Finished h k r u t) (key : Nat) : t.findShow key = u.findShow key :=
  findShow_congr f.shows key
theorem Finished.holdSlot (f : Finished h k r u t) (i : Nat) : t.holdSlot i = u.holdSlot i := by
  simp [State.holdSlot, f.seat]
theorem Finished.noticeSlot (f : Finished h k r u t) (i : Nat) : t.noticeSlot i = u.noticeSlot i :=
  noticeSlot_congr f.notice i
theorem Finished.lineImage (f : Finished h k r u t) (key : Nat) : t.lineImage key = u.lineImage key := by
  simp [State.lineImage, f.board]
theorem Finished.published (f : Finished h k r u t) {key : Nat} (hp : Published key u) : Published key t :=
  published_congr f.shows f.board hp
theorem Finished.doorServed (f : Finished h k r u t) {a : Nat} (hd : DoorServed a u) : DoorServed a t :=
  doorServed_congr f.shows f.board hd
theorem Finished.showChange (f : Finished h k r u t) (hc : ShowChangeRaised u) : ShowChangeRaised t := fun p => by
  rw [f.causeSet_eq, hc p]
theorem Finished.due (f : Finished h k r u t) {y : Show} (hy : dueTransition u.policy u.shows.clock y = none) :
    dueTransition t.policy t.shows.clock y = none := by
  rw [f.policy, f.shows, hy]

end

/-- What the request leaves of every block but those a change of shows touches (R13). -/
structure Framed (w u : State) : Prop where
  table : u.shows = { w.shows with shows := u.shows.shows, doors := u.shows.doors }
  blocks : u = { w with seat := u.seat, shows := u.shows, board := u.board, notice := u.notice, journal := u.journal,
                        link := u.link, ports := u.ports }
  steady : u.link.steady = w.link.steady
  quiet : u.ports.quiet = w.ports.quiet
  causes : OnlyShowCauses w u

theorem Framed.refl (w : State) : Framed w w := ⟨rfl, rfl, rfl, rfl, OnlyShowCauses.refl w⟩

theorem Framed.trans {w u v : State} (a : Framed w u) (b : Framed u v) : Framed w v where
  table := by rw [b.table, a.table]
  blocks := by rw [b.blocks, a.blocks]
  steady := b.steady.trans a.steady
  quiet := b.quiet.trans a.quiet
  causes := a.causes.trans b.causes

theorem Moved.framed {key : Nat} {w u : State} (m : Moved key w u) : Framed w u :=
  ⟨m.table, m.blocks, m.steady, m.quiet, m.causes⟩

theorem Framed.policy {w u : State} (a : Framed w u) : u.policy = w.policy := by rw [a.blocks]
theorem Framed.clock {w u : State} (a : Framed w u) : u.shows.clock = w.shows.clock := by rw [a.table]

theorem framed_withShowList (l : List Show) (w : State) : Framed w (w.withShowList l) :=
  ⟨rfl, rfl, rfl, rfl, fun _ _ _ _ => rfl⟩

theorem framed_modify (key : Nat) (f : Show → Show) (w : State) : Framed w (w.modifyShow key f) :=
  ⟨rfl, rfl, rfl, rfl, fun _ _ _ _ => rfl⟩

theorem framed_recomputeDoor (aud : Nat) (w : State) : Framed w (recomputeDoor w aud) :=
  ⟨rfl, rfl, rfl, rfl, fun _ _ _ _ => rfl⟩

theorem framed_publish (key : Nat) (auds : List Nat) (w : State) : Framed w (publishShow key auds w) :=
  (moved_publish key key auds w).framed

theorem framed_raiseAll (w : State) : Framed w (raiseAll .showChange w) := (moved_raiseAll 0 w).framed

theorem framed_withdraw (f : Notice → Bool) (w : State) : Framed w (withdrawWhere f w) := (moved_withdraw 0 f w).framed

theorem showFrame_of_framed {h : Hdr} {k : Nat} {r : Reply} {s s1 u t : State} (a : Seated h s s1)
    (f : Finished h k r u t) (m : Framed s1 u) : ShowFrame h.port s t where
  left := by rw [f.blocks, m.blocks, a.blocks]
  right := by
    refine ⟨?_, ?_, buffersKept_of a f m.quiet, fun q n h1 h2 => ?_⟩
    · rw [f.shows, m.table, a.shows]
    · rw [f.link, m.steady, a.link]
    · simp only [causeBit, f.causes, ← a.causes]
      exact m.causes q n h1 h2

/-! ### States an evaluation does not enter -/

/-- An evaluation enters no LOADED and no CANCELLED state (R11). -/
theorem due_target {p : Policy} {c : Clock} {sh : Show} {st : ShowState} {b : Option (StartedBy × Nat)}
    (h : dueTransition p c sh = some (st, b)) : st ≠ .loaded ∧ st ≠ .cancelled := by
  unfold dueTransition at h
  repeat' split at h
  all_goals simp_all
  all_goals obtain ⟨rfl, _⟩ := h; simp

theorem advanced_active {p : Policy} {c : Clock} {x : Show} (h : x.state ≠ .loaded ∧ x.state ≠ .cancelled) :
    (x.advanced p c).state ≠ .loaded ∧ (x.advanced p c).state ≠ .cancelled := by
  unfold Show.advanced
  split
  · rename_i hd
    exact due_target hd
  · exact h

theorem evaluated_active {p : Policy} {c : Clock} {x : Show} (h : x.state ≠ .loaded ∧ x.state ≠ .cancelled) :
    (x.evaluated p c).state ≠ .loaded ∧ (x.evaluated p c).state ≠ .cancelled :=
  advanced_active (advanced_active (advanced_active (advanced_active h)))

/-! ### Entries without voids -/

theorem findShow_entered (key aud : Nat) (st : ShowState) (e : Option (StartedBy × Nat)) (w : State) {sh : Show}
    (h : w.findShow key = some sh) (hv : ∀ u, u.seat = w.seat → seatAtEntry key st u = u) :
    (entered key aud st e w).findShow key = some (sh.entering st e) := by
  unfold entered
  rw [findShow_congr (entered_shows_of key st _), hv _ (by simp)]
  show (w.modifyShow key (Show.entering st e)).findShow key = _
  rw [findShow_modifyShow_same w key (Show.entering st e) (fun _ => rfl), h]
  rfl

/-- An entry that voids nothing changes the record in state and started-by alone. -/
theorem enterState_record {key : Nat} {w : State} {sh : Show} (h : w.findShow key = some sh) (b : Bool) (st : ShowState)
    (e : Option (StartedBy × Nat)) (hv : ∀ u, u.seat = w.seat → seatAtEntry key st u = u) :
    (enterState b key st e w).findShow key = some (sh.entering st e) :=
  (findShow_congr (enterState_shows h b st e) key).trans (findShow_entered key sh.aud st e w h hv)

theorem voidShow_unheld {key : Nat} {w : State} (h : ∀ i, i < 192 → (w.holdSlot i).isOn [key] = false) :
    voidShow key w = w := by
  have he : activeSlotsOn [key] w = [] := List.eq_nil_iff_forall_not_mem.mpr fun i hi => by
    obtain ⟨h1, h2⟩ := (mem_activeSlotsOn _ _ _).mp hi
    rw [h i h1] at h2
    cases h2
  simp [voidShow, he]

theorem isOn_singleton_eq_false {x : HoldSlot} {key : Nat} (h : ∀ info life, x.use = .active info life → info.key ≠ key) :
    x.isOn [key] = false := by
  unfold HoldSlot.isOn
  split
  · rename_i info life hu
    simpa using h info life hu
  · rfl

/-! ### Open Sales -/

theorem openSales_owner (key : Nat) (s : State) {sh : Show} (h : s.findShow key = some sh) (q : Ports) :
    openSales key (s.withPorts q) =
      tested [((s.findShow key).any (fun sh => decide (sh.day = 0) && !s.shows.clock.valid), .clockNotSet),
          ((s.findShow key).any (fun sh => sh.state != .loaded && sh.state != .onSale), .notAmendable)] (s.withPorts q)
        (if sh.state = .loaded then evaluate true key (enterState true key .onSale none (s.withPorts q)) else s.withPorts q,
          okWith []) := by
  have hf : (s.withPorts q).findShow key = some sh := h
  simp only [openSales, hf, h, tested, firstRefusal, Option.any_some, Bool.and_eq_true, decide_eq_true_eq,
    Bool.not_eq_true', withPorts_shows]
  by_cases hc : sh.day = 0 ∧ s.shows.clock.valid = false
  · simp [hc, deny]
  · cases hst : sh.state <;> simp [hc, deny]

theorem salesOpened (h : Hdr) (key : Nat) (s : State) (hs : Sized s) :
    TakenOrRefused (.openSales h key) h 34 s
      [((s.findShow key).isNone, .noSuchShow),
       ((s.findShow key).any (fun sh => decide (sh.day = 0) && !s.shows.clock.valid), .clockNotSet),
       ((s.findShow key).any (fun sh => sh.state != .loaded && sh.state != .onSale), .notAmendable)]
      (∀ sh, s.findShow key = some sh →
        (sh.state = .onSale → Reads (.openSales h key) s h 34 []) ∧
        (sh.state = .loaded → ∃ t y, Takes (.openSales h key) s h 34 (okWith []) t ∧ t.findShow key = some y ∧
          (∀ k, k ≠ key → t.findShow k = s.findShow k) ∧ y.state ≠ .loaded ∧ y.state ≠ .cancelled ∧
          dueTransition t.policy t.shows.clock y = none ∧
          (dueTransition s.policy s.shows.clock { sh with state := .onSale } = none → y = { sh with state := .onSale }) ∧
          ShowChangeRaised t ∧ Published key t ∧ DoorServed sh.aud t ∧ ShowFrame h.port s t)) := by
  refine takenOrRefused_show (openSales key)
    (fun sh u => if sh.state = .loaded then evaluate true key (enterState true key .onSale none u) else u)
    (fun _ => okWith []) rfl rfl (fun hn q => ?_) (fun sh hsh q => openSales_owner key s hsh q)
    fun sh s1 t hsh hn a hx f => ⟨fun hst => ?_, fun hst => ?_⟩
  · have hf : (s.withPorts q).findShow key = none := hn
    simp [openSales, hf]
  · rw [if_neg (by simp [hst])] at f
    exact reads_of_finished a hx f
  · rw [if_pos hst] at f
    have hb : s1.board.doors.length = 16 := by rw [a.board]; exact hs.2.2.2.1
    have hd : s1.shows.doors.length = 16 := by rw [a.shows]; exact hs.2.1
    have h1 : s1.findShow key = some sh := (a.findShow key).trans hsh
    have hrec : (enterState true key .onSale none s1).findShow key = some (sh.entering .onSale none) :=
      enterState_record h1 true .onSale none fun u _ => rfl
    have m1 := moved_enterState true key .onSale none s1
    have hpub := enterState_published key .onSale none s1 sh h1 hb hd
    have hdoor := enterState_doorServed_own h1 .onSale none hb hd
    have hraise := enterState_raises true key .onSale none s1 sh h1
    generalize enterState true key .onSale none s1 = w at *
    have m2 := moved_evaluate true key w
    have hserved : DoorServed sh.aud (evaluate true key w) :=
      evaluate_doorServed_own (sh := sh.entering .onSale none) hrec (m1.images.trans hb) (m1.doors.trans hd) hdoor
    obtain ⟨y, hy, hts⟩ := evaluate_record true key w _ hrec
    have hact := evaluated_active (p := w.policy) (c := w.shows.clock) (x := sh.entering .onSale none)
      ⟨by simp [Show.entering], by simp [Show.entering]⟩
    rw [← hts.1] at hact
    refine ⟨t, y, ⟨hx, f.answered⟩, (f.findShow key).trans hy,
      fun k hk => by rw [f.findShow, m2.other k hk, m1.other k hk, a.findShow], hact.1, hact.2,
      f.due (evaluate_settles true key w y hy), fun hdue => ?_, f.showChange (evaluate_raised true key w hraise),
      f.published (evaluate_published key w (m1.images.trans hb) (m1.doors.trans hd) hpub),
      f.doorServed hserved,
      showFrame_of a f (m1.trans m2)⟩
    have hfix : evaluate true key w = w := evaluate_fixed true key w fun x hxw => by
      rw [hrec] at hxw
      rw [← Option.some.inj hxw, m1.policy, m1.clock, a.policy, a.shows]
      exact hdue
    rw [hfix, hrec] at hy
    exact (Option.some.inj hy).symm

/-! ### Cancel Show -/

theorem entered_seat_cancelled (key aud : Nat) (e : Option (StartedBy × Nat)) (w : State) :
    (entered key aud .cancelled e w).seat =
      (voidShow key (recomputeDoor (w.modifyShow key (Show.entering .cancelled e)) aud)).seat := by
  simp [entered, seatAtEntry]

/-- The slots a cancellation leaves: the show's ACTIVE holds are VOIDED (R13, R68). -/
theorem cancelled_slot {key : Nat} {w : State} {sh : Show} (h : w.findShow key = some sh) (b : Bool)
    (e : Option (StartedBy × Nat)) (i : Nat) : (enterState b key .cancelled e w).holdSlot i =
      if i < 192 ∧ (w.holdSlot i).isOn [key] = true then (w.holdSlot i).voided else w.holdSlot i := by
  have hseat := (enterState_seat h b .cancelled e).trans (entered_seat_cancelled key sh.aud e w)
  rw [State.holdSlot, hseat]
  exact voidShow_slot key i _

theorem cancelled_slot_match {key : Nat} {x : HoldSlot} :
    (if x.isOn [key] = true then x.voided else x) = match x.use with
      | .active info _ => if info.key = key then ⟨x.gen, .ended info .voided⟩ else x
      | _ => x := by
  unfold HoldSlot.isOn HoldSlot.voided
  cases x.use with
  | active info life => by_cases hk : info.key = key <;> simp [hk]
  | _ => simp

theorem cancelled_raises {key : Nat} {w : State} {sh : Show} (h : w.findShow key = some sh) (b : Bool)
    (e : Option (StartedBy × Nat)) {i : Nat} {info : HoldInfo} {life : Nat} (hi : i < 192)
    (hu : (w.holdSlot i).use = .active info life) (hk : info.key = key) (hp : info.port ≠ .programme) :
    causeSet info.port .holdVoided (enterState b key .cancelled e w) = true := by
  refine (enterState_stay_entered h b .cancelled e).causeSet (by decide) ?_
  refine (noticeAtEntry_onlyForced key .cancelled _).stay.causeSet (by decide) ?_
  exact voidShow_raises key (recomputeDoor (w.modifyShow key (Show.entering .cancelled e)) sh.aud) hi hu hk hp

theorem cancelled_notice {key : Nat} {w : State} {sh : Show} (h : w.findShow key = some sh) (b : Bool)
    (e : Option (StartedBy × Nat)) :
    (enterState b key .cancelled e w).notice = (withdrawDelay key w).notice := by
  rw [enterState_notice h, withdrawDelay, withdrawWhere_notice]
  simp [entered, noticeAtEntry, seatAtEntry, withdrawDelay, withdrawWhere_notice]

theorem isDelayOf_eq_false {key : Nat} {n : Notice} : isDelayOf key n = false ↔ ¬ (n.cls = .delay ∧ n.linked = some key) := by
  simp [isDelayOf]

theorem showCancelled (h : Hdr) (key : Nat) (s : State) (hs : Sized s) :
    TakenOrRefused (.cancelShow h key) h 35 s
      [((s.findShow key).isNone, .noSuchShow),
       ((s.findShow key).any (fun sh => sh.state == .closed || sh.state == .ended || sh.state == .cancelled), .notAmendable)]
      (∀ sh, s.findShow key = some sh → ∃ t y, Takes (.cancelShow h key) s h 35 (okWith []) t ∧
        t.findShow key = some y ∧ (∀ k, k ≠ key → t.findShow k = s.findShow k) ∧ y.state = .cancelled ∧
        y.delay = sh.delay ∧ y.started = sh.started ∧ y.start = sh.start ∧ y.run = sh.run ∧ y.day = sh.day ∧
        (∀ z, (y.zone z).sold = (sh.zone z).sold ∧ (y.zone z).withheld = (sh.zone z).withheld ∧
          (y.zone z).cap = (sh.zone z).cap) ∧
        (∀ i, i < 192 → t.holdSlot i = match (s.holdSlot i).use with
          | .active info _ => if info.key = key then ⟨(s.holdSlot i).gen, .ended info .voided⟩ else s.holdSlot i
          | _ => s.holdSlot i) ∧
        (∀ i info life, i < 192 → (s.holdSlot i).use = .active info life → info.key = key → info.port ≠ .programme →
          causeSet info.port .holdVoided t = true) ∧
        ((∀ i info life, i < 192 → (s.holdSlot i).use = .active info life → info.key ≠ key) →
          y = { sh with state := .cancelled } ∧ t.seat = s.seat) ∧
        (∀ i n, (t.noticeSlot i).notice = some n → ¬ (n.cls = .delay ∧ n.linked = some key)) ∧
        (∀ i n, (s.noticeSlot i).notice = some n → ¬ (n.cls = .delay ∧ n.linked = some key) →
          t.noticeSlot i = s.noticeSlot i) ∧
        ShowChangeRaised t ∧ Published key t ∧ DoorServed sh.aud t ∧ ShowFrame h.port s t) := by
  refine takenOrRefused_show (cancelShow key) (fun _ u => enterState true key .cancelled none u) (fun _ => okWith []) rfl
    rfl (fun hn q => ?_) (fun sh hsh q => ?_) fun sh s1 t hsh hn a hx f => ?_
  · have hf : (s.withPorts q).findShow key = none := hn
    simp [cancelShow, hf]
  · have hf : (s.withPorts q).findShow key = some sh := hsh
    simp only [cancelShow, hf, hsh, tested, firstRefusal, Option.any_some]
    cases sh.state <;> simp [ShowState.cancellable, deny]
  · have hb : s1.board.doors.length = 16 := by rw [a.board]; exact hs.2.2.2.1
    have hd : s1.shows.doors.length = 16 := by rw [a.shows]; exact hs.2.1
    have h1 : s1.findShow key = some sh := (a.findShow key).trans hsh
    have hslot1 : ∀ i, s1.holdSlot i = s.holdSlot i := fun i => by simp [State.holdSlot, a.seat]
    have hnote1 : ∀ i, s1.noticeSlot i = s.noticeSlot i := noticeSlot_congr a.notice
    have hnote : ∀ i, t.noticeSlot i = (withdrawDelay key s1).noticeSlot i := fun i =>
      (f.noticeSlot i).trans (noticeSlot_congr (cancelled_notice h1 true none) i)
    have m := moved_enterState true key .cancelled none s1
    obtain ⟨y, hy, hst, hstarted⟩ := enterState_state true key .cancelled none s1 sh h1
    obtain ⟨y', hy', hsame⟩ := m.same sh h1
    obtain rfl : y = y' := Option.some.inj (hy.symm.trans hy')
    have hrec := hsame.record
    refine ⟨t, y, ⟨hx, f.answered⟩, (f.findShow key).trans hy,
      fun k hk => by rw [f.findShow, m.other k hk, a.findShow], hst, by rw [hrec], hstarted, by rw [hrec], by rw [hrec],
      by rw [hrec], hsame.counts, fun i hi => ?_, fun i info life hi hu hk hp => ?_, fun hnone => ?_,
      fun i n hi => ?_, fun i n hi hne => ?_, f.showChange (enterState_raises true key .cancelled none s1 sh h1),
      f.published (enterState_published key .cancelled none s1 sh h1 hb hd),
      f.doorServed (enterState_doorServed_own h1 .cancelled none hb hd), showFrame_of a f m⟩
    · rw [f.holdSlot, cancelled_slot h1, hslot1]
      simp only [hi, true_and]
      exact cancelled_slot_match
    · rw [f.causeSet_eq]
      exact cancelled_raises h1 true none hi (by rw [hslot1, hu]) hk hp
    · have hv : ∀ u, u.seat = s1.seat → seatAtEntry key .cancelled u = u := fun u hu =>
        voidShow_unheld fun i hi => isOn_singleton_eq_false fun info life hil =>
          hnone i info life hi (by simpa [State.holdSlot, hu, a.seat] using hil)
      have hy2 := enterState_record h1 true .cancelled none hv
      refine ⟨Option.some.inj (hy.symm.trans hy2), ?_⟩
      rw [f.seat, enterState_seat h1, entered_seat_cancelled, ← a.seat]
      have hvoid : voidShow key (recomputeDoor (s1.modifyShow key (Show.entering .cancelled none)) sh.aud) = _ :=
        hv _ (by simp)
      rw [hvoid]
      rfl
    · rw [hnote] at hi
      exact isDelayOf_eq_false.mp (withdrawWhere_none hi)
    · rw [hnote, withdrawDelay, withdrawWhere_kept ((congrArg NoticeSlot.notice (hnote1 i)).trans hi)
        (isDelayOf_eq_false.mpr hne), hnote1]

/-- Settles O41: Open Sales and Cancel Show. -/
theorem salesOpenAndShowsCancel : Obligations.SalesOpenAndShowsCancel := fun h key s hs =>
  ⟨salesOpened h key s hs, showCancelled h key s hs⟩

/-! ### Remove Show -/

theorem findShow_dropShow (key k : Nat) (s : State) :
    (dropShow key s).findShow k = if k = key then none else s.findShow k := by
  simp only [dropShow, State.findShow, withShowList_shows]
  split
  · rename_i hk
    simp [hk]
  · rename_i hk
    exact find?_filter_of_imp _ _ _ fun x _ hx => by simp_all

theorem isLinkedTo_singleton {key : Nat} {n : Notice} : isLinkedTo [key] n = false ↔ n.linked ≠ some key := by
  unfold isLinkedTo
  cases n.linked <;> simp

/-- A show's record and its notices gone and its door chosen anew (R18). -/
def unlisted (key aud : Nat) (w : State) : State :=
  recomputeDoor (dropShow key (withdrawWhere (isLinkedTo [key]) w)) aud

/-- What Remove Show does to a show not in use (R18). -/
def removed (key aud : Nat) (w : State) : State := raiseAll .showChange (publishShow key [aud] (unlisted key aud w))

theorem removed_shows (key aud : Nat) (w : State) : (removed key aud w).shows = (unlisted key aud w).shows := by
  simp [removed]

theorem removed_board (key aud : Nat) (w : State) :
    (removed key aud w).board = (publishShow key [aud] (unlisted key aud w)).board := by
  simp [removed]

theorem findShow_unlisted (key aud k : Nat) (w : State) :
    (unlisted key aud w).findShow k = if k = key then none else w.findShow k := by
  show (dropShow key (withdrawWhere (isLinkedTo [key]) w)).findShow k = _
  rw [findShow_dropShow, findShow_congr (s := w) (by simp)]

theorem findShow_removed (key aud k : Nat) (w : State) :
    (removed key aud w).findShow k = if k = key then none else w.findShow k :=
  (findShow_congr (removed_shows key aud w) k).trans (findShow_unlisted key aud k w)

theorem framed_removed (key aud : Nat) (w : State) : Framed w (removed key aud w) :=
  (framed_withdraw _ w).trans ((framed_withShowList _ _).trans ((framed_recomputeDoor aud _).trans
    ((framed_publish key [aud] _).trans (framed_raiseAll _))))

theorem unlisted_images (key aud : Nat) (w : State) :
    (unlisted key aud w).board.doors.length = w.board.doors.length := by
  simp [unlisted, dropShow]

theorem removed_published (key aud : Nat) (w : State) (hb : w.board.doors.length = 16) :
    Published key (removed key aud w) :=
  published_congr (by simp [removed]) (removed_board key aud w)
    (publishShow_published key [aud] _ ((unlisted_images key aud w).trans hb) fun x hx => by
      rw [findShow_unlisted, if_pos rfl] at hx
      cases hx)

theorem removed_doorServed (key aud : Nat) (w : State) (hb : w.board.doors.length = 16)
    (hd : w.shows.doors.length = 16) : DoorServed aud (removed key aud w) := fun h1 h2 =>
  doorServed_congr (s := publishShow key [aud] (unlisted key aud w)) (by simp [removed]) (removed_board key aud w)
    (publishShow_doorServed ((unlisted_images key aud w).trans hb) (by simp)
      fun _ _ => recomputeDoor_chosen _ _ (by simpa [dropShow] using hd) h1 h2) h1 h2

/-- Settles O42: the record, the notices and the line go, the door is chosen anew. -/
theorem showsAreRemoved : Obligations.ShowsAreRemoved := by
  intro h key s hs
  refine TakenOrRefused.imp (takenOrRefused_show
    (tests := [((s.findShow key).any (fun sh => decide (0 < sh.committed)), .inUse)])
    (taken := fun sh => ∃ t, Takes (.removeShow h key) s h 36 (okWith []) t ∧ t.findShow key = none ∧
        (∀ k, k ≠ key → t.findShow k = s.findShow k) ∧ t.lineImage key = none ∧
        (∀ i n, (t.noticeSlot i).notice = some n → n.linked ≠ some key) ∧
        (∀ i n, (s.noticeSlot i).notice = some n → n.linked ≠ some key → t.noticeSlot i = s.noticeSlot i) ∧
        DoorServed sh.aud t ∧ t.seat = s.seat ∧ ShowChangeRaised t ∧ Published key t ∧ ShowFrame h.port s t)
    (removeShow key) (fun sh u => removed key sh.aud u) (fun _ => okWith []) rfl rfl (fun hn q => ?_)
    (fun sh hsh q => ?_) fun sh s1 t hsh hn a hx f => ?_) fun hn ht => ?_
  · have hf : (s.withPorts q).findShow key = none := hn
    simp [removeShow, hf]
  · have hf : (s.withPorts q).findShow key = some sh := hsh
    have hu : sh.inUse = decide (0 < sh.committed) := by
      rw [Bool.eq_iff_iff]
      simp [Show.inUse, Nat.pos_iff_ne_zero]
    simp only [removeShow, hf, hsh, tested, firstRefusal, Option.any_some, hu, deny]
    split <;> rfl
  · have hb : s1.board.doors.length = 16 := by rw [a.board]; exact hs.2.2.2.1
    have hd : s1.shows.doors.length = 16 := by rw [a.shows]; exact hs.2.1
    have hgone : ∀ k, t.findShow k = if k = key then none else s.findShow k := fun k => by
      rw [f.findShow, findShow_removed, a.findShow]
    have hnote1 : ∀ i, s1.noticeSlot i = s.noticeSlot i := noticeSlot_congr a.notice
    have hnote : ∀ i, t.noticeSlot i = (withdrawWhere (isLinkedTo [key]) s1).noticeSlot i := fun i =>
      (f.noticeSlot i).trans (noticeSlot_congr (by simp [removed, unlisted, dropShow]) i)
    have hpub := removed_published key sh.aud s1 hb
    refine ⟨t, ⟨hx, f.answered⟩, by rw [hgone, if_pos rfl], fun k hk => by rw [hgone, if_neg hk], ?_, fun i n hi => ?_,
      fun i n hi hne => ?_, f.doorServed (removed_doorServed key sh.aud s1 hb hd), ?_,
      f.showChange (raiseAll_sets _), f.published hpub,
      showFrame_of_framed a f (framed_removed key sh.aud s1)⟩
    · rw [f.lineImage, hpub.1, computeLine, findShow_removed, if_pos rfl]
    · rw [hnote] at hi
      exact isLinkedTo_singleton.mp (withdrawWhere_none hi)
    · rw [hnote, withdrawWhere_kept ((congrArg NoticeSlot.notice (hnote1 i)).trans hi) (isLinkedTo_singleton.mpr hne),
        hnote1]
    · rw [f.seat, ← a.seat]
      simp [removed, unlisted, dropShow]
  · cases hf : s.findShow key with
    | none => simp [firstRefusal, hf] at hn
    | some sh =>
      obtain ⟨t, h1, h2, h3, h4, h5, h6, hdoor, hrest⟩ := ht sh hf
      exact ⟨t, h1, h2, h3, h4, h5, h6, fun x hxs => Option.some.inj hxs ▸ hdoor, hrest⟩

end Sys2Proof.Machine

/-! ## Loading and amending shows (O39, O40) -/

namespace Sys2Proof.Machine

/-! ### A record whose availability stands as computed and no seat of which is held -/

/-- No seat is held and the availability is as computed: a void or a computation leaves the record as it is. -/
structure Show.Unheld (p : Policy) (x : Show) : Prop where
  held : ∀ z, (x.zone z).held = 0
  computed : x.compute p = x

theorem subHeld_unheld {p : Policy} {x : Show} (h : x.Unheld p) (z : Zone) (n : Nat) : subHeld z n x = x := by
  have hc : ∀ c : ZoneCounts, c.held = 0 → { c with held := c.held - n } = c := by
    rintro ⟨_, _, _, _⟩ rfl
    simp
  rw [subHeld, hc _ (h.held z)]
  cases z <;> rfl

theorem findShow_voidHold_unheld {key i : Nat} {p : Policy} {w : State} {x : Show} (h : w.findShow key = some x)
    (hx : x.Unheld p) : (voidHold i w).findShow key = some x := by
  unfold voidHold
  split
  · rename_i info life hu
    rw [findShow_congr (raise_frame _ _ _).2.2.1, endHold, hu]
    dsimp only
    by_cases hk : key = info.key
    · subst hk
      rw [findShow_modifyShow_same _ _ _ fun y => subHeld_key _ _ y]
      have hw : (w.withSeat (w.seat.release i .voided)).findShow info.key = some x := h
      rw [hw, Option.map_some, subHeld_unheld hx]
    · rw [findShow_modifyShow_other _ _ _ _ (fun y => subHeld_key _ _ y) hk]
      exact h
  · exact h

theorem findShow_voidShow_unheld {key : Nat} {w : State} {x : Show} (h : w.findShow key = some x)
    (hx : x.Unheld w.policy) : (voidShow key w).findShow key = some x := by
  unfold voidShow
  split
  · exact h
  · have hv : (voidHolds [key] w).findShow key = some x :=
      foldl_inv (fun t : State => t.findShow key = some x) _ (fun t i ht => findShow_voidHold_unheld ht hx) _ w h
    rw [computeShow, findShow_modifyShow_same _ _ _ fun y => compute_key _ y, hv, Option.map_some,
      (voidHolds_frame [key] w).2.2.2.2.2.2.2.2.2.1, hx.computed]

theorem Show.Unheld.entering {p : Policy} {x : Show} (h : x.Unheld p) (st : ShowState) (e : Option (StartedBy × Nat)) :
    (x.entering st e).Unheld p :=
  ⟨fun z => by
    rw [← h.held z]
    cases z <;> rfl, congrArg (Show.entering st e) h.computed⟩

/-- An entry changes an unheld record in state and started-by alone. -/
theorem enterState_unheld {key : Nat} {w : State} {x : Show} (h : w.findShow key = some x) (hx : x.Unheld w.policy)
    (b : Bool) (st : ShowState) (e : Option (StartedBy × Nat)) :
    (enterState b key st e w).findShow key = some (x.entering st e) := by
  rw [findShow_congr (enterState_shows h b st e), entered, findShow_congr (entered_shows_of key st _)]
  have h1 : (recomputeDoor (w.modifyShow key (Show.entering st e)) x.aud).findShow key = some (x.entering st e) := by
    show (w.modifyShow key (Show.entering st e)).findShow key = _
    rw [findShow_modifyShow_same w key (Show.entering st e) (fun _ => rfl), h]
    rfl
  unfold seatAtEntry
  split
  · exact findShow_voidShow_unheld h1 (hx.entering _ e)
  · exact findShow_voidShow_unheld h1 (hx.entering _ e)
  · exact h1

theorem Show.Unheld.advanced {p : Policy} {x : Show} (h : x.Unheld p) (q : Policy) (c : Clock) :
    (x.advanced q c).Unheld p := by
  unfold Show.advanced
  split
  · rename_i st e _
    exact h.entering st e
  · exact h

/-- An evaluation makes of an unheld record exactly what R11 says. -/
theorem evaluate_unheld {key : Nat} {w : State} {x : Show} (h : w.findShow key = some x) (hx : x.Unheld w.policy)
    (b : Bool) : (evaluate b key w).findShow key = some (x.evaluated w.policy w.shows.clock) := by
  have once : ∀ (v : State) (y : Show), v.policy = w.policy → v.shows.clock = w.shows.clock → v.findShow key = some y →
      y.Unheld w.policy → (evalOnce b key v).policy = w.policy ∧ (evalOnce b key v).shows.clock = w.shows.clock ∧
      (evalOnce b key v).findShow key = some (y.advanced w.policy w.shows.clock) ∧
      (y.advanced w.policy w.shows.clock).Unheld w.policy := by
    intro v y hp hc hy hu
    have m := moved_evalOnce b key v
    refine ⟨m.policy.trans hp, m.clock.trans hc, ?_, hu.advanced _ _⟩
    unfold evalOnce Show.advanced
    rw [hy, hp, hc]
    dsimp only
    split
    · exact enterState_unheld hy (hp ▸ hu) b _ _
    · exact hy
  obtain ⟨p1, c1, f1, u1⟩ := once w x rfl rfl h hx
  obtain ⟨p2, c2, f2, u2⟩ := once _ _ p1 c1 f1 u1
  obtain ⟨p3, c3, f3, u3⟩ := once _ _ p2 c2 f2 u2
  exact (once _ _ p3 c3 f3 u3).2.2.1

/-- The latch, once computed, stays as computed (R37). -/
theorem compute_compute (p : Policy) (x : Show) : (x.compute p).compute p = x.compute p := by
  have hl : ∀ o, latchStage p (latchStage p x.latch o) o = latchStage p x.latch o := fun o => by
    unfold latchStage
    cases x.latch <;> simp only [Bool.false_eq_true, if_true, if_false] <;> split <;>
      simp_all <;> omega
  show ({ x.compute p with
      latch := latchStage p (latchStage p x.latch (occupancy x)) (occupancy x),
      band := bandStage p (latchStage p (latchStage p x.latch (occupancy x)) (occupancy x)) x.available,
      figure := figureStage p x.available } : Show) = x.compute p
  rw [hl]
  rfl

theorem advanced_eq (p : Policy) (c : Clock) (x : Show) :
    x.advanced p c = { x with state := (x.advanced p c).state, started := (x.advanced p c).started } := by
  unfold Show.advanced
  split <;> rfl

/-- An evaluation changes a record in state and started-by alone. -/
theorem evaluated_eq (p : Policy) (c : Clock) (x : Show) :
    x.evaluated p c = { x with state := (x.evaluated p c).state, started := (x.evaluated p c).started } := by
  unfold Show.evaluated
  rw [advanced_eq p c (Show.advanced p c _), advanced_eq p c (Show.advanced p c (x.advanced p c)),
    advanced_eq p c (x.advanced p c), advanced_eq p c x]

/-! ### Publication whatever the auditoria's numbers -/

/-- Publication with the show's auditorium among those recomputed. -/
theorem publishShow_published_of {key : Nat} {auds : List Nat} {s : State} (hb : s.board.doors.length = 16)
    (hd : s.shows.doors.length = 16) (ha : ∀ sh, s.findShow key = some sh → sh.aud ∈ auds) :
    Published key (publishShow key auds s) := by
  have hs : (publishShow key auds s).shows = s.shows := by simp
  refine ⟨?_, fun sh hm hsib => ?_, fun sh hf h1 hdoor => ?_⟩
  · rw [publishShow_lines, if_pos (.inl rfl), computeLine_congr hs]
  · rw [publishShow_lines, if_pos (.inr (mem_siblingsOf (hs ▸ hm) hsib)), computeLine_congr hs]
  · rw [findShow_congr hs] at hf
    have hdoor' : s.doorShow sh.aud = some key := (doorShow_congr (by rw [hs]) _).symm.trans hdoor
    rw [publishShow_doorImage hb h1 (doorShow_range hd hdoor') (ha sh hf), computeDoor_congr hs]

/-! ### Load Show -/

theorem freeShowRecord_isNone (s : State) : s.freeShowRecord.isNone =
    (List.range (16 * s.shows.poolSplit)).all (fun r => s.shows.shows.any (fun x => x.record == r)) := by
  rw [Bool.eq_iff_iff, Option.isNone_iff_eq_none, State.freeShowRecord, List.find?_eq_none, List.all_eq_true]
  simp only [Bool.not_eq_true', Bool.not_eq_false, State.showAreaSize]

theorem freeShowRecord_some {s : State} {r : Nat} (h : s.freeShowRecord = some r) :
    r < 16 * s.shows.poolSplit ∧ (∀ x ∈ s.shows.shows, x.record ≠ r) ∧ ∀ r', r' < r → ∃ x ∈ s.shows.shows, x.record = r' := by
  obtain ⟨hf, hm, hb⟩ := List.find?_range_eq_some.mp h
  refine ⟨List.mem_range.mp hm, by simpa using hf, fun r' hr => by simpa using hb r' hr⟩

theorem if_some_congr {p : Prop} [Decidable p] {b : Bool} {c : Result} {x y : Option Result} (h : p ↔ b = true)
    (hxy : x = y) : (if p then some c else x) = if b then some c else y := if_congr h rfl hxy

section
variable (key day aud title start run delay : Nat) (caps : Nat × Nat × Nat) (hidden : Bool) (sibling : Option Nat)
  (sold withheld : Option Nat × Option Nat × Option Nat) (openNow : Bool) (s : State)

/-- The show a Load Show brings (R14). -/
def showLoaded : Show :=
  loadedShow (s.freeShowRecord.getD 0) key day aud title start run delay caps hidden sibling sold withheld openNow

theorem loadRefusal_eq : loadRefusal s
      (showLoaded key day aud title start run delay caps hidden sibling sold withheld openNow s) openNow =
    firstRefusal
      [(decide (key = 0 ∨ 6 < day ∨ aud = 0 ∨ 16 < aud ∨ 63 < title ∨ 1439 < start ∨ 1023 < caps.1 ∨
          1023 < caps.2.1 ∨ 1023 < caps.2.2 ∨ sibling = some 0 ∨ sibling = some key), .badArgument),
       (s.house.alert != .normal && decide (0 < sold.1.getD 0 + sold.2.1.getD 0 + sold.2.2.getD 0), .houseAlert),
       ((s.findShow key).isSome, .duplicate),
       (decide (caps.1 < sold.1.getD 0 + withheld.1.getD 0 ∨ caps.2.1 < sold.2.1.getD 0 + withheld.2.1.getD 0 ∨
          caps.2.2 < sold.2.2.getD 0 + withheld.2.2.getD 0), .belowCommitted),
       (openNow && decide (day = 0) && !s.shows.clock.valid, .clockNotSet),
       ((List.range (16 * s.shows.poolSplit)).all (fun r => s.shows.shows.any (fun x => x.record == r)), .tableFull)] := by
  unfold loadRefusal firstRefusal
  refine if_some_congr ?_ (if_some_congr ?_ (if_some_congr Iff.rfl (if_some_congr ?_ (if_some_congr ?_ (if_some_congr ?_
    rfl)))))
  · simp [showLoaded, loadedShow, initialCounts, siblingBad]
  · simp [showLoaded, loadedShow, initialCounts]
  · simp [showLoaded, loadedShow, initialCounts, overCommitted, ZoneCounts.committed, or_assoc]
  · simp [showLoaded, loadedShow, and_assoc]
  · rw [freeShowRecord_isNone]

theorem loadShow_owner (q : Ports) :
    loadShow key day aud title start run delay caps hidden sibling sold withheld openNow (s.withPorts q) =
      tested
        [(decide (key = 0 ∨ 6 < day ∨ aud = 0 ∨ 16 < aud ∨ 63 < title ∨ 1439 < start ∨ 1023 < caps.1 ∨
            1023 < caps.2.1 ∨ 1023 < caps.2.2 ∨ sibling = some 0 ∨ sibling = some key), .badArgument),
         (s.house.alert != .normal && decide (0 < sold.1.getD 0 + sold.2.1.getD 0 + sold.2.2.getD 0), .houseAlert),
         ((s.findShow key).isSome, .duplicate),
         (decide (caps.1 < sold.1.getD 0 + withheld.1.getD 0 ∨ caps.2.1 < sold.2.1.getD 0 + withheld.2.1.getD 0 ∨
            caps.2.2 < sold.2.2.getD 0 + withheld.2.2.getD 0), .belowCommitted),
         (openNow && decide (day = 0) && !s.shows.clock.valid, .clockNotSet),
         ((List.range (16 * s.shows.poolSplit)).all (fun r => s.shows.shows.any (fun x => x.record == r)), .tableFull)]
        (s.withPorts q)
        (createShow (showLoaded key day aud title start run delay caps hidden sibling sold withheld openNow s)
          (s.withPorts q),
          okMarked (clampTo 10 300 run != run || Nat.min delay (Nat.min 180 (1439 - start)) != delay) []) := by
  have he : loadRefusal (s.withPorts q)
      (showLoaded key day aud title start run delay caps hidden sibling sold withheld openNow s) openNow = _ :=
    loadRefusal_eq key day aud title start run delay caps hidden sibling sold withheld openNow s
  unfold loadShow tested
  rw [← he]
  rfl

end

/-- The show in the list, its availability computed and its door chosen (R14). -/
def listed (sh : Show) (w : State) : State :=
  recomputeDoor (computeShow sh.key
    (w.withShowList (insertBy (fun a b => decide (a.key < b.key)) sh w.shows.shows))) sh.aud

/-- The show listed and published, SHOW_CHANGE raised: what the evaluation of Load Show finds. -/
def announced (sh : Show) (w : State) : State := raiseAll .showChange (publishShow sh.key [sh.aud] (listed sh w))

theorem createShow_eq (sh : Show) (w : State) : createShow sh w = evaluate true sh.key (announced sh w) := rfl

theorem announced_shows (sh : Show) (w : State) : (announced sh w).shows = (listed sh w).shows := by simp [announced]
theorem announced_board (sh : Show) (w : State) :
    (announced sh w).board = (publishShow sh.key [sh.aud] (listed sh w)).board := by simp [announced]

theorem findShow_listed_same {sh : Show} {w : State} (h : w.findShow sh.key = none) :
    (listed sh w).findShow sh.key = some (sh.compute w.policy) := by
  have hi : (w.withShowList (insertBy (fun a b => decide (a.key < b.key)) sh w.shows.shows)).findShow sh.key = some sh :=
    find?_insertBy_self _ _ _ _ (by simp) (by simpa [State.findShow] using h)
  show (computeShow sh.key _).findShow sh.key = _
  rw [computeShow, findShow_modifyShow_same _ _ _ fun x => compute_key _ x, hi]
  rfl

theorem findShow_listed_other {sh : Show} {w : State} {k : Nat} (hk : k ≠ sh.key) :
    (listed sh w).findShow k = w.findShow k := by
  show (computeShow sh.key _).findShow k = _
  rw [computeShow, findShow_modifyShow_other _ _ _ _ (fun x => compute_key _ x) hk]
  exact find?_insertBy_of_not _ _ _ _ (by simpa using Ne.symm hk)

theorem framed_announced (sh : Show) (w : State) : Framed w (announced sh w) :=
  (framed_withShowList _ w).trans ((framed_modify _ _ _).trans ((framed_recomputeDoor sh.aud _).trans
    ((framed_publish sh.key [sh.aud] _).trans (framed_raiseAll _))))

theorem listed_lengths (sh : Show) (w : State) : (listed sh w).board.doors.length = w.board.doors.length ∧
    (listed sh w).shows.doors.length = w.shows.doors.length := by
  simp [listed, recomputeDoor, computeShow]

theorem announced_lengths (sh : Show) (w : State) : (announced sh w).board.doors.length = w.board.doors.length ∧
    (announced sh w).shows.doors.length = w.shows.doors.length := by
  rw [announced_board, announced_shows, publishShow_images]
  exact listed_lengths sh w

theorem announced_published {sh : Show} {w : State} (h : w.findShow sh.key = none) (hb : w.board.doors.length = 16)
    (hd : w.shows.doors.length = 16) : Published sh.key (announced sh w) := by
  obtain ⟨lb, ld⟩ := listed_lengths sh w
  refine published_congr (by simp [announced]) (announced_board sh w)
    (publishShow_published_of (lb.trans hb) (ld.trans hd) fun x hx => ?_)
  rw [findShow_listed_same h] at hx
  simp [← Option.some.inj hx, Show.compute]

theorem announced_doorServed (sh : Show) (w : State) (hb : w.board.doors.length = 16)
    (hd : w.shows.doors.length = 16) : DoorServed sh.aud (announced sh w) := fun h1 h2 =>
  doorServed_congr (s := publishShow sh.key [sh.aud] (listed sh w)) (by simp [announced]) (announced_board sh w)
    (publishShow_doorServed ((listed_lengths sh w).1.trans hb) (by simp)
      fun _ _ => recomputeDoor_chosen _ _ (by simpa [computeShow] using hd) h1 h2) h1 h2

/-- What Load Show makes: the record of R14, computed and evaluated. -/
theorem findShow_createShow_same {sh : Show} {w : State} (h : w.findShow sh.key = none) (hh : ∀ z, (sh.zone z).held = 0) :
    (createShow sh w).findShow sh.key = some ((sh.compute w.policy).evaluated w.policy w.shows.clock) := by
  have hf := framed_announced sh w
  have hrec : (announced sh w).findShow sh.key = some (sh.compute w.policy) :=
    (findShow_congr (announced_shows sh w) _).trans (findShow_listed_same h)
  have hu : (sh.compute w.policy).Unheld w.policy :=
    ⟨fun z => (by cases z <;> rfl : ((sh.compute w.policy).zone z).held = (sh.zone z).held).trans (hh z),
      compute_compute _ _⟩
  rw [createShow_eq, evaluate_unheld hrec (hf.policy.symm ▸ hu), hf.policy, hf.clock]

theorem findShow_createShow_other {sh : Show} {w : State} {k : Nat} (hk : k ≠ sh.key) :
    (createShow sh w).findShow k = w.findShow k := by
  rw [createShow_eq, (moved_evaluate true sh.key _).other k hk, findShow_congr (announced_shows sh w),
    findShow_listed_other hk]

/-- Settles O39: the record by what the evaluation makes of the show as listed, the rest by the frames of its steps. -/
theorem showsAreLoaded : Obligations.ShowsAreLoaded := by
  intro h key day aud title start run delay caps hidden sibling sold withheld openNow s hs
  refine takenOrRefused_of (loadShow key day aud title start run delay caps hidden sibling sold withheld openNow)
    (createShow (showLoaded key day aud title start run delay caps hidden sibling sold withheld openNow s)) _ rfl rfl
    (loadShow_owner key day aud title start run delay caps hidden sibling sold withheld openNow s)
    fun s1 t hn a hx f => ?_
  rw [firstRefusal_eq_none] at hn
  have hnew : s1.findShow key = none := by
    have := hn ((s.findShow key).isSome, .duplicate) (by simp)
    rw [a.findShow]
    simpa using this
  obtain ⟨r, hr⟩ : ∃ r, s.freeShowRecord = some r := by
    have hfull := hn (_, .tableFull) (.tail _ (.tail _ (.tail _ (.tail _ (.tail _ (.head _))))))
    rw [← freeShowRecord_isNone] at hfull
    exact Option.isSome_iff_exists.mp (by simpa using hfull)
  obtain ⟨hr1, hr2, hr3⟩ := freeShowRecord_some hr
  have hb : s1.board.doors.length = 16 := by rw [a.board]; exact hs.2.2.2.1
  have hd : s1.shows.doors.length = 16 := by rw [a.shows]; exact hs.2.1
  generalize hsh : showLoaded key day aud title start run delay caps hidden sibling sold withheld openNow s = sh at f
  have hk : sh.key = key := by rw [← hsh]; rfl
  have haud : sh.aud = aud := by rw [← hsh]; rfl
  have hrecord : sh.record = r := by simp [← hsh, showLoaded, loadedShow, hr]
  have hy : (createShow sh s1).findShow sh.key = some ((sh.compute s1.policy).evaluated s1.policy s1.shows.clock) :=
    findShow_createShow_same (sh := sh) (w := s1) (by rw [hk, hnew]) (fun z => by rw [← hsh]; cases z <;> rfl)
  have hframe : Framed s1 (createShow sh s1) := (framed_announced sh s1).trans (moved_evaluate true sh.key _).framed
  obtain ⟨lb, ld⟩ := announced_lengths sh s1
  have hdue := evaluate_settles true sh.key (announced sh s1) _ hy
  change dueTransition (createShow sh s1).policy (createShow sh s1).shows.clock _ = none at hdue
  have hpub : Published sh.key (createShow sh s1) := evaluate_published sh.key _ (lb.trans hb) (ld.trans hd) (announced_published (by rw [hk, hnew]) hb hd)
  have hrec0 : (announced sh s1).findShow sh.key = some (sh.compute s1.policy) :=
    (findShow_congr (announced_shows sh s1) _).trans (findShow_listed_same (by rw [hk, hnew]))
  have hdoor : DoorServed sh.aud (createShow sh s1) :=
    evaluate_doorServed_own (sh := sh.compute s1.policy) hrec0 (lb.trans hb) (ld.trans hd) (announced_doorServed sh s1 hb hd)
  have hraise : ShowChangeRaised (createShow sh s1) := evaluate_raised true sh.key _ (raiseAll_sets _)
  have hact : openNow = true → ((sh.compute s1.policy).evaluated s1.policy s1.shows.clock).state ≠ .loaded ∧
      ((sh.compute s1.policy).evaluated s1.policy s1.shows.clock).state ≠ .cancelled := fun ho =>
    evaluated_active (by simp [← hsh, showLoaded, loadedShow, Show.compute, ho])
  have hquiet : openNow = false → (sh.compute s1.policy).evaluated s1.policy s1.shows.clock = sh.compute s1.policy :=
    fun ho => evaluated_of_none (by simp [dueTransition, ← hsh, showLoaded, loadedShow, Show.compute, ho])
  have hform := evaluated_eq s1.policy s1.shows.clock (sh.compute s1.policy)
  rw [hk] at hy hpub
  rw [haud] at hdoor
  have hrec := (congrArg Show.record hform).trans hrecord
  generalize (sh.compute s1.policy).evaluated s1.policy s1.shows.clock = y at *
  refine ⟨t, y, ⟨hx, f.answered⟩, (f.findShow key).trans hy,
    fun k hne => by rw [f.findShow, findShow_createShow_other (hk ▸ hne), a.findShow], ?_, ?_, ?_, ?_, ?_, ?_, ?_, ?_, ?_, ?_,
    ?_, ?_, ?_, ?_, ?_, fun ho => ?_, hact, f.due hdue, f.showChange hraise, f.published hpub, f.doorServed hdoor,
    showFrame_of_framed a f hframe⟩
  case refine_1 => rw [hrec]; exact hr1
  case refine_2 => rw [hrec]; exact hr2
  case refine_3 => rw [hrec]; exact hr3
  case refine_15 =>
    rw [hform, ← a.policy]
    rintro z rfl
    have hl : sh.latch = false := by rw [← hsh]; rfl
    simp [Show.compute, hl, occupancy, Show.capacity, Show.committed, Show.available]
  case refine_16 =>
    rw [hquiet ho, ← hsh]
    simp [showLoaded, loadedShow, Show.compute, ho]
  all_goals
    rw [hform, ← hsh]
    rfl

/-! ### Amend Show -/

/-- The show amended and the doors of both auditoria chosen anew (R15, R20). -/
def rewritten (key : Nat) (auds : List Nat) (x : Show) (w : State) : State :=
  recomputeDoors auds (w.modifyShow key (fun _ => x))

theorem modifyShow_const (w : State) {key : Nat} {x : Show} (hx : x.key = key) :
    w.modifyShow key (fun _ => x) = w.modifyShow key (fun y => { x with key := y.key }) := by
  simp only [State.modifyShow, updateShows]
  congr 2
  refine List.map_congr_left fun y _ => ?_
  split
  · rename_i hy
    rw [hy, ← hx]
  · rfl

theorem findShow_modifyShow_const {w : State} {key : Nat} {sh x : Show} (h : w.findShow key = some sh)
    (hx : x.key = key) (k : Nat) :
    (w.modifyShow key (fun _ => x)).findShow k = if k = key then some x else w.findShow k := by
  rw [modifyShow_const w hx]
  split
  · rename_i hk
    subst hk
    rw [findShow_modifyShow_same w _ (fun y => { x with key := y.key }) (fun _ => rfl), h, Option.map_some,
      findShow_key h, ← hx]
  · rename_i hk
    exact findShow_modifyShow_other w key k (fun y => { x with key := y.key }) (fun _ => rfl) hk

theorem framed_recomputeDoors (auds : List Nat) (w : State) : Framed w (recomputeDoors auds w) :=
  foldl_inv (Framed w) recomputeDoor (fun u a hu => hu.trans (framed_recomputeDoor a u)) auds w (Framed.refl w)

theorem recomputeDoors_length (auds : List Nat) (w : State) :
    (recomputeDoors auds w).shows.doors.length = w.shows.doors.length :=
  foldl_keep (fun t : State => t.shows.doors.length) recomputeDoor (fun s a => by simp [recomputeDoor]) auds w

theorem recomputeDoors_shows (auds : List Nat) (w : State) : (recomputeDoors auds w).shows.shows = w.shows.shows :=
  foldl_keep (fun t : State => t.shows.shows) recomputeDoor (fun _ _ => rfl) auds w

/-- Of two auditoria, the one chosen first stays chosen when the other is chosen anew. -/
theorem recomputeDoor_keeps {w : State} {a b : Nat} (hb : 1 ≤ b) (ha : 1 ≤ a) (hne : a ≠ b) (h : DoorChosen a w) :
    DoorChosen a (recomputeDoor w b) :=
  doorChosen_congr (recomputeDoor_other hb ha hne) rfl h

/-- Both auditoria of an amendment are chosen anew (R15). -/
theorem recomputeDoors_audsOf {w : State} {a b c : Nat} (hd : w.shows.doors.length = 16) (hc : c = a ∨ c = b)
    (h1 : 1 ≤ c) (h2 : c ≤ 16) : DoorChosen c (recomputeDoors (audsOf a b) w) := by
  have last : ∀ u, u.shows.doors.length = 16 → DoorChosen c (recomputeDoor u c) := fun u hu =>
    recomputeDoor_chosen u c hu h1 h2
  have first : ∀ v, c < v → DoorChosen c (recomputeDoor (recomputeDoor w c) v) := fun v hv =>
    recomputeDoor_keeps (by omega) h1 (by omega) (last w hd)
  have second : ∀ u, DoorChosen c (recomputeDoor (recomputeDoor w u) c) := fun u => last _ (by simp [recomputeDoor, hd])
  unfold audsOf recomputeDoors
  split
  · subst_vars
    obtain rfl := hc.elim id id
    exact last w hd
  · split
    · rcases hc with rfl | rfl
      · exact first b ‹_›
      · exact second a
    · rcases hc with rfl | rfl
      · exact second b
      · exact first a (by omega)

theorem mem_audsOf {a b c : Nat} : c ∈ audsOf a b ↔ c = a ∨ c = b := by
  unfold audsOf
  split
  · subst_vars
    simp
  · split <;> simp [or_comm]

/-- The show amended, its doors chosen anew and all of it published: what the evaluation of Amend Show finds. -/
def reprinted (key : Nat) (auds : List Nat) (x : Show) (w : State) : State :=
  publishShow key auds (rewritten key auds x w)

theorem reprinted_shows (key : Nat) (auds : List Nat) (x : Show) (w : State) :
    (reprinted key auds x w).shows = (rewritten key auds x w).shows := by simp [reprinted]

theorem framed_reprinted (key : Nat) (auds : List Nat) (x : Show) (w : State) : Framed w (reprinted key auds x w) :=
  (framed_modify key _ w).trans ((framed_recomputeDoors auds _).trans (framed_publish key auds _))

theorem findShow_reprinted {key : Nat} {w : State} {sh x : Show} (h : w.findShow key = some sh) (hx : x.key = key)
    (auds : List Nat) (k : Nat) : (reprinted key auds x w).findShow k = if k = key then some x else w.findShow k := by
  rw [findShow_congr (reprinted_shows key auds x w), ← findShow_modifyShow_const h hx]
  simp only [State.findShow, rewritten, recomputeDoors_shows]

theorem rewritten_lengths (key : Nat) (auds : List Nat) (x : Show) (w : State) :
    (rewritten key auds x w).board.doors.length = w.board.doors.length ∧
    (rewritten key auds x w).shows.doors.length = w.shows.doors.length := by
  simp [rewritten, recomputeDoors_length]

theorem reprinted_lengths (key : Nat) (auds : List Nat) (x : Show) (w : State) :
    (reprinted key auds x w).board.doors.length = w.board.doors.length ∧
    (reprinted key auds x w).shows.doors.length = w.shows.doors.length := by
  rw [reprinted_shows, reprinted, publishShow_images]
  exact rewritten_lengths key auds x w

theorem reprinted_published {key a : Nat} {w : State} {sh x : Show} (h : w.findShow key = some sh) (hx : x.key = key)
    (hb : w.board.doors.length = 16) (hd : w.shows.doors.length = 16) :
    Published key (reprinted key (audsOf a x.aud) x w) := by
  obtain ⟨lb, ld⟩ := rewritten_lengths key (audsOf a x.aud) x w
  refine publishShow_published_of (lb.trans hb) (ld.trans hd) fun y hy => ?_
  rw [← findShow_congr (reprinted_shows key (audsOf a x.aud) x w), findShow_reprinted h hx, if_pos rfl] at hy
  rw [← Option.some.inj hy]
  exact mem_audsOf.mpr (.inr rfl)

theorem reprinted_doorServed {key a b c : Nat} {w : State} (x : Show) (hb : w.board.doors.length = 16)
    (hd : w.shows.doors.length = 16) (hc : c = a ∨ c = b) : DoorServed c (reprinted key (audsOf a b) x w) :=
  publishShow_doorServed ((rewritten_lengths key _ x w).1.trans hb) (mem_audsOf.mpr hc)
    fun h1 h2 => recomputeDoors_audsOf (by simpa using hd) hc h1 h2

/-- Every record of the key is the one amended. -/
theorem mem_reprinted {key : Nat} {auds : List Nat} {x y : Show} {w : State}
    (hy : y ∈ (reprinted key auds x w).shows.shows) (hk : y.key = key) : y = x := by
  rw [reprinted_shows, rewritten, recomputeDoors_shows, modifyShow_shows] at hy
  obtain ⟨z, _, rfl⟩ := List.mem_map.mp hy
  split at hk
  · rw [if_pos ‹_›]
  · contradiction

section
variable (key : Nat) (start run aud title : Option Nat) (sibling : Option (Option Nat)) (hidden : Option Bool)

/-- What Amend Show does to a show that it takes (R15). -/
def amendAct (sh : Show) (u : State) : State :=
  let x := amended sh start run aud title sibling hidden
  let v := reprinted key (audsOf sh.aud x.aud) x u
  if x.start = sh.start ∧ x.run = sh.run then v else evaluate true key v

theorem siblingBad_iff : siblingBad key (sibling.getD none) = true ↔
    sibling = some (some 0) ∨ sibling = some (some key) := by
  cases sibling <;> simp [siblingBad]

theorem pastAmending_eq (st : ShowState) :
    st.pastAmending = (st == .running || st == .closed || st == .ended || st == .cancelled) := by
  cases st <;> rfl

theorem amendShow_owner (s : State) {sh : Show} (h : s.findShow key = some sh) (q : Ports) :
    amendShow key start run aud title sibling hidden (s.withPorts q) =
      tested [((s.findShow key).any (fun sh =>
          sh.state == .running || sh.state == .closed || sh.state == .ended || sh.state == .cancelled), .notAmendable),
        ((s.findShow key).any (fun sh => decide (aud.getD sh.aud = 0 ∨ 16 < aud.getD sh.aud ∨ 63 < title.getD sh.title ∨
          1439 < start.getD sh.start ∨ sibling = some (some 0) ∨ sibling = some (some key))), .badArgument)]
        (s.withPorts q)
        (amendAct key start run aud title sibling hidden sh (s.withPorts q),
          okMarked (run.getD sh.run != (amended sh start run aud title sibling hidden).run ||
            (amended sh start run aud title sibling hidden).delay != sh.delay) []) := by
  have hf : (s.withPorts q).findShow key = some sh := h
  simp only [amendShow, hf, h, tested, firstRefusal, Option.any_some, pastAmending_eq, siblingBad_iff, amended, decide_eq_true_eq, deny]
  split
  · rfl
  · split <;> rfl

end

/-- What an amendment leaves: the record, evaluated when its times changed, its line and its doors (R15). -/
structure Amends (key : Nat) (sh x : Show) (w u : State) (y : Show) : Prop where
  record : u.findShow key = some y
  other : ∀ k, k ≠ key → u.findShow k = w.findShow k
  same : SameShow x y
  untimed : x.start = sh.start → x.run = sh.run → y = x
  timed : x.start ≠ sh.start ∨ x.run ≠ sh.run → dueTransition u.policy u.shows.clock y = none ∧
    (dueTransition w.policy w.shows.clock x = none → y = x)
  published : Published key u
  left : DoorServed sh.aud u
  entered : DoorServed x.aud u
  framed : Framed w u

theorem amendAct_amends {key : Nat} {start run aud title : Option Nat} {sibling : Option (Option Nat)}
    {hidden : Option Bool} {w : State} {sh x : Show} (h : w.findShow key = some sh)
    (hx : amended sh start run aud title sibling hidden = x) (hr : 1 ≤ x.aud ∧ x.aud ≤ 16)
    (hb : w.board.doors.length = 16) (hd : w.shows.doors.length = 16) :
    ∃ y, Amends key sh x w (amendAct key start run aud title sibling hidden sh w) y := by
  have hxk : x.key = key := by rw [← hx]; exact findShow_key (s := w) (sh := sh) h
  have hfind := findShow_reprinted h hxk (audsOf sh.aud x.aud)
  have hrec := (hfind key).trans (if_pos rfl)
  have hpub := reprinted_published (a := sh.aud) h hxk hb hd
  have hdoor : ∀ c, c = sh.aud ∨ c = x.aud → DoorServed c (reprinted key (audsOf sh.aud x.aud) x w) := fun c hc =>
    reprinted_doorServed x hb hd hc
  have hframe := framed_reprinted key (audsOf sh.aud x.aud) x w
  have hall := fun y => mem_reprinted (key := key) (auds := audsOf sh.aud x.aud) (x := x) (w := w) (y := y)
  obtain ⟨lb, ld⟩ := reprinted_lengths key (audsOf sh.aud x.aud) x w
  simp only [amendAct, hx]
  generalize reprinted key (audsOf sh.aud x.aud) x w = v at *
  have hother : ∀ k, k ≠ key → v.findShow k = w.findShow k := fun k hk => (hfind k).trans (if_neg hk)
  split
  · rename_i heq
    exact ⟨x, hrec, hother, SameShow.refl x, fun _ _ => rfl, fun hne => absurd heq (by tauto), hpub, hdoor _ (.inl rfl),
      hdoor _ (.inr rfl), hframe⟩
  · rename_i hne
    have m := moved_evaluate true key v
    obtain ⟨y, hy, hsame⟩ := m.same x hrec
    have hfix : dueTransition w.policy w.shows.clock x = none → y = x := fun hdue => by
      rw [evaluate_fixed true key v fun z hz => by
        rw [← Option.some.inj (hrec.symm.trans hz), hframe.policy, hframe.clock, hdue], hrec] at hy
      exact (Option.some.inj hy).symm
    have hown : DoorServed x.aud (evaluate true key v) :=
      evaluate_doorServed_own hrec (lb.trans hb) (ld.trans hd) (hdoor _ (.inr rfl))
    refine ⟨y, hy, fun k hk => (m.other k hk).trans (hother k hk), hsame, fun h1 h2 => absurd ⟨h1, h2⟩ hne,
      fun _ => ⟨evaluate_settles true key v y hy, hfix⟩,
      evaluate_published key v (lb.trans hb) (ld.trans hd) hpub, ?_, hown, hframe.trans m.framed⟩
    by_cases ha : x.aud = sh.aud
    · exact ha ▸ hown
    · exact evaluate_doorServed_other (lb.trans hb) (fun z hz hzk => hall z hz hzk ▸ ⟨ha, hr⟩) (hdoor _ (.inl rfl))

/-- Settles O40: the record rewritten and published with both doors, then evaluated when its times changed. -/
theorem showsAreAmended : Obligations.ShowsAreAmended := by
  intro h key start run aud title sibling hidden s hs
  refine takenOrRefused_show (amendShow key start run aud title sibling hidden)
    (amendAct key start run aud title sibling hidden) _ rfl rfl (fun hn q => ?_)
    (fun sh hsh q => amendShow_owner key start run aud title sibling hidden s hsh q)
    fun sh s1 t hsh hn a hx f => ?_
  · have hf : (s.withPorts q).findShow key = none := hn
    simp [amendShow, hf]
  · have hb : s1.board.doors.length = 16 := by rw [a.board]; exact hs.2.2.2.1
    have hd : s1.shows.doors.length = 16 := by rw [a.shows]; exact hs.2.1
    have hr : 1 ≤ aud.getD sh.aud ∧ aud.getD sh.aud ≤ 16 := by
      have := firstRefusal_eq_none.mp hn _ (.tail _ (.head _))
      simp only [hsh, Option.any_some, decide_eq_false_iff_not] at this
      omega
    obtain ⟨y, hm⟩ := amendAct_amends ((a.findShow key).trans hsh) rfl hr hb hd
    have hform := hm.same.record
    refine ⟨t, y, _, rfl, ⟨hx, f.answered⟩, (f.findShow key).trans hm.record,
      fun k hk => by rw [f.findShow, hm.other k hk, a.findShow], hm.untimed,
      fun hne => ⟨f.due (hm.timed hne).1, fun hdue => (hm.timed hne).2 (by rw [a.policy, a.shows]; exact hdue)⟩,
      ?_, ?_, ?_, ?_, ?_, ?_, ?_, ?_, hm.same.counts, f.published hm.published, f.doorServed hm.left, ?_,
      showFrame_of_framed a f hm.framed⟩
    case refine_9 =>
      rw [hform]
      exact f.doorServed hm.entered
    all_goals
      rw [hform]
      rfl

end Sys2Proof.Machine

/-! ## Lines served and every show evaluated (R12, R84) -/

namespace Sys2Proof.Machine

/-! ### Lines that stand as computed -/

/-- The image of a key's line is what the Board Builder computes (R84). -/
def LineServed (k : Nat) (s : State) : Prop := s.lineImage k = computeLine s k

theorem lineImage_congr {s t : State} (h : t.board = s.board) (k : Nat) : t.lineImage k = s.lineImage k := by
  simp [State.lineImage, h]

theorem lineServed_congr {k : Nat} {s t : State} (hs : t.shows = s.shows) (hb : t.board = s.board)
    (h : LineServed k s) : LineServed k t := by
  rw [LineServed, lineImage_congr hb, computeLine_congr hs, h]

/-- A line reads its own show, the show it names as sibling, and the clock. -/
theorem computeLine_of_others {key k : Nat} {s t : State} (hc : t.shows.clock = s.shows.clock)
    (ho : ∀ j, j ≠ key → t.findShow j = s.findShow j) (hk : k ≠ key) (hn : k ∉ siblingsOf t key) :
    computeLine t k = computeLine s k := by
  unfold computeLine
  rw [hc, ← ho k hk]
  cases hf : t.findShow k with
  | none => rfl
  | some sh =>
    have hsib : sh.sibling ≠ some key := fun he => hn (findShow_key hf ▸ mem_siblingsOf (findShow_mem hf) he)
    have hbind : sh.sibling.bind t.findShow = sh.sibling.bind s.findShow := by
      cases hs : sh.sibling with
      | none => rfl
      | some j => exact ho j fun he => hsib (by rw [hs, he])
    simp only [boardLineOf, hintOf, hbind]

/-- Publication of the one show that changed serves its line and keeps every line served. -/
theorem publishShow_lineServed {key k : Nat} {auds : List Nat} {w u : State} (hb : u.board = w.board)
    (hc : u.shows.clock = w.shows.clock) (ho : ∀ j, j ≠ key → u.findShow j = w.findShow j)
    (h : k = key ∨ LineServed k w) : LineServed k (publishShow key auds u) := by
  rw [LineServed, publishShow_lines, computeLine_congr (t := publishShow key auds u) (s := u) (by simp)]
  split
  · rfl
  · rename_i hn
    obtain ⟨hk, hsib⟩ := not_or.mp hn
    rw [lineImage_congr hb, h.resolve_left hk, computeLine_of_others hc ho hk hsib]

theorem entered_board (key aud : Nat) (st : ShowState) (e : Option (StartedBy × Nat)) (w : State) :
    (entered key aud st e w).board = w.board := by
  simp [entered]

/-- An entry serves the line of its show and keeps every line served (R13, R84). -/
theorem enterState_lineServed {key k : Nat} {w : State} {sh : Show} (h : w.findShow key = some sh) (st : ShowState)
    (e : Option (StartedBy × Nat)) (hk : k = key ∨ LineServed k w) : LineServed k (enterState true key st e w) := by
  have m := moved_entered key sh.aud st e w
  refine lineServed_congr (s := publishShow key [sh.aud] (entered key sh.aud st e w)) ?_ ?_
    (publishShow_lineServed (entered_board key sh.aud st e w) m.clock m.other hk)
  · rw [enterState_eq h, if_pos rfl]
    simp
  · rw [enterState_eq h, if_pos rfl]
    simp

theorem evaluate_lineServed {key k : Nat} {w : State} (h : LineServed k w) : LineServed k (evaluate true key w) :=
  evaluate_inv (LineServed k) (fun st e v hv => by
    cases hf : v.findShow key with
    | none => rwa [enterState_absent hf]
    | some sh => exact enterState_lineServed hf st e (.inr hv)) h

theorem evaluateKeys_lineServed {keys : List Nat} {k : Nat} {w : State} (h : LineServed k w) :
    LineServed k (evaluateKeys true keys w) :=
  foldl_inv (LineServed k) _ (fun _ _ hv => evaluate_lineServed hv) keys w h

/-! ### Every show evaluated -/

/-- The show of a key, if loaded, has no transition due (R11). -/
def Settled (k : Nat) (s : State) : Prop := ∀ x, s.findShow k = some x → dueTransition s.policy s.shows.clock x = none

theorem settled_congr {k : Nat} {s t : State} (hs : t.shows = s.shows) (hp : t.policy = s.policy) (h : Settled k s) :
    Settled k t := fun x hx => by
  rw [hs, hp]
  exact h x (findShow_congr hs k ▸ hx)

theorem evaluate_settled {b : Bool} {key k : Nat} {w : State} (h : k = key ∨ Settled k w) :
    Settled k (evaluate b key w) := by
  have m := moved_evaluate b key w
  by_cases hk : k = key
  · subst hk
    exact fun y hy => evaluate_settles b k w y hy
  · intro x hx
    rw [m.policy, m.clock]
    exact h.resolve_left hk x (m.other k hk ▸ hx)

theorem evaluateKeys_settled {b : Bool} {keys : List Nat} {k : Nat} {w : State} (h : k ∈ keys ∨ Settled k w) :
    Settled k (evaluateKeys b keys w) := by
  have fold : ∀ (l : List Nat) (v : State), k ∈ l ∨ Settled k v → Settled k (evaluateKeys b l v) := fun l => by
    induction l with
    | nil => exact fun v hv => hv.resolve_left (by simp)
    | cons j l ih =>
      refine fun v hv => ih (evaluate b j v) ?_
      rcases hv with hm | hv
      · exact (List.mem_cons.mp hm).elim (fun he => .inr (evaluate_settled (.inl he))) .inl
      · exact .inr (evaluate_settled (.inr hv))
  exact fold keys w h

theorem evaluateKeys_framed (b : Bool) (keys : List Nat) (w : State) : Framed w (evaluateKeys b keys w) :=
  foldl_inv (Framed w) _ (fun u k hu => hu.trans (moved_evaluate b k u).framed) keys w (Framed.refl w)

theorem evaluateKeys_showKeys (b : Bool) (keys : List Nat) (w : State) :
    (evaluateKeys b keys w).showKeys = w.showKeys :=
  foldl_keep State.showKeys _ (fun u k => (moved_evaluate b k u).keys) keys w

theorem mem_showKeys {s : State} {x : Show} (h : x ∈ s.shows.shows) : x.key ∈ s.showKeys := List.mem_map.mpr ⟨x, h, rfl⟩

theorem showKeys_pairwise {s : State} : s.showKeys.Pairwise (· < ·) ↔ s.shows.shows.Pairwise (fun a b => a.key < b.key) :=
  List.pairwise_map

/-- Keys in order stay in order where the keys are the same. -/
theorem pairwise_of_showKeys {s t : State} (h : t.showKeys = s.showKeys)
    (hs : s.shows.shows.Pairwise (fun a b => a.key < b.key)) : t.shows.shows.Pairwise (fun a b => a.key < b.key) :=
  showKeys_pairwise.mp (h ▸ showKeys_pairwise.mpr hs)

/-- Nothing is due when every loaded key is settled. -/
theorem settled_all {s : State} (hp : s.shows.shows.Pairwise (fun a b => a.key < b.key))
    (h : ∀ k ∈ s.showKeys, Settled k s) : ∀ sh ∈ s.shows.shows, dueTransition s.policy s.shows.clock sh = none :=
  fun sh hm => h sh.key (mem_showKeys hm) sh (findShow_of_mem hp hm)

/-- The evaluation of every loaded show leaves none with a transition due (R12). -/
theorem evaluateAll_settled (w : State) : ∀ k ∈ (evaluateAll w).showKeys, Settled k (evaluateAll w) := fun k hk =>
  evaluateKeys_settled (.inl (by rwa [evaluateAll, evaluateKeys_showKeys] at hk))

end Sys2Proof.Machine

/-! ## Set Policy (O58) -/

namespace Sys2Proof.Machine

/-! ### Settings written (R207) -/

theorem value_write_same (p : Policy) {i v : Nat} (hi : i ≤ 16) (hv : i = 15 → v ≤ 1) : (p.write i v).value i = v := by
  by_cases h15 : i = 15
  · subst h15
    obtain rfl | rfl : v = 0 ∨ v = 1 := by have := hv rfl; omega
    · rfl
    · rfl
  · interval_cases i <;> trivial

theorem value_write_other (p : Policy) {i j : Nat} (v : Nat) (hi : i ≤ 16) (hj : j ≤ 16) (h : j ≠ i) :
    (p.write i v).value j = p.value j := by
  interval_cases i <;> interval_cases j <;> trivial

theorem settingRange_isNone (i : Nat) : (settingRange i).isNone = decide (16 < i) := by
  by_cases h : 16 < i
  · obtain ⟨n, rfl⟩ : ∃ n, i = n + 17 := ⟨i - 17, by omega⟩
    simp [settingRange]
  · interval_cases i <;> rfl

/-- Every setting has a range; the one of chime_enable is 0 and 1. -/
theorem settingRange_of_le {i : Nat} (h : i ≤ 16) : ∃ r, settingRange i = some r ∧ (i = 15 → r = (0, 1)) := by
  have hs : (settingRange i).isSome := by
    rw [← Option.not_isNone, settingRange_isNone]
    simpa using h
  obtain ⟨r, hr⟩ := Option.isSome_iff_exists.mp hs
  exact ⟨r, hr, fun h15 => by subst h15; exact (Option.some.inj hr).symm⟩

theorem clampSetting_of_range {x : Nat × Nat} {r : Nat × Nat} (h : settingRange x.1 = some r) :
    clampSetting x = (x.1, clampTo r.1 r.2 x.2) := by
  simp [clampSetting, h]

theorem lookup_cons_ne {i : Nat} {x : Nat × Nat} (h : i ≠ x.1) (l : List (Nat × Nat)) :
    (x :: l).lookup i = l.lookup i := by
  rw [List.lookup_cons, beq_eq_false_iff_ne.mpr h]

theorem lookup_of_mem {l : List (Nat × Nat)} {x : Nat × Nat} (hn : (l.map (·.1)).Nodup) (hx : x ∈ l) :
    l.lookup x.1 = some x.2 := by
  induction l with
  | nil => cases hx
  | cons y l ih =>
    obtain ⟨hy, hn⟩ := List.nodup_cons.mp hn
    rcases List.mem_cons.mp hx with rfl | hx
    · exact List.lookup_cons_self
    · rw [lookup_cons_ne (fun he => hy (List.mem_map.mpr ⟨x, hx, he⟩)), ih hn hx]

theorem lookup_of_not_mem {l : List (Nat × Nat)} {i : Nat} (h : i ∉ l.map (·.1)) : l.lookup i = none :=
  List.lookup_eq_none_iff.mpr fun x hx => bne_iff_ne.mpr fun he => h (List.mem_map.mpr ⟨x, hx, he.symm⟩)

theorem settingAfter_of_mem {p : Policy} {l : List (Nat × Nat)} {x : Nat × Nat} (hn : (l.map (·.1)).Nodup)
    (hx : x ∈ l) (hr : x.1 ≤ 16) : clampSetting x = (x.1, settingAfter p l x.1) := by
  obtain ⟨r, hr, _⟩ := settingRange_of_le hr
  rw [clampSetting_of_range hr, settingAfter, lookup_of_mem hn hx, hr]

theorem settingAfter_of_not_mem {p : Policy} {l : List (Nat × Nat)} {i : Nat} (h : i ∉ l.map (·.1)) :
    settingAfter p l i = p.value i := by
  rw [settingAfter, lookup_of_not_mem h]

/-- The carried settings written, one after the other, are the values R207 says, each setting carried once. -/
theorem value_writeSettings {l : List (Nat × Nat)} {i : Nat} (hn : (l.map (·.1)).Nodup) (hl : ∀ x ∈ l, x.1 ≤ 16)
    (hi : i ≤ 16) (p : Policy) : (writeSettings p l).value i = settingAfter p l i := by
  induction l generalizing p with
  | nil => rfl
  | cons x l ih =>
    obtain ⟨hx, hn⟩ := List.nodup_cons.mp hn
    obtain ⟨r, hr, h15⟩ := settingRange_of_le (hl x (.head _))
    have hle : x.1 = 15 → clampTo r.1 r.2 x.2 ≤ 1 := fun h => by
      rw [h15 h]
      show (if x.2 < 0 then 0 else if 1 < x.2 then 1 else x.2) ≤ 1
      split <;> [omega; split <;> omega]
    show (writeSettings (p.write (clampSetting x).1 (clampSetting x).2) l).value i = _
    rw [ih hn (fun y hy => hl y (.tail _ hy)), clampSetting_of_range hr]
    by_cases he : i = x.1
    · subst he
      rw [settingAfter_of_not_mem hx, value_write_same p hi hle, settingAfter, List.lookup_cons_self, hr]
    · simp only [settingAfter, lookup_cons_ne he, value_write_other p _ (hl x (.head _)) hi he]

theorem settingsBad_eq (l : List (Nat × Nat)) : settingsBad l =
    (decide (l = []) || l.any (fun x => decide (16 < x.1)) || !decide ((l.map (·.1)).Nodup) ||
      l.any (fun x => decide (x.1 = 15) && decide (1 < x.2))) := by
  have he : l.isEmpty = decide (l = []) := by cases l <;> rfl
  simp only [settingsBad, he, settingRange_isNone]
  rfl

theorem settingsBad_eq_false {l : List (Nat × Nat)} (h : settingsBad l = false) :
    (l.map (·.1)).Nodup ∧ ∀ x ∈ l, x.1 ≤ 16 := by
  simp only [settingsBad_eq, Bool.or_eq_false_iff, List.any_eq_false, Bool.not_eq_false', decide_eq_true_eq,
    Nat.not_lt] at h
  exact ⟨h.1.2, h.1.1.2⟩

/-! ### Every show's availability computed (R42) -/

/-- The line of a key stands as computed, and its door line where it is the door show of its auditorium. -/
def Served (k : Nat) (s : State) : Prop :=
  LineServed k s ∧
  ∀ sh, s.findShow k = some sh → 1 ≤ sh.aud → s.doorShow sh.aud = some k → s.doorImage sh.aud = computeDoor s sh.aud

theorem modifyShow_id (s : State) (k : Nat) : s.modifyShow k id = s := by
  have h : updateShows k id s.shows.shows = s.shows.shows := by simp [updateShows]
  rw [State.modifyShow, h]
  rfl

theorem availability_frames (j : Nat) (s : State) : Computed j id s (availability j s) := by
  have := availability_computed j id s fun _ => rfl
  rwa [modifyShow_id] at this

theorem publishShow_doorKeeps {key a : Nat} {auds : List Nat} {s : State} (h : s.doorImage a = computeDoor s a) :
    (publishShow key auds s).doorImage a = computeDoor s a := by
  have hc := computeDoor_congr (publishLine_frame key s).2.2.1 a
  have hi : (publishLine key s).doorImage a = computeDoor (publishLine key s) a := by
    rw [hc, ← h, State.doorImage, State.doorImage, publishLine_doors]
  rw [← hc, ← publishDoors_keeps (auds := auds) hi, State.doorImage, State.doorImage, publishShow, publishLines_doors]

/-- A show's computation handed on serves it, and keeps every other show served (R41, R84). -/
theorem availability_served {j k : Nat} {s : State} (hb : s.board.doors.length = 16) (hd : s.shows.doors.length = 16)
    (h : k = j ∨ Served k s) : Served k (availability j s) := by
  have c := availability_frames j s
  by_cases hk : k = j
  · subst hk
    obtain ⟨hl, _, hdoor⟩ := c.published hb hd
    exact ⟨hl, hdoor⟩
  · obtain ⟨hl, hdoor⟩ := h.resolve_left hk
    have hclock : (computeShow j s).shows.clock = s.shows.clock := rfl
    have hother : ∀ i, i ≠ j → (computeShow j s).findShow i = s.findShow i := fun i hi =>
      findShow_modifyShow_other _ _ _ _ (fun x => compute_key _ x) hi
    refine ⟨publishShow_lineServed (w := s) rfl hclock hother (.inr hl), fun sh hsh h1 hds => ?_⟩
    have hshows : (availability j s).shows = (computeShow j s).shows := by simp [availability, handOn]
    have hfind : s.findShow k = some sh := by rw [← c.other k hk, hsh]
    have hdoors : s.doorShow sh.aud = some k := by
      rw [← hds]
      exact (doorShow_congr (congrArg _ hshows) _).symm
    have hcompute : computeDoor (computeShow j s) sh.aud = computeDoor s sh.aud := by
      have hds' : (computeShow j s).doorShow sh.aud = some k := hdoors
      simp only [computeDoor, hds', hdoors, Option.bind_some, hother k hk]
    rw [computeDoor_congr hshows]
    exact publishShow_doorKeeps ((hdoor sh hfind h1 hdoors).trans hcompute.symm)

theorem availability_framed (j : Nat) (s : State) : Framed s (availability j s) :=
  (framed_modify _ _ _).trans (framed_publish _ _ _)

theorem computeAll_framed (s : State) : Framed s (computeAll s) :=
  foldl_inv (Framed s) _ (fun _ k hu => hu.trans (availability_framed k _)) _ s (Framed.refl s)

theorem availability_lengths (j : Nat) (s : State) : (availability j s).board.doors.length = s.board.doors.length ∧
    (availability j s).shows.doors.length = s.shows.doors.length := by
  have c := availability_frames j s
  exact ⟨publishShow_images _ _ _, by rw [c.table]⟩

theorem availability_showKeys (j : Nat) (s : State) : (availability j s).showKeys = s.showKeys := by
  have hs : (availability j s).shows = (computeShow j s).shows := by simp [availability, handOn]
  have hm := (moved_modify j (Show.compute s.policy) s fun x => sameShow_compute s.policy x).keys
  rw [State.showKeys, hs]
  exact hm

theorem computeAll_showKeys (s : State) : (computeAll s).showKeys = s.showKeys :=
  foldl_keep State.showKeys _ (fun u k => availability_showKeys k u) _ s

/-- The computation of every loaded show serves every one (R42). -/
theorem computeAll_served {s : State} (hb : s.board.doors.length = 16) (hd : s.shows.doors.length = 16) :
    ∀ k ∈ s.showKeys, Served k (computeAll s) := by
  have fold : ∀ (l : List Nat) (v : State), v.board.doors.length = 16 → v.shows.doors.length = 16 → ∀ k,
      k ∈ l ∨ Served k v → Served k (l.foldl (fun s k => availability k s) v) := fun l => by
    induction l with
    | nil => exact fun v _ _ k h => h.resolve_left (by simp)
    | cons j l ih =>
      intro v h1 h2 k h
      obtain ⟨l1, l2⟩ := availability_lengths j v
      refine ih _ (l1.trans h1) (l2.trans h2) k ?_
      rcases h with hm | hv
      · exact (List.mem_cons.mp hm).elim (fun he => .inr (availability_served h1 h2 (.inl he))) .inl
      · exact .inr (availability_served h1 h2 (.inr hv))
  exact fun k hk => fold _ s hb hd k (.inl hk)

theorem published_of_served {s : State} (h : ∀ k ∈ s.showKeys, Served k s) {x : Show} (hx : x ∈ s.shows.shows) :
    Published x.key s :=
  ⟨(h _ (mem_showKeys hx)).1, fun _ hy _ => (h _ (mem_showKeys hy)).1, (h _ (mem_showKeys hx)).2⟩

/-! ### The settings handed on (R12, R42, R136) -/

/-- The evaluations a change of settings asks for (R12). -/
def timesServed (old : Policy) (w : State) : State := if timesChanged old w.policy then evaluateAll w else w

/-- The shows' part of a change of settings: evaluations, then computations (R207). -/
def settingsServed (old : Policy) (w : State) : State :=
  if bandsChanged old w.policy then computeAll (timesServed old w) else timesServed old w

theorem timesServed_framed (old : Policy) (w : State) : Framed w (timesServed old w) := by
  unfold timesServed
  split
  · exact evaluateKeys_framed true _ w
  · exact Framed.refl w

theorem settingsServed_framed (old : Policy) (w : State) : Framed w (settingsServed old w) := by
  unfold settingsServed
  split
  · exact (timesServed_framed old w).trans (computeAll_framed _)
  · exact timesServed_framed old w

theorem policyChanged_eq (old : Policy) (w : State) : policyChanged old w =
    if old.chimeEnable = w.policy.chimeEnable then settingsServed old w
    else chimeEnableChanged w.policy.chimeEnable (settingsServed old w) := by
  have h2 := (settingsServed_framed old w).policy
  show (if old.chimeEnable =
      (if bandsChanged old (timesServed old w).policy then computeAll (timesServed old w) else timesServed old w).policy.chimeEnable
    then (if bandsChanged old (timesServed old w).policy then computeAll (timesServed old w) else timesServed old w)
    else chimeEnableChanged
      (if bandsChanged old (timesServed old w).policy then computeAll (timesServed old w) else timesServed old w).policy.chimeEnable
      (if bandsChanged old (timesServed old w).policy then computeAll (timesServed old w) else timesServed old w)) = _
  rw [(timesServed_framed old w).policy, ← settingsServed, h2]

theorem policyChanged_blocks (old : Policy) (w : State) :
    policyChanged old w = { settingsServed old w with chime := (policyChanged old w).chime } := by
  rw [policyChanged_eq]
  unfold chimeEnableChanged
  repeat' split
  all_goals rfl

theorem policyChanged_chime (old : Policy) (w : State) : (policyChanged old w).chime =
    if old.chimeEnable = w.policy.chimeEnable then w.chime
    else if w.policy.chimeEnable then
      if w.house.alert = .alert then { w.chime with pending := none }.begin_ .alarm else w.chime
    else { w.chime with playing := none, pending := none } := by
  have hf := settingsServed_framed old w
  have hc : (settingsServed old w).chime = w.chime := by rw [hf.blocks]
  have hh : (settingsServed old w).house = w.house := by rw [hf.blocks]
  rw [policyChanged_eq]
  unfold chimeEnableChanged
  rw [hh]
  repeat' split
  all_goals simp [hc]

theorem timesServed_showKeys (old : Policy) (w : State) : (timesServed old w).showKeys = w.showKeys := by
  unfold timesServed
  split
  · exact evaluateKeys_showKeys true _ w
  · rfl

theorem settingsServed_showKeys (old : Policy) (w : State) : (settingsServed old w).showKeys = w.showKeys := by
  unfold settingsServed
  split
  · exact (computeAll_showKeys _).trans (timesServed_showKeys old w)
  · exact timesServed_showKeys old w

/-- No computation makes a transition due. -/
theorem computeAll_settled {w : State} (hp : w.shows.shows.Pairwise (fun a b => a.key < b.key)) {k : Nat}
    (h : Settled k w) : Settled k (computeAll w) := by
  intro x hx
  rw [(computeAll_framed w).policy, (computeAll_framed w).clock]
  rw [computeAll_findShow w hp] at hx
  obtain ⟨y, hy, rfl⟩ := Option.map_eq_some_iff.mp hx
  exact h y hy

/-- A change of a due transition's setting leaves no transition due (R12). -/
theorem settingsServed_settled {old : Policy} {w : State} (hp : w.shows.shows.Pairwise (fun a b => a.key < b.key))
    (ht : timesChanged old w.policy = true) : ∀ k ∈ (settingsServed old w).showKeys, Settled k (settingsServed old w) := by
  have hk : (evaluateAll w).showKeys = w.showKeys := evaluateKeys_showKeys true _ w
  rw [settingsServed_showKeys, ← hk]
  intro k hm
  have h := evaluateAll_settled w k hm
  rw [settingsServed, timesServed, if_pos ht]
  split
  · exact computeAll_settled (pairwise_of_showKeys hk hp) h
  · exact h

/-- Without such a change the shows keep all but their availability (R42). -/
theorem settingsServed_untimed {old : Policy} {w : State} (hp : w.shows.shows.Pairwise (fun a b => a.key < b.key))
    (ht : timesChanged old w.policy = false) : (settingsServed old w).seat = w.seat ∧
    (settingsServed old w).notice = w.notice ∧ ∀ k, (settingsServed old w).findShow k =
      if bandsChanged old w.policy then (w.findShow k).map (Show.compute w.policy) else w.findShow k := by
  have he : timesServed old w = w := by rw [timesServed, ht]; rfl
  rw [settingsServed, he]
  split
  · exact ⟨by simp, by simp, computeAll_findShow w hp⟩
  · exact ⟨rfl, rfl, fun _ => rfl⟩

theorem timesServed_lengths (old : Policy) (w : State) : (timesServed old w).board.doors.length = w.board.doors.length ∧
    (timesServed old w).shows.doors.length = w.shows.doors.length := by
  unfold timesServed
  split
  · exact ⟨foldl_keep (fun t : State => t.board.doors.length) _ (fun u k => (moved_evaluate true k u).images) _ w,
      foldl_keep (fun t : State => t.shows.doors.length) _ (fun u k => (moved_evaluate true k u).doors) _ w⟩
  · exact ⟨rfl, rfl⟩

/-- A change of a band setting publishes every show (R42). -/
theorem settingsServed_served {old : Policy} {w : State} (hb : w.board.doors.length = 16)
    (hd : w.shows.doors.length = 16) (h : bandsChanged old w.policy = true) :
    ∀ k ∈ (settingsServed old w).showKeys, Served k (settingsServed old w) := by
  obtain ⟨lb, ld⟩ := timesServed_lengths old w
  rw [settingsServed, if_pos h, computeAll_showKeys]
  exact computeAll_served (lb.trans hb) (ld.trans hd)

theorem setPolicy_owner (l : List (Nat × Nat)) (s : State) (q : Ports) : setPolicy l (s.withPorts q) =
    tested
      [(s.store.state != .idle, .storeBusy),
       (decide (l = []) || l.any (fun x => decide (16 < x.1)) || !decide ((l.map (·.1)).Nodup) ||
          l.any (fun x => decide (x.1 = 15) && decide (1 < x.2)), .badArgument),
       (decide (192 < settingAfter s.policy l 5 + settingAfter s.policy l 6), .quotaSum)]
      (s.withPorts q)
      (policyChanged s.policy ((s.withPorts q).withPolicy (writeSettings s.policy l)),
        okMarked (l.any (fun x => settingAfter s.policy l x.1 != x.2)) []) := by
  have hb : storeBusy (s.withPorts q) = (s.store.state != .idle) := rfl
  unfold setPolicy tested firstRefusal
  rw [hb, ← settingsBad_eq]
  split
  · rfl
  · cases hbad : settingsBad l with
    | true => rfl
    | false =>
      obtain ⟨hn, hl⟩ := settingsBad_eq_false hbad
      have hany : l.any (fun x => clampSetting x != x) = l.any (fun x => settingAfter s.policy l x.1 != x.2) := by
        rw [Bool.eq_iff_iff]
        simp only [List.any_eq_true, bne_iff_ne]
        refine exists_congr fun x => and_congr_right fun hx => ?_
        rw [settingAfter_of_mem (p := s.policy) hn hx (hl x hx)]
        simp [Prod.ext_iff]
      have h5 := value_writeSettings hn hl (i := 5) (by decide) s.policy
      have h6 := value_writeSettings hn hl (i := 6) (by decide) s.policy
      simp only [Policy.value] at h5 h6
      simp only [Bool.false_eq_true, if_false, firstRefusal, ← h5, ← h6, decide_eq_true_eq, withPorts_policy, hany, deny]
      split <;> rfl

/-- Settles O58: the settings written are handed on to the shows, then to the chime. -/
theorem policyIsSet : Obligations.PolicyIsSet := by
  intro h l s hp
  refine takenOrRefused_of (setPolicy l) (fun u => policyChanged s.policy (u.withPolicy (writeSettings s.policy l))) _ rfl
    rfl (setPolicy_owner l s) fun s1 t hn a hx f => ?_
  have hbad := firstRefusal_eq_none.mp hn _ (.tail _ (.head _))
  simp only [← settingsBad_eq] at hbad
  obtain ⟨hnodup, hle⟩ := settingsBad_eq_false hbad
  generalize hpol : writeSettings s.policy l = p at f
  have hblocks := policyChanged_blocks s.policy (s1.withPolicy p)
  have hchime := policyChanged_chime s.policy (s1.withPolicy p)
  generalize policyChanged s.policy (s1.withPolicy p) = u at f hblocks hchime
  have hpw : (s1.withPolicy p).shows.shows.Pairwise (fun a b => a.key < b.key) := by
    rw [withPolicy_shows, a.shows]
    exact hp
  have hframe := settingsServed_framed s.policy (s1.withPolicy p)
  have hkeys := settingsServed_showKeys s.policy (s1.withPolicy p)
  have hsettled := settingsServed_settled (old := s.policy) hpw
  have huntimed := settingsServed_untimed (old := s.policy) hpw
  have hserved := settingsServed_served (old := s.policy) (w := s1.withPolicy p)
  have hsame : timesChanged s.policy p = false → bandsChanged s.policy p = false →
      settingsServed s.policy (s1.withPolicy p) = s1.withPolicy p := fun h1 h2 => by
    simp [settingsServed, timesServed, h1, h2]
  simp only [withPolicy_policy] at hchime hsettled huntimed hserved
  generalize settingsServed s.policy (s1.withPolicy p) = v at *
  have hshows : t.shows = v.shows := by rw [f.shows, hblocks]
  have hboard : t.board = v.board := by rw [f.board, hblocks]
  have hpolicy : t.policy = v.policy := by rw [f.policy, hblocks]
  obtain rfl : t.policy = p := hpolicy.trans hframe.policy
  have hkeyst : t.showKeys = v.showKeys := by rw [State.showKeys, hshows, State.showKeys]
  have hpwt := pairwise_of_showKeys (hkeyst.trans hkeys) hpw
  have hsettledt : timesChanged s.policy t.policy = true → ∀ sh ∈ t.shows.shows,
      dueTransition t.policy t.shows.clock sh = none := fun ht => settled_all hpwt fun k hk =>
    settled_congr hshows hpolicy (hsettled ht k (hkeyst ▸ hk))
  have hclock : t.shows.clock = s.shows.clock := by rw [hshows, hframe.clock, withPolicy_shows, a.shows]
  rw [← f.chime] at hchime
  simp only [withPolicy_chime, withPolicy_house, a.chime, a.house] at hchime
  have hfind : ∀ k, (s1.withPolicy t.policy).findShow k = s.findShow k := a.findShow
  refine ⟨t, ⟨hx, f.answered⟩, fun id hid => by
      rw [← hpol, value_writeSettings hnodup hle (by omega)], hsettledt, fun ht => ?_, fun hb hs sh hm => ?_,
    fun he => ?_, fun ho hc => ?_, fun ho hc => ?_, fun ht hb => ?_, hclock, ?_, ?_, ?_, ?_, ?_⟩
  · obtain ⟨hseat, hnotice, hrec⟩ := huntimed ht
    refine ⟨?_, ?_, fun k => ?_⟩
    · rw [f.seat, hblocks, ← a.seat]
      exact hseat
    · rw [f.notice, hblocks, ← a.notice]
      exact hnotice
    · rw [findShow_congr hshows, hrec, hfind]
      rfl
  · refine published_congr hshows hboard (published_of_served (hserved ?_ ?_ hb) (hshows ▸ hm))
    · rw [withPolicy_board, a.board]
      exact hs.2.2.2.1
    · rw [withPolicy_shows, a.shows]
      exact hs.2.1
  · rw [hchime, if_pos he.symm]
  · rw [hchime, if_neg (by simp [ho, hc]), if_neg (by simp [ho])]
  · rw [hchime, if_neg (by simp [ho, hc]), if_pos ho]
  · obtain rfl := hsame ht hb
    refine ⟨?_, buffersKept_of a f ?_, causesKept_of a f ?_⟩
    · rw [f.blocks, hblocks, a.blocks]
      rfl
    · rw [hblocks]
      rfl
    · rw [hblocks]
      rfl
  · rw [f.house, hblocks, ← a.house, hframe.blocks]
    rfl
  · rw [f.reel, hblocks, hframe.blocks, a.blocks]
    rfl
  · rw [f.store, hblocks, hframe.blocks, a.blocks]
    rfl
  · rw [f.link, hblocks, hframe.steady, withPolicy_link, a.link]
  · exact buffersKept_of a f (by rw [hblocks]; exact hframe.quiet)

end Sys2Proof.Machine

/-! ## DELAY and CANCEL postings (O49) -/

namespace Sys2Proof.Machine

/-! ### A notice takes a slot (R119) -/

theorem countOrigin_counter (q : NoticeQueue) (o : Origin) (f : Nat → Nat) : (q.countOrigin o f).counter = q.counter := by
  unfold NoticeQueue.countOrigin NoticeQueue.withPortLive
  repeat' split
  all_goals rfl

/-- The advance of the counter changes posting sequences alone, and each by its value. -/
theorem advance_at (q : NoticeQueue) : ∃ f : Nat → Nat, ∀ i,
    q.advance.at_ i = ⟨(q.at_ i).gen, (q.at_ i).notice.map (fun n => { n with seq := f n.seq })⟩ := by
  unfold NoticeQueue.advance
  split
  · refine ⟨q.rank, fun i => ?_⟩
    simp only [NoticeQueue.at_, NoticeQueue.renumber, List.getElem?_map]
    cases (q.slots)[i]? <;> rfl
  · refine ⟨id, fun i => ?_⟩
    show q.at_ i = ⟨(q.at_ i).gen, (q.at_ i).notice.map id⟩
    simp

theorem advance_gen (q : NoticeQueue) (i : Nat) : (q.advance.at_ i).gen = (q.at_ i).gen := by
  obtain ⟨f, hf⟩ := advance_at q
  rw [hf]

theorem post_counter (q : NoticeQueue) (slot : Nat) (n : Notice) : (q.post slot n).counter = q.advance.counter :=
  countOrigin_counter _ _ _

theorem post_at_same {q : NoticeQueue} {slot : Nat} (n : Notice) (h : slot < q.slots.length) :
    (q.post slot n).at_ slot = ⟨((q.at_ slot).gen + 1) % 256, some { n with seq := (q.post slot n).counter }⟩ := by
  rw [post_counter, ← advance_gen]
  simp [NoticeQueue.post, NoticeQueue.at_, h]

theorem post_at_other {q : NoticeQueue} {slot i : Nat} (n : Notice) (h : i ≠ slot) :
    (q.post slot n).at_ i = q.advance.at_ i := by
  simp [NoticeQueue.post, NoticeQueue.at_, Ne.symm h]

/-- The other slots hold no notice of a kind after a posting that they did not hold before. -/
theorem post_none_other {q : NoticeQueue} {slot i : Nat} {n m : Notice} {f : Notice → Bool}
    (hf : ∀ n k, f { n with seq := k } = f n) (hq : ∀ n, (q.at_ i).notice = some n → f n = false) (h : i ≠ slot)
    (hm : ((q.post slot n).at_ i).notice = some m) : f m = false := by
  obtain ⟨g, hg⟩ := advance_at q
  rw [post_at_other n h, hg] at hm
  obtain ⟨k, hk, rfl⟩ := Option.map_eq_some_iff.mp hm
  exact (hf k _).trans (hq k hk)

theorem freeSlot_eq_some {q : NoticeQueue} {i : Nat} : q.freeSlot = some i ↔
    i < 31 ∧ (q.at_ i).notice = none ∧ ∀ j, j < i → (q.at_ j).notice.isSome = true := by
  rw [NoticeQueue.freeSlot, List.find?_range_eq_some]
  simp [Config.evacuateSlot, NoticeQueue.at_]
  tauto

theorem freeSlot_isNone (q : NoticeQueue) :
    q.freeSlot.isNone = (List.range 31).all (fun i => (q.at_ i).notice.isSome) := by
  rw [Bool.eq_iff_iff, Option.isNone_iff_eq_none, NoticeQueue.freeSlot, List.find?_eq_none, List.all_eq_true]
  simp [Config.evacuateSlot, NoticeQueue.at_, Option.isSome_iff_ne_none]

/-! ### Withdrawals leave the counter -/

theorem drop_counter (q : NoticeQueue) (i : Nat) : (q.drop i).counter = q.counter := by
  unfold NoticeQueue.drop
  split
  · exact countOrigin_counter _ _ _
  · rfl

theorem dropAll_counter (q : NoticeQueue) (l : List Nat) : (q.dropAll l).counter = q.counter :=
  foldl_keep NoticeQueue.counter NoticeQueue.drop drop_counter l q

theorem slotsWhere_eq_nil {q : NoticeQueue} {f : Notice → Bool} :
    q.slotsWhere f = [] ↔ ∀ i n, (q.at_ i).notice = some n → f n = false := by
  rw [List.eq_nil_iff_forall_not_mem]
  simp only [mem_slotsWhere]
  refine forall_congr' fun i => ?_
  cases (q.at_ i).notice <;> simp

/-- The queue without a show's DELAY notice (R127, R128). -/
def NoticeQueue.withoutDelay (q : NoticeQueue) (key : Nat) : NoticeQueue := q.dropAll (q.slotsWhere (isDelayOf key))

theorem withoutDelay_at (q : NoticeQueue) (key i : Nat) :
    (q.withoutDelay key).at_ i = if (q.at_ i).notice.any (isDelayOf key) then (q.at_ i).emptied else q.at_ i :=
  dropWhere_at q _ i

theorem withoutDelay_gen (q : NoticeQueue) (key i : Nat) : ((q.withoutDelay key).at_ i).gen = (q.at_ i).gen := by
  rw [withoutDelay_at]
  split <;> rfl

theorem withoutDelay_none {q : NoticeQueue} {key i : Nat} {n : Notice} (h : ((q.withoutDelay key).at_ i).notice = some n) :
    isDelayOf key n = false := by
  rw [withoutDelay_at] at h
  split at h
  · cases h
  · rename_i hf
    simpa [h] using hf

theorem withoutDelay_kept {q : NoticeQueue} {key i : Nat} (h : (q.at_ i).notice.any (isDelayOf key) = false) :
    (q.withoutDelay key).at_ i = q.at_ i := by
  rw [withoutDelay_at, h]
  rfl

theorem withoutDelay_isSome (q : NoticeQueue) (key i : Nat) : ((q.withoutDelay key).at_ i).notice.isSome =
    (q.at_ i).notice.any (fun n => !isDelayOf key n) := by
  rw [withoutDelay_at]
  cases h : (q.at_ i).notice with
  | none => simp [h]
  | some n => cases hd : isDelayOf key n <;> simp [h, hd, NoticeSlot.emptied]

theorem withoutDelay_counter (q : NoticeQueue) (key : Nat) : (q.withoutDelay key).counter = q.counter :=
  dropAll_counter q _

theorem withoutDelay_length (q : NoticeQueue) (key : Nat) : (q.withoutDelay key).slots.length = q.slots.length :=
  dropAll_length _ _

/-- The queue changes just when there is a DELAY notice of the show. -/
theorem withoutDelay_eq {q : NoticeQueue} {key : Nat} :
    q.withoutDelay key = q ↔ (liveNotices q).any (fun x => isDelayOf key x.2.2) = false := by
  have hs : q.slotsWhere (isDelayOf key) = [] ↔ (liveNotices q).any (fun x => isDelayOf key x.2.2) = false := by
    simp [NoticeQueue.slotsWhere, List.filter_eq_nil_iff]
  rw [← hs]
  constructor
  · exact fun h => slotsWhere_eq_nil.mpr fun i n hn => withoutDelay_none (q := q) (by rw [h, hn])
  · intro h
    rw [NoticeQueue.withoutDelay, h]
    rfl

/-! ### Evaluations that withdraw nothing -/

/-- No transition leads back to a state before RUNNING (R11). -/
theorem due_pastAmending {p : Policy} {c : Clock} {x : Show} {st : ShowState} {b : Option (StartedBy × Nat)}
    (h : dueTransition p c x = some (st, b)) (hx : x.state.pastAmending = true) : st.pastAmending = true := by
  unfold dueTransition at h
  repeat' split at h
  all_goals simp_all [ShowState.pastAmending]
  all_goals obtain ⟨rfl, _⟩ := h; rfl

theorem advanced_pastAmending {p : Policy} {c : Clock} {x : Show} (h : x.state.pastAmending = true) :
    (x.advanced p c).state.pastAmending = true := by
  unfold Show.advanced
  split
  · rename_i hd
    exact due_pastAmending hd h
  · exact h

/-- A show not past amending after one transition was not past it before. -/
theorem evalOnce_early {b : Bool} {key : Nat} {v : State}
    (h : ∀ y, (evalOnce b key v).findShow key = some y → y.state.pastAmending = false) (x : Show)
    (hx : v.findShow key = some x) : x.state.pastAmending = false := by
  obtain ⟨z, hz, hst, _⟩ := evalOnce_record b key v x hx
  have := h z hz
  rw [hst] at this
  by_contra hne
  rw [advanced_pastAmending (by simpa using hne)] at this
  cases this

/-- No DELAY notice of the show is live, or the show does not come past amending: nothing is withdrawn. -/
def Unwithdrawn (key : Nat) (v u : State) : Prop :=
  v.notice.slotsWhere (isDelayOf key) = [] ∨ ∀ y, u.findShow key = some y → y.state.pastAmending = false

theorem noticeAtEntry_notice {key : Nat} {st : ShowState} {v : State}
    (h : st = .running ∨ st = .cancelled → v.notice.slotsWhere (isDelayOf key) = []) :
    (noticeAtEntry key st v).notice = v.notice := by
  have hw : st = .running ∨ st = .cancelled → (withdrawDelay key v).notice = v.notice := fun hst => by
    rw [withdrawDelay, withdrawWhere_notice, h hst]
    rfl
  unfold noticeAtEntry
  split
  · exact hw (.inl rfl)
  · exact hw (.inr rfl)
  · rfl

theorem evalOnce_quiet {b : Bool} {key : Nat} {v : State} (h : Unwithdrawn key v (evalOnce b key v)) :
    (evalOnce b key v).notice = v.notice ∧ LinesFiled v.journal (evalOnce b key v).journal := by
  cases hf : v.findShow key with
  | none =>
    have he : evalOnce b key v = v := by unfold evalOnce; rw [hf]
    rw [he]
    exact ⟨rfl, LinesFiled.refl _⟩
  | some sh =>
    cases hd : dueTransition v.policy v.shows.clock sh with
    | none =>
      have he : evalOnce b key v = v := by unfold evalOnce; rw [hf]; simp only [hd]
      rw [he]
      exact ⟨rfl, LinesFiled.refl _⟩
    | some d =>
      obtain ⟨st, e⟩ := d
      have he : evalOnce b key v = enterState b key st e v := by unfold evalOnce; rw [hf]; simp only [hd]
      rw [he] at h ⊢
      obtain ⟨y, hy, hst, _⟩ := enterState_state b key st e v sh hf
      have hnone : st = .running ∨ st = .cancelled → v.notice.slotsWhere (isDelayOf key) = [] := fun hr =>
        h.resolve_right fun hlate => by
          have := hlate y hy
          rcases hr with rfl | rfl <;> simp [hst, ShowState.pastAmending] at this
      refine ⟨?_, enterState_filed b key st e v hnone⟩
      rw [enterState_notice hf, entered, noticeAtEntry_notice (by simpa using hnone)]
      simp

/-- An evaluation that withdraws nothing leaves the queue and files lines and doors alone. -/
theorem evaluate_quiet {b : Bool} {key : Nat} {w : State} (h : Unwithdrawn key w (evaluate b key w)) :
    (evaluate b key w).notice = w.notice ∧ LinesFiled w.journal (evaluate b key w).journal := by
  have back : ∀ v, (∀ y, (evalOnce b key v).findShow key = some y → y.state.pastAmending = false) →
      ∀ y, v.findShow key = some y → y.state.pastAmending = false := fun v hv => evalOnce_early hv
  have step : ∀ v, v.notice = w.notice → LinesFiled w.journal v.journal → Unwithdrawn key w (evalOnce b key v) →
      (evalOnce b key v).notice = w.notice ∧ LinesFiled w.journal (evalOnce b key v).journal := fun v hn hj hu => by
    obtain ⟨h1, h2⟩ := evalOnce_quiet (b := b) (key := key) (v := v) (by rwa [Unwithdrawn, hn])
    exact ⟨h1.trans hn, hj.trans h2⟩
  have u3 := h.imp_right (back _)
  have u2 := u3.imp_right (back _)
  have u1 := u2.imp_right (back _)
  obtain ⟨n1, j1⟩ := step w rfl (LinesFiled.refl _) u1
  obtain ⟨n2, j2⟩ := step _ n1 j1 u2
  obtain ⟨n3, j3⟩ := step _ n2 j2 u3
  exact step _ n3 j3 h

/-! ### What a posting's owner does (R121) -/

theorem takenOrRefused_denied {c : Instr} {h : Hdr} {k : Nat} {b : List Byte} {s : State} {code : Result}
    {tests : List (Bool × Result)} {taken : Prop} (owner : Owner) (he : exec c s = request c owner s)
    (hb : requestBody c = some (h, k, b)) (ho : ∀ q, owner (s.withPorts q) = deny code (s.withPorts q)) :
    TakenOrRefused c h k s ((true, code) :: tests) taken :=
  takenOrRefused_of owner id (refuse code) he hb (fun q => (ho q).trans rfl) fun _ _ hn => by simp [firstRefusal] at hn

/-- Step 1 of R121, for a class that names a show and carries what it needs. -/
def fieldsBad (prio : Nat) (scope : ScopeArg) (text : List Byte) (life : LifeArg) : Bool :=
  (priorityOf prio).isNone || (scopeOf scope).isNone || (lifeOf life).isNone || decide (48 < text.length) ||
    text.any (fun x => decide (x.toNat < 32) || decide (126 < x.toNat))

theorem textOk_eq (text : List Byte) :
    textOk text = !text.any (fun x => decide (x.toNat < 32) || decide (126 < x.toNat)) := by
  rw [Bool.eq_iff_iff]
  simp [textOk]

section
variable {cls prio key : Nat} {scope : ScopeArg} {text : List Byte} {life : LifeArg} {minutes : Option Nat}
  {c : NoticeClass} {pr : Priority} {sc : Scope} {li : Life}

theorem postingOf_bad (k : Option Nat) (h : fieldsBad prio scope text life = true) :
    postingOf cls prio scope text life k minutes = none := by
  unfold postingOf
  split
  · rename_i hp hs hl
    simp only [fieldsBad, hp, hs, hl, Option.isNone_some, Bool.false_or, Bool.or_eq_true, decide_eq_true_eq] at h
    rw [if_pos]
    rcases h with h | h
    · exact .inl h
    · exact .inr (.inl (by rw [textOk_eq, h]; rfl))
  · rfl

theorem fieldsBad_eq_false (h : fieldsBad prio scope text life = false) : (∃ pr, priorityOf prio = some pr) ∧
    (∃ sc, scopeOf scope = some sc) ∧ (∃ li, lifeOf life = some li) := by
  simp only [fieldsBad, Bool.or_eq_false_iff, Option.isNone_eq_false_iff] at h
  exact ⟨Option.isSome_iff_exists.mp h.1.1.1.1, Option.isSome_iff_exists.mp h.1.1.1.2, Option.isSome_iff_exists.mp h.1.1.2⟩

theorem postingOf_good (h : fieldsBad prio scope text life = false) (hc : classOf cls = some c) (hl : c.links = true)
    (hm : c = .delay → minutes ≠ none) (hp : priorityOf prio = some pr) (hs : scopeOf scope = some sc)
    (hlife : lifeOf life = some li) : postingOf cls prio scope text life (some key) minutes =
      some ⟨c, pr, sc, text, li, some key, minutes.getD 0⟩ := by
  simp only [fieldsBad, Bool.or_eq_false_iff, decide_eq_false_iff_not] at h
  obtain ⟨⟨_, hlen⟩, htext⟩ := h
  unfold postingOf
  rw [hc, hp, hs, hlife]
  dsimp only
  rw [if_neg, if_pos hl]
  rw [textOk_eq, htext]
  rintro (h | h | ⟨_, h⟩ | ⟨h1, h2⟩)
  · exact hlen h
  · cases h
  · cases h
  · exact hm h1 h2

/-- A DELAY or CANCEL posting taken (R127, R129). -/
def showPosted (h : Hdr) (x : Posting) (sh : Option Show) (u : State) : State :=
  match x.cls, sh with
  | .delay, some sh => postDelay h x sh u
  | .cancel, some sh => postCancel h x sh.key u
  | _, _ => postPlain h x u

theorem postNotice_owner {h : Hdr} {x : Posting} {full : Bool} {bad : Show → Bool} {code : Result} {s : State}
    (hx : postingOf cls prio scope text life (some key) minutes = some x) (hc : x.cls = .delay ∨ x.cls = .cancel)
    (hk : x.key = some key) (hbad : ∀ sh, stateRefusal x.cls sh = if bad sh then some code else none)
    (hfull : ∀ sh, s.findShow key = some sh →
      (postsNotice x (some sh) && ((queueFor x s.notice).freeSlot).isNone) = full) (q : Ports) :
    postNotice h cls prio scope text life (some key) minutes (s.withPorts q) =
      tested [(decide (h.port ≠ .programme), .notPermitted), ((s.findShow key).isNone, .noSuchShow),
          ((s.findShow key).any bad, code), (full, .noticeFull)] (s.withPorts q)
        (showPosted h x (s.findShow key) (s.withPorts q), postAnswer s life x) := by
  have hperm : classPermitted h.port x.cls = false ↔ h.port ≠ .programme := by
    rcases hc with hc | hc <;> rw [hc] <;> cases h.port <;> simp [classPermitted]
  have hlinks : x.cls.links = true := by rcases hc with hc | hc <;> rw [hc] <;> rfl
  have hnamed : namedShow (s.withPorts q) x = s.findShow key := by rw [namedShow, hk]; rfl
  have hanswer : postAnswer (s.withPorts q) life x = postAnswer s life x := rfl
  simp only [postNotice, hx, postRefusal, hperm, hlinks, hnamed, tested, firstRefusal, hanswer, decide_eq_true_eq,
    true_and]
  by_cases hp : h.port = .programme
  · cases hf : s.findShow key with
    | none => simp [hp, deny]
    | some sh =>
      have hfl := hfull sh hf
      simp only [hp, ne_eq, not_true_eq_false, if_false, Option.isNone_some, Bool.false_eq_true, Option.bind_some,
        Option.any_some, hbad, false_and]
      by_cases hb : bad sh = true
      · rw [if_pos hb, if_pos hb]
        rfl
      · have hfq : (postsNotice x (some sh) = true ∧ (queueFor x (s.withPorts q).notice).freeSlot.isNone = true) ↔
            full = true := by
          rw [← hfl, Bool.and_eq_true]
          rfl
        simp only [if_neg hb, hfq]
        cases full <;> rfl
  · simp [hp, deny]

end

/-! ### What the filing and the chime leave -/

theorem firstRefusal_tail {x : Bool × Result} {l : List (Bool × Result)} (h : firstRefusal (x :: l) = none) :
    firstRefusal l = none :=
  firstRefusal_eq_none.mpr fun y hy => firstRefusal_eq_none.mp h y (.tail _ hy)

theorem onlyShowCauses_of {h : Hdr} {k : Nat} {r : Reply} {s s1 u t : State} (a : Seated h s s1)
    (f : Finished h k r u t) (hc : OnlyShowCauses s1 u) : OnlyShowCauses s t := fun q n h1 h2 => by
  simp only [causeBit, f.causes, ← a.causes]
  exact hc q n h1 h2

theorem announce_eq (x : Posting) (s : State) : announce x s = s.withChime
    (if x.prio = .high then s.chime.trigger s.policy.chimeEnable .attention else s.chime) := by
  unfold announce
  split <;> rfl

/-- A HIGH posting announced and NOTICES filed. -/
def announcedFiled (x : Posting) (s : State) : State := fileNotices (announce x s)

theorem announcedFiled_blocks (x : Posting) (s : State) : announcedFiled x s =
    { s with chime := (if x.prio = .high then s.chime.trigger s.policy.chimeEnable .attention else s.chime),
             journal := s.journal.filed .notices .update, link := (announcedFiled x s).link,
             ports := (announcedFiled x s).ports } := by
  rw [announcedFiled, announce_eq]
  apply state_eq <;> simp [fileNotices, file_journal]

theorem announcedFiled_steady (x : Posting) (s : State) : (announcedFiled x s).link.steady = s.link.steady ∧
    (announcedFiled x s).ports.quiet = s.ports.quiet ∧ OnlyForced s (announcedFiled x s) := by
  rw [announcedFiled, announce_eq]
  refine ⟨?_, ?_, OnlyForced.of_ports rfl (fileNotices_onlyForced _)⟩ <;> simp

/-! ### A CANCEL posting (R129) -/

/-- The queue a posting leaves: the notice in the lowest FREE slot, the show's DELAY notice gone. -/
def cancelQueue (h : Hdr) (x : Posting) (key : Nat) (q : NoticeQueue) : NoticeQueue :=
  (q.post (q.freeSlot.getD 0) (x.notice h)).withoutDelay key

theorem postCancel_eq (h : Hdr) (x : Posting) (key : Nat) (s : State) : postCancel h x key s =
    announcedFiled x (enterState true key .cancelled none (s.withNotice (cancelQueue h x key s.notice))) := rfl

theorem cancelQueue_none {h : Hdr} {x : Posting} {key : Nat} {q : NoticeQueue} {i : Nat} {n : Notice}
    (hn : ((cancelQueue h x key q).at_ i).notice = some n) : isDelayOf key n = false := withoutDelay_none hn

theorem cancelQueue_slot {h : Hdr} {x : Posting} {key slot : Nat} {q : NoticeQueue} (hq : q.freeSlot = some slot)
    (hl : q.slots.length = 32) (hx : x.cls = .cancel) : (cancelQueue h x key q).at_ slot =
      ⟨((q.at_ slot).gen + 1) % 256, some { x.notice h with seq := (cancelQueue h x key q).counter }⟩ := by
  have hlt : slot < q.slots.length := by
    have := (freeSlot_eq_some.mp hq).1
    omega
  have hpost := post_at_same (x.notice h) hlt
  rw [cancelQueue, hq, Option.getD_some, withoutDelay_kept, withoutDelay_counter, hpost]
  rw [hpost]
  simp [isDelayOf, Posting.notice, hx]

theorem enterState_cancelled_notice {b : Bool} {key : Nat} {w : State} {sh : Show} (h : w.findShow key = some sh)
    (e : Option (StartedBy × Nat)) (hn : w.notice.slotsWhere (isDelayOf key) = []) :
    (enterState b key .cancelled e w).notice = w.notice := by
  rw [enterState_notice h, entered, noticeAtEntry_notice (by simpa using hn)]
  simp

/-- What a CANCEL posting leaves: the show cancelled, the notice posted, one filing of NOTICES after the lines (R129). -/
structure CancelLeft (n : Notice) (p : Priority) (key slot : Nat) (w u : State) (sh y : Show) : Prop where
  record : u.findShow key = some y
  other : ∀ k, k ≠ key → u.findShow k = w.findShow k
  state : y.state = .cancelled
  aud : y.aud = sh.aud
  posted : u.noticeSlot slot = ⟨((w.noticeSlot slot).gen + 1) % 256, some { n with seq := u.notice.counter }⟩
  undelayed : ∀ i m, (u.noticeSlot i).notice = some m → isDelayOf key m = false
  holds : ∀ i info life, i < 192 → (w.holdSlot i).use = .active info life → info.key = key →
    u.holdSlot i = ⟨(w.holdSlot i).gen, .ended info .voided⟩
  chime : u.chime = if p = .high then w.chime.trigger w.policy.chimeEnable .attention else w.chime
  raised : ShowChangeRaised u
  published : Published key u
  door : DoorServed y.aud u
  filed : ∃ j, LinesFiled w.journal j ∧ u.journal = j.filed .notices .update
  blocks : u = { w with seat := u.seat, shows := u.shows, board := u.board, notice := u.notice, chime := u.chime,
                        journal := u.journal, link := u.link, ports := u.ports }
  steady : u.link.steady = w.link.steady
  quiet : u.ports.quiet = w.ports.quiet
  causes : OnlyShowCauses w u

theorem postCancel_left {h : Hdr} {x : Posting} {key slot : Nat} {w : State} {sh : Show} (hf : w.findShow key = some sh)
    (hx : x.cls = .cancel) (hslot : w.notice.freeSlot = some slot) (hn : w.notice.slots.length = 32)
    (hb : w.board.doors.length = 16) (hd : w.shows.doors.length = 16) :
    ∃ y, CancelLeft (x.notice h) x.prio key slot w (postCancel h x key w) sh y := by
  rw [postCancel_eq]
  have hqslot := cancelQueue_slot (h := h) (x := x) (key := key) hslot hn hx
  have hqnone := fun i n => cancelQueue_none (h := h) (x := x) (key := key) (q := w.notice) (i := i) (n := n)
  generalize cancelQueue h x key w.notice = q at *
  have h1 : (w.withNotice q).findShow key = some sh := hf
  have m := moved_enterState true key .cancelled none (w.withNotice q)
  obtain ⟨y, hy, hst, _⟩ := enterState_state true key .cancelled none (w.withNotice q) sh h1
  obtain ⟨y', hy', hsame⟩ := m.same sh h1
  obtain rfl : y = y' := Option.some.inj (hy.symm.trans hy')
  have haud : y.aud = sh.aud := by rw [hsame.record]
  have hempty : (w.withNotice q).notice.slotsWhere (isDelayOf key) = [] := slotsWhere_eq_nil.mpr hqnone
  have hqueue := enterState_cancelled_notice (b := true) h1 none hempty
  have hfiled := enterState_filed true key .cancelled none (w.withNotice q) fun _ => hempty
  have hhold := cancelled_slot h1 true none
  have hpub := enterState_published key .cancelled none (w.withNotice q) sh h1 hb hd
  have hdoor := enterState_doorServed_own h1 .cancelled none hb hd
  have hraise := enterState_raises true key .cancelled none (w.withNotice q) sh h1
  generalize enterState true key .cancelled none (w.withNotice q) = v at *
  have hblocks := announcedFiled_blocks x v
  obtain ⟨hsteady, hquiet, hforced⟩ := announcedFiled_steady x v
  generalize announcedFiled x v = u at *
  have hshows : u.shows = v.shows := by rw [hblocks]
  have hboard : u.board = v.board := by rw [hblocks]
  have hunotice : u.notice = q := by rw [hblocks]; exact hqueue
  have huslot : ∀ i, u.noticeSlot i = q.at_ i := fun i => by rw [noticeSlot_eq, hunotice]
  refine ⟨y, (findShow_congr hshows key).trans hy, fun k hk => (findShow_congr hshows k).trans (m.other k hk), hst, haud,
    ?_, fun i n hi => hqnone i n (huslot i ▸ hi), fun i info life hi hu hk => ?_, ?_, hforced.keeps_showChange hraise,
    published_congr hshows hboard hpub, haud ▸ doorServed_congr hshows hboard hdoor,
    ⟨v.journal, hfiled, by rw [hblocks]⟩, ?_, hsteady.trans m.steady, hquiet.trans m.quiet,
    m.causes.trans (OnlyShowCauses.of_forced hforced)⟩
  · rw [huslot, hqslot, hunotice]
    rfl
  · have hu' : ((w.withNotice q).holdSlot i).use = .active info life := hu
    have hslot : u.holdSlot i = v.holdSlot i := by rw [State.holdSlot, hblocks]; rfl
    rw [hslot, hhold]
    simp [hi, HoldSlot.isOn, HoldSlot.voided, hu', hk]
    rfl
  · rw [hblocks, m.policy, m.blocks]
    rfl
  · rw [hblocks, m.blocks]
    rfl

theorem cancelPosted (h : Hdr) (prio : Nat) (scope : ScopeArg) (text : List Byte) (life : LifeArg) (key : Nat)
    (s : State) (hs : Sized s) (mn : Option Nat) :
    TakenOrRefused (.postNotice h 1 prio scope text life (some key) mn) h 10 s
      [(fieldsBad prio scope text life, .badArgument), (decide (h.port ≠ .programme), .notPermitted),
       ((s.findShow key).isNone, .noSuchShow),
       ((s.findShow key).any (fun sh => sh.state == .closed || sh.state == .ended || sh.state == .cancelled), .notAmendable),
       ((List.range 31).all (fun i => (s.noticeSlot i).notice.isSome), .noticeFull)]
      (∀ pr sc li, priorityOf prio = some pr → scopeOf scope = some sc → lifeOf life = some li → ∃ t y slot gen,
        slot < 31 ∧ (s.noticeSlot slot).notice = none ∧ (∀ i, i < slot → (s.noticeSlot i).notice.isSome = true) ∧
        gen = ((s.noticeSlot slot).gen + 1) % 256 ∧
        Takes (.postNotice h 1 prio scope text life (some key) mn) s h 10
          (okMarked (lifeClamped life) (w1 slot ++ w1 gen ++ w1 li.minutes)) t ∧
        t.findShow key = some y ∧ (∀ k, k ≠ key → t.findShow k = s.findShow k) ∧ y.state = .cancelled ∧
        t.noticeSlot slot = ⟨gen, some ⟨.programme, .cancel, pr, sc, text, li, some key, t.notice.counter⟩⟩ ∧
        (∀ i n, (t.noticeSlot i).notice = some n → isDelayOf key n = false) ∧
        (∀ i info life, i < 192 → (s.holdSlot i).use = .active info life → info.key = key →
          t.holdSlot i = ⟨(s.holdSlot i).gen, .ended info .voided⟩) ∧
        t.chime = (if pr = .high then s.chime.trigger s.policy.chimeEnable .attention else s.chime) ∧
        ShowChangeRaised t ∧ Published key t ∧ DoorServed y.aud t ∧
        (∃ j, LinesFiled s.journal j ∧ t.journal = j.filed .notices .update) ∧
        t = { s with seat := t.seat, shows := t.shows, board := t.board, notice := t.notice, chime := t.chime,
                     journal := t.journal, link := t.link, ports := t.ports } ∧
        t.link.steady = s.link.steady ∧ BuffersKept h.port s t ∧ OnlyShowCauses s t) := by
  cases hb : fieldsBad prio scope text life with
  | true =>
    exact takenOrRefused_denied (postNotice h 1 prio scope text life (some key) mn) rfl rfl fun q => by
      simp only [postNotice, postingOf_bad (some key) hb]
  | false =>
    obtain ⟨⟨pr, hpr⟩, ⟨sc, hsc⟩, ⟨li, hli⟩⟩ := fieldsBad_eq_false hb
    have hx := postingOf_good (key := key) (minutes := mn) hb (c := .cancel) (cls := 1) rfl rfl (by simp) hpr hsc hli
    generalize hxd : (⟨.cancel, pr, sc, text, li, some key, mn.getD 0⟩ : Posting) = x at hx
    have hcls : x.cls = .cancel := by rw [← hxd]
    have hbad : ∀ sh, stateRefusal x.cls sh =
        if sh.state == .closed || sh.state == .ended || sh.state == .cancelled then some .notAmendable else none :=
      fun sh => by
        rw [hcls]
        cases hst : sh.state <;> simp [stateRefusal, ShowState.cancellable, hst]
    have hfull : ∀ sh, s.findShow key = some sh → (postsNotice x (some sh) && ((queueFor x s.notice).freeSlot).isNone) =
        (List.range 31).all (fun i => (s.noticeSlot i).notice.isSome) := fun sh _ => by
      have hq : queueFor x s.notice = s.notice := by rw [← hxd]; rfl
      have hp : postsNotice x (some sh) = true := by rw [← hxd]; rfl
      rw [hq, hp, freeSlot_isNone]
      rfl
    refine takenOrRefused_of (postNotice h 1 prio scope text life (some key) mn) (showPosted h x (s.findShow key))
      (postAnswer s life x) rfl rfl (fun q => postNotice_owner hx (.inr hcls) (by rw [← hxd]) hbad hfull q)
      fun s1 t hn a hxt f => ?_
    rintro pr' sc' li' hpr' hsc' hli'
    obtain rfl : pr = pr' := Option.some.inj (hpr.symm.trans hpr')
    obtain rfl : sc = sc' := Option.some.inj (hsc.symm.trans hsc')
    obtain rfl : li = li' := Option.some.inj (hli.symm.trans hli')
    have hn := firstRefusal_eq_none.mp (firstRefusal_tail hn)
    have hport : h.port = .programme := by simpa using hn _ (.head _)
    obtain ⟨sh, hsh⟩ : ∃ sh, s.findShow key = some sh :=
      Option.isSome_iff_exists.mp (by simpa using hn _ (.tail _ (.head _)))
    obtain ⟨slot, hslot⟩ : ∃ slot, s.notice.freeSlot = some slot := by
      have hfree := hn _ (.tail _ (.tail _ (.tail _ (.head _))))
      rw [show (List.range 31).all (fun i => (s.noticeSlot i).notice.isSome) = s.notice.freeSlot.isNone from
        (freeSlot_isNone s.notice).symm] at hfree
      exact Option.isSome_iff_exists.mp (by simpa using hfree)
    obtain ⟨hslot1, hslot2, hslot3⟩ := freeSlot_eq_some.mp hslot
    have hact : showPosted h x (s.findShow key) s1 = postCancel h x key s1 := by
      rw [hsh]
      simp [showPosted, hcls, findShow_key hsh]
    have hreply : postAnswer s life x = okMarked (lifeClamped life)
        (w1 slot ++ w1 (((s.noticeSlot slot).gen + 1) % 256) ++ w1 li.minutes) := by
      have hid : postedId x s = (slot, ((s.noticeSlot slot).gen + 1) % 256) := by
        have hq : queueFor x s.notice = s.notice := by rw [← hxd]; rfl
        simp [postedId, hq, hslot]
      rw [← hxd] at hid ⊢
      simp [postAnswer, postsNotice, hid]
    rw [hact, hreply] at f
    have hnotice : x.notice h = ⟨.programme, .cancel, pr, sc, text, li, some key, 0⟩ := by
      simp [← hxd, Posting.notice, originOf, hport]
    obtain ⟨y, l⟩ := postCancel_left (h := h) ((a.findShow key).trans hsh) hcls (by rw [a.notice, hslot])
      (by rw [a.notice]; exact hs.2.2.2.2.2.2.1) (by rw [a.board]; exact hs.2.2.2.1) (by rw [a.shows]; exact hs.2.1)
    have hprio : x.prio = pr := by rw [← hxd]
    refine ⟨t, y, slot, _, hslot1, hslot2, hslot3, rfl, ⟨hxt, f.answered⟩, (f.findShow key).trans l.record,
      fun k hk => by rw [f.findShow, l.other k hk, a.findShow], l.state, ?_,
      fun i n hi => l.undelayed i n (f.noticeSlot i ▸ hi), fun i info life hi hu hk => ?_, ?_, f.showChange l.raised,
      f.published l.published, f.doorServed l.door, ?_, ?_, ?_, buffersKept_of a f l.quiet, ?_⟩
    · rw [f.noticeSlot, l.posted, hnotice, f.notice, noticeSlot_congr a.notice]
    · have hs1 : s1.holdSlot i = s.holdSlot i := by simp [State.holdSlot, a.seat]
      rw [f.holdSlot, l.holds i info life hi (hs1 ▸ hu) hk, hs1]
    · rw [f.chime, l.chime, hprio, a.chime, a.policy]
    · rw [f.journal, ← a.journal]
      exact l.filed
    · rw [f.blocks, l.blocks, a.blocks]
    · rw [f.link, l.steady, a.link]
    · exact onlyShowCauses_of a f l.causes

/-! ### A DELAY posting (R127) -/

theorem queueFor_delay {x : Posting} {key : Nat} (hc : x.cls = .delay) (hk : x.key = some key) (q : NoticeQueue) :
    queueFor x q = q.withoutDelay key := by
  simp [queueFor, hc, hk, NoticeQueue.withoutDelay]

/-- The show with its delay written (R127). -/
def Show.delayed (sh : Show) (d : Nat) : Show := { sh with delay := d }

/-- The queue a DELAY posting leaves before any filing (R127). -/
def delayQueue (h : Hdr) (x : Posting) (key d : Nat) (enters : Bool) (q : NoticeQueue) : NoticeQueue :=
  let q1 := if 0 < d then (q.withoutDelay key).post ((q.withoutDelay key).freeSlot.getD 0) (x.notice h)
    else q.withoutDelay key
  if enters then q1.withoutDelay key else q1

/-- The state a DELAY posting leaves before the filing of NOTICES (R127). -/
def delayWritten (h : Hdr) (x : Posting) (key d : Nat) (enters : Bool) (w : State) : State :=
  ((w.modifyShow key (fun y => y.delayed d)).withNotice (delayQueue h x key d enters w.notice)).withChime
    (if 0 < d ∧ x.prio = .high then w.chime.trigger w.policy.chimeEnable .attention else w.chime)

/-- The state a DELAY posting leaves before the change of the show's start is handed on (R127, log 10). -/
def delayFiled (h : Hdr) (x : Posting) (key d : Nat) (enters : Bool) (w : State) : State :=
  if 0 < d ∨ w.notice.withoutDelay key ≠ w.notice then fileNotices (delayWritten h x key d enters w)
  else delayWritten h x key d enters w

theorem postDelay_eq {h : Hdr} {x : Posting} {key : Nat} {sh : Show} {w : State} (hc : x.cls = .delay)
    (hk : x.key = some key) (hs : sh.key = key) : postDelay h x sh w =
      if delayAsked sh x.minutes = sh.delay
      then delayFiled h x key (delayAsked sh x.minutes) (entersRunning w sh (delayAsked sh x.minutes)) w
      else startChanged key sh.aud
        (delayFiled h x key (delayAsked sh x.minutes) (entersRunning w sh (delayAsked sh x.minutes)) w) := by
  subst hs
  have hwritten : withdrawPosted x sh (delayAsked sh x.minutes)
      (if 0 < delayAsked sh x.minutes
        then announce x (takeSlot h x ((w.withNotice (queueFor x w.notice)).modifyShow sh.key
          (fun y => y.delayed (delayAsked sh x.minutes))))
        else (w.withNotice (queueFor x w.notice)).modifyShow sh.key (fun y => y.delayed (delayAsked sh x.minutes))) =
      delayWritten h x sh.key (delayAsked sh x.minutes) (entersRunning w sh (delayAsked sh x.minutes)) w := by
    have hq := queueFor_delay hc hk
    by_cases hd : 0 < delayAsked sh x.minutes
    · rw [if_pos hd, announce_eq, withdrawPosted, hq, delayWritten, delayQueue, if_pos hd]
      simp only [hd, true_and, hq]
      show (if entersRunning w sh (delayAsked sh x.minutes) = true then _ else _) = _
      cases entersRunning w sh (delayAsked sh x.minutes) <;> rfl
    · rw [if_neg hd, withdrawPosted, hq, delayWritten, delayQueue, if_neg hd]
      simp only [hd, false_and, hq]
      show (if entersRunning w sh (delayAsked sh x.minutes) = true then _ else _) = _
      cases entersRunning w sh (delayAsked sh x.minutes) <;> rfl
  show (if delayAsked sh x.minutes = sh.delay then
      (if 0 < delayAsked sh x.minutes ∨ queueFor x w.notice ≠ w.notice then fileNotices (withdrawPosted x sh _ _)
        else withdrawPosted x sh _ _)
    else startChanged sh.key sh.aud
      (if 0 < delayAsked sh x.minutes ∨ queueFor x w.notice ≠ w.notice then fileNotices (withdrawPosted x sh _ _)
        else withdrawPosted x sh _ _)) = _
  rw [delayFiled, ← hwritten, queueFor_delay hc hk]
  rfl

section
variable {h : Hdr} {x : Posting} {key d slot : Nat} {enters : Bool} {q : NoticeQueue}

/-- No DELAY notice of the show is left but the one posted, and that one goes when its show enters RUNNING. -/
theorem delayQueue_none (hslot : 0 < d → (q.withoutDelay key).freeSlot = some slot) {i : Nat}
    (hi : 0 < d → enters = false → i ≠ slot) {n : Notice}
    (hn : ((delayQueue h x key d enters q).at_ i).notice = some n) : isDelayOf key n = false := by
  unfold delayQueue at hn
  cases henters : enters with
  | true =>
    rw [henters] at hn
    exact withoutDelay_none hn
  | false =>
    simp only [henters, Bool.false_eq_true, if_false] at hn
    split at hn
    · rename_i hd
      rw [hslot hd] at hn
      exact post_none_other (f := isDelayOf key) (fun _ _ => rfl) (fun m hm => withoutDelay_none hm) (hi hd henters) hn
    · exact withoutDelay_none hn

theorem delayQueue_posted (hd : 0 < d) (hslot : (q.withoutDelay key).freeSlot = some slot) (hl : q.slots.length = 32) :
    (delayQueue h x key d false q).at_ slot = ⟨((q.at_ slot).gen + 1) % 256,
      some { x.notice h with seq := (delayQueue h x key d false q).counter }⟩ := by
  have hlt : slot < (q.withoutDelay key).slots.length := by
    have := (freeSlot_eq_some.mp hslot).1
    rw [withoutDelay_length]
    omega
  simp only [delayQueue, if_pos hd, hslot, Option.getD_some, Bool.false_eq_true, if_false]
  rw [post_at_same (x.notice h) hlt, withoutDelay_gen]

theorem delayQueue_gone (hc : x.cls = .delay) (hk : x.key = some key) (hd : 0 < d)
    (hslot : (q.withoutDelay key).freeSlot = some slot) (hl : q.slots.length = 32) :
    (delayQueue h x key d true q).at_ slot = ⟨((q.at_ slot).gen + 1) % 256, none⟩ := by
  have he : delayQueue h x key d true q = (delayQueue h x key d false q).withoutDelay key := rfl
  rw [he, withoutDelay_at, delayQueue_posted hd hslot hl]
  simp [isDelayOf, Posting.notice, hc, hk, NoticeSlot.emptied]

theorem delayFiled_blocks (w : State) : delayFiled h x key d enters w =
    { w with shows := (w.modifyShow key (fun y => y.delayed d)).shows, notice := delayQueue h x key d enters w.notice,
             chime := (if 0 < d ∧ x.prio = .high then w.chime.trigger w.policy.chimeEnable .attention else w.chime),
             journal := (if 0 < d ∨ w.notice.withoutDelay key ≠ w.notice then w.journal.filed .notices .update
               else w.journal),
             link := (delayFiled h x key d enters w).link, ports := (delayFiled h x key d enters w).ports } := by
  unfold delayFiled
  split
  · apply state_eq <;> simp [fileNotices, file_journal, delayWritten]
  · rfl

theorem delayFiled_steady (w : State) : (delayFiled h x key d enters w).link.steady = w.link.steady ∧
    (delayFiled h x key d enters w).ports.quiet = w.ports.quiet ∧ OnlyForced w (delayFiled h x key d enters w) := by
  unfold delayFiled
  split
  · refine ⟨?_, ?_, OnlyForced.of_ports (t := delayWritten h x key d enters w) rfl (fileNotices_onlyForced _)⟩ <;>
      simp [delayWritten]
  · exact ⟨rfl, rfl, OnlyForced.of_ports (t := delayWritten h x key d enters w) rfl (OnlyForced.refl _)⟩

end

theorem findShow_delayed {key : Nat} {w : State} {sh : Show} (h : w.findShow key = some sh) (d k : Nat) :
    (w.modifyShow key (fun y => y.delayed d)).findShow k = if k = key then some (sh.delayed d) else w.findShow k := by
  by_cases hk : k = key
  · rw [if_pos hk, hk, findShow_modifyShow_same w key (fun y => y.delayed d) fun _ => rfl, h]
    rfl
  · rw [if_neg hk, findShow_modifyShow_other w key k (fun y => y.delayed d) (fun _ => rfl) hk]

/-- What a DELAY posting leaves of its show, the queue and the journal (R127). -/
structure DelayLeft (key d : Nat) (enters : Bool) (v u : State) (sh y : Show) (w : State) : Prop where
  record : u.findShow key = some y
  other : ∀ k, k ≠ key → u.findShow k = v.findShow k
  delay : y.delay = d
  past : y.state.pastAmending = enters
  still : dueTransition w.policy w.shows.clock (sh.delayed d) = none ∨ d = sh.delay → y = sh.delayed d
  notice : u.notice = v.notice
  unmoved : d = sh.delay → u.journal = v.journal
  filed : LinesFiled v.journal u.journal
  moved : d ≠ sh.delay → dueTransition u.policy u.shows.clock y = none ∧ Published key u ∧ DoorServed sh.aud u
  framed : Framed v u

theorem startChanged_framed (key aud : Nat) (v : State) : Framed v (startChanged key aud v) :=
  (framed_recomputeDoor aud v).trans ((framed_publish key [aud] _).trans (moved_evaluate true key _).framed)

theorem delayLeft {key d : Nat} {sh : Show} {w v : State} (hf : v.findShow key = some (sh.delayed d))
    (hp : v.policy = w.policy) (hc : v.shows.clock = w.shows.clock) (hearly : sh.state.pastAmending = false)
    (hq : entersRunning w sh d = true → v.notice.slotsWhere (isDelayOf key) = []) (hb : v.board.doors.length = 16)
    (hd : v.shows.doors.length = 16) :
    ∃ y, DelayLeft key d (entersRunning w sh d) v (if d = sh.delay then v else startChanged key sh.aud v) sh y w := by
  split
  · rename_i heq
    refine ⟨sh.delayed d, hf, fun _ _ => rfl, rfl, ?_, fun _ => rfl, rfl, fun _ => rfl, LinesFiled.refl _,
      fun hne => absurd heq hne, Framed.refl v⟩
    simp [entersRunning, heq, Show.delayed, hearly]
  · rename_i hne
    have m := (moved_recomputeDoor key sh.aud v).trans (moved_publish key key [sh.aud] (recomputeDoor v sh.aud))
    have hrec : (publishShow key [sh.aud] (recomputeDoor v sh.aud)).findShow key = some (sh.delayed d) :=
      (findShow_congr (s := recomputeDoor v sh.aud) (by simp) key).trans hf
    have hqueue : (publishShow key [sh.aud] (recomputeDoor v sh.aud)).notice = v.notice := by simp
    have hfiled : LinesFiled v.journal (publishShow key [sh.aud] (recomputeDoor v sh.aud)).journal :=
      publishShow_filed key [sh.aud] (recomputeDoor v sh.aud)
    have hpub : Published key (publishShow key [sh.aud] (recomputeDoor v sh.aud)) := by
      refine publishShow_published_of hb ((recomputeDoor_length v sh.aud).trans hd) fun z hz => ?_
      have : (recomputeDoor v sh.aud).findShow key = v.findShow key := rfl
      rw [this, hf] at hz
      simp [← Option.some.inj hz, Show.delayed]
    have hdoor : DoorServed (sh.delayed d).aud (publishShow key [sh.aud] (recomputeDoor v sh.aud)) :=
      publishShow_doorServed hb (by simp [Show.delayed]) fun h1 h2 => recomputeDoor_chosen v _ hd h1 h2
    have hstart : startChanged key sh.aud v = evaluate true key (publishShow key [sh.aud] (recomputeDoor v sh.aud)) := rfl
    have hframe := startChanged_framed key sh.aud v
    rw [hstart] at hframe ⊢
    generalize publishShow key [sh.aud] (recomputeDoor v sh.aud) = z at *
    have hpz : z.policy = w.policy := m.policy.trans hp
    have hcz : z.shows.clock = w.shows.clock := m.clock.trans hc
    have me := moved_evaluate true key z
    obtain ⟨y, hy, hsame⟩ := me.same _ hrec
    obtain ⟨y', hy', htimes⟩ := evaluate_record true key z _ hrec
    obtain rfl : y = y' := Option.some.inj (hy.symm.trans hy')
    have hpast : y.state.pastAmending = entersRunning w sh d := by
      rw [htimes.1, hpz, hcz, entersRunning, hearly, bne_iff_ne.mpr hne]
      rfl
    have hun : Unwithdrawn key z (evaluate true key z) := by
      cases hent : entersRunning w sh d with
      | true => exact .inl (by rw [hqueue, hq hent])
      | false => exact .inr fun y2 hy2 => by rw [← Option.some.inj (hy.symm.trans hy2), hpast, hent]
    obtain ⟨hnotice, hjournal⟩ := evaluate_quiet hun
    refine ⟨y, hy, fun k hk => (me.other k hk).trans (m.other k hk), by rw [hsame.record]; rfl, hpast,
      fun hor => ?_, hnotice.trans hqueue, fun he => absurd he hne, hfiled.trans hjournal,
      fun _ => ⟨evaluate_settles true key z y hy,
        evaluate_published key z (m.images.trans hb) (m.doors.trans hd) hpub,
        evaluate_doorServed_own (sh := sh.delayed d) hrec (m.images.trans hb) (m.doors.trans hd) hdoor⟩, hframe⟩
    have hdue := hor.resolve_right hne
    rw [evaluate_fixed true key z fun y2 hy2 => by
      rw [← Option.some.inj (hrec.symm.trans hy2), hpz, hcz, hdue], hrec] at hy
    exact (Option.some.inj hy).symm

/-- The answer to a DELAY posting taken (R121, R127). -/
theorem postAnswer_delay {x : Posting} {key d slot : Nat} {s : State} {sh : Show} {life : LifeArg} (hc : x.cls = .delay)
    (hk : x.key = some key) (hsh : s.findShow key = some sh) (hd : delayAsked sh x.minutes = d)
    (hslot : 0 < d → (s.notice.withoutDelay key).freeSlot = some slot) : postAnswer s life x =
      okMarked (lifeClamped life || d != x.minutes)
        (if 0 < d then w1 slot ++ w1 (((s.noticeSlot slot).gen + 1) % 256) ++ w1 x.life.minutes else []) := by
  have hid : 0 < d → postedId x s = (slot, ((s.noticeSlot slot).gen + 1) % 256) := fun hpos => by
    simp [postedId, queueFor_delay hc hk, hslot hpos]
  have hnamed : namedShow s x = some sh := by simp [namedShow, hk, hsh]
  simp only [postAnswer, postsNotice, hnamed, hc, hd, decide_eq_true_eq]
  split
  · rw [hid ‹_›]
  · rfl

theorem delayPosted (h : Hdr) (prio : Nat) (scope : ScopeArg) (text : List Byte) (life : LifeArg) (key minutes : Nat)
    (s : State) (hs : Sized s) :
    TakenOrRefused (.postNotice h 2 prio scope text life (some key) (some minutes)) h 10 s
      [(fieldsBad prio scope text life, .badArgument), (decide (h.port ≠ .programme), .notPermitted),
       ((s.findShow key).isNone, .noSuchShow),
       ((s.findShow key).any (fun sh =>
          sh.state == .running || sh.state == .closed || sh.state == .ended || sh.state == .cancelled), .notDelayable),
       ((s.findShow key).any (fun sh => decide (0 < Nat.min minutes (Nat.min 180 (1439 - sh.start))) &&
          (List.range 31).all (fun i => (s.noticeSlot i).notice.any (fun n => !isDelayOf key n))), .noticeFull)]
      (∀ sh pr sc li d, s.findShow key = some sh → priorityOf prio = some pr → scopeOf scope = some sc →
        lifeOf life = some li → d = Nat.min minutes (Nat.min 180 (1439 - sh.start)) → ∃ t y body,
        Takes (.postNotice h 2 prio scope text life (some key) (some minutes)) s h 10
          (okMarked (lifeClamped life || d != minutes) body) t ∧
        t.findShow key = some y ∧ (∀ k, k ≠ key → t.findShow k = s.findShow k) ∧ y.delay = d ∧
        (d = 0 → body = [] ∧ ∀ i n, (t.noticeSlot i).notice = some n → isDelayOf key n = false) ∧
        (dueTransition s.policy s.shows.clock { sh with delay := d } = none ∨ d = sh.delay → y = { sh with delay := d }) ∧
        (0 < d → ∃ slot gen, slot < 31 ∧ (s.noticeSlot slot).notice.any (fun n => !isDelayOf key n) = false ∧
          (∀ i, i < slot → (s.noticeSlot i).notice.any (fun n => !isDelayOf key n) = true) ∧
          gen = ((s.noticeSlot slot).gen + 1) % 256 ∧ body = w1 slot ++ w1 gen ++ w1 li.minutes ∧
          (∀ i n, i ≠ slot → (t.noticeSlot i).notice = some n → isDelayOf key n = false) ∧
          (y.state = .loaded ∨ y.state = .onSale ∨ y.state = .seating →
            t.noticeSlot slot = ⟨gen, some ⟨.programme, .delay, pr, sc, text, li, some key, t.notice.counter⟩⟩) ∧
          (y.state = .running ∨ y.state = .closed ∨ y.state = .ended → t.noticeSlot slot = ⟨gen, none⟩)) ∧
        (d = sh.delay → t.journal = if 0 < d ∨ (liveNotices s.notice).any (fun x => isDelayOf key x.2.2)
          then s.journal.filed .notices .update else s.journal) ∧
        LinesFiled (if 0 < d ∨ (liveNotices s.notice).any (fun x => isDelayOf key x.2.2)
          then s.journal.filed .notices .update else s.journal) t.journal ∧
        (d ≠ sh.delay → dueTransition t.policy t.shows.clock y = none ∧ Published key t ∧ DoorServed sh.aud t) ∧
        t.chime = (if 0 < d ∧ pr = .high then s.chime.trigger s.policy.chimeEnable .attention else s.chime) ∧
        t = { s with seat := t.seat, shows := t.shows, board := t.board, notice := t.notice, chime := t.chime,
                     journal := t.journal, link := t.link, ports := t.ports } ∧
        t.link.steady = s.link.steady ∧ BuffersKept h.port s t ∧ OnlyShowCauses s t) := by
  cases hb : fieldsBad prio scope text life with
  | true =>
    exact takenOrRefused_denied (postNotice h 2 prio scope text life (some key) (some minutes)) rfl rfl fun q => by
      simp only [postNotice, postingOf_bad (some key) hb]
  | false =>
    obtain ⟨⟨pr, hpr⟩, ⟨sc, hsc⟩, ⟨li, hli⟩⟩ := fieldsBad_eq_false hb
    have hx := postingOf_good (key := key) (minutes := some minutes) hb (c := .delay) (cls := 2) rfl rfl (by simp) hpr
      hsc hli
    generalize hxd : (⟨.delay, pr, sc, text, li, some key, (some minutes).getD 0⟩ : Posting) = x at hx
    have hcls : x.cls = .delay := by rw [← hxd]
    have hkey : x.key = some key := by rw [← hxd]
    have hasked : ∀ sh, delayAsked sh x.minutes = Nat.min minutes (Nat.min 180 (1439 - sh.start)) := fun sh => by
      rw [← hxd]
      rfl
    have hbad : ∀ sh, stateRefusal x.cls sh =
        if sh.state == .running || sh.state == .closed || sh.state == .ended || sh.state == .cancelled
        then some .notDelayable else none := fun sh => by
      rw [hcls, ← pastAmending_eq]
      rfl
    have hfree : (queueFor x s.notice).freeSlot.isNone =
        (List.range 31).all (fun i => (s.noticeSlot i).notice.any (fun n => !isDelayOf key n)) := by
      rw [queueFor_delay hcls hkey, freeSlot_isNone]
      simp only [withoutDelay_isSome]
      rfl
    refine takenOrRefused_of (postNotice h 2 prio scope text life (some key) (some minutes))
      (showPosted h x (s.findShow key)) (postAnswer s life x) rfl rfl
      (fun q => postNotice_owner hx (.inl hcls) hkey hbad (fun sh hsh => ?_) q) fun s1 t hn a hxt f => ?_
    · rw [hfree, hsh, Option.any_some, ← hasked]
      simp [postsNotice, hcls]
    rintro sh pr' sc' li' d hsh hpr' hsc' hli' hd
    obtain rfl : pr = pr' := Option.some.inj (hpr.symm.trans hpr')
    obtain rfl : sc = sc' := Option.some.inj (hsc.symm.trans hsc')
    obtain rfl : li = li' := Option.some.inj (hli.symm.trans hli')
    have hda : delayAsked sh x.minutes = d := (hasked sh).trans hd.symm
    have hn := firstRefusal_eq_none.mp (firstRefusal_tail hn)
    have hport : h.port = .programme := by simpa using hn _ (.head _)
    have hearly : sh.state.pastAmending = false := by
      rw [pastAmending_eq]
      simpa only [hsh, Option.any_some] using hn _ (.tail _ (.tail _ (.head _)))
    obtain ⟨slot, hslot⟩ : ∃ slot, 0 < d → (s.notice.withoutDelay key).freeSlot = some slot := by
      have hfull := hn _ (.tail _ (.tail _ (.tail _ (.head _))))
      rw [hsh] at hfull
      simp only [Option.any_some, ← hd, ← hfree, queueFor_delay hcls hkey] at hfull
      refine ⟨(s.notice.withoutDelay key).freeSlot.getD 0, fun hpos => ?_⟩
      rw [decide_eq_true hpos, Bool.true_and, Option.isNone_eq_false_iff] at hfull
      obtain ⟨i, hi⟩ := Option.isSome_iff_exists.mp hfull
      rw [hi]
      rfl
    have hact : showPosted h x (s.findShow key) s1 = if d = sh.delay
        then delayFiled h x key d (entersRunning s1 sh d) s1
        else startChanged key sh.aud (delayFiled h x key d (entersRunning s1 sh d) s1) := by
      rw [hsh, ← hda]
      simp only [showPosted, hcls]
      exact postDelay_eq hcls hkey (findShow_key hsh)
    have hreply : postAnswer s life x = okMarked (lifeClamped life || d != minutes)
        (if 0 < d then w1 slot ++ w1 (((s.noticeSlot slot).gen + 1) % 256) ++ w1 li.minutes else []) := by
      have hanswer := postAnswer_delay (life := life) hcls hkey hsh hda hslot
      rw [← hxd] at hanswer ⊢
      exact hanswer
    rw [hact, hreply] at f
    have hblocks := delayFiled_blocks (h := h) (x := x) (key := key) (d := d) (enters := entersRunning s1 sh d) s1
    obtain ⟨hsteady, hquiet, hforced⟩ :=
      delayFiled_steady (h := h) (x := x) (key := key) (d := d) (enters := entersRunning s1 sh d) s1
    generalize delayFiled h x key d (entersRunning s1 sh d) s1 = v at *
    have hfind : ∀ k, v.findShow k = if k = key then some (sh.delayed d) else s.findShow k := fun k => by
      rw [findShow_congr (congrArg State.shows hblocks), ← a.findShow]
      exact findShow_delayed ((a.findShow key).trans hsh) d k
    have hvq : v.notice = delayQueue h x key d (entersRunning s1 sh d) s.notice := by rw [hblocks, a.notice]
    obtain ⟨y, l⟩ := delayLeft (w := s1) (d := d) ((hfind key).trans (if_pos rfl)) (by rw [hblocks]) (by rw [hblocks]; rfl)
      hearly (fun he => by
        rw [hvq, slotsWhere_eq_nil]
        exact fun i n => delayQueue_none hslot fun _ hne => absurd (he.symm.trans hne) (by simp))
      (by rw [hblocks, a.board]; exact hs.2.2.2.1)
      (by rw [hblocks]; exact (congrArg _ (congrArg _ a.shows)).trans hs.2.1)
    generalize (if d = sh.delay then v else startChanged key sh.aud v) = u at *
    have htn : t.notice = delayQueue h x key d (entersRunning s1 sh d) s.notice := by rw [f.notice, l.notice, hvq]
    have htslot : ∀ i, t.noticeSlot i = (delayQueue h x key d (entersRunning s1 sh d) s.notice).at_ i := fun i => by
      rw [noticeSlot_eq, htn]
    have hvj : v.journal = if 0 < d ∨ (liveNotices s.notice).any (fun x => isDelayOf key x.2.2)
        then s.journal.filed .notices .update else s.journal := by
      rw [hblocks, a.notice, a.journal]
      refine if_congr (or_congr_right ?_) rfl rfl
      rw [ne_eq, withoutDelay_eq, Bool.not_eq_false]
    refine ⟨t, y, _, ⟨hxt, f.answered⟩, (f.findShow key).trans l.record,
      fun k hk => by rw [f.findShow, l.other k hk, hfind, if_neg hk], l.delay, fun hz => ⟨if_neg (by omega), fun i n hi => ?_⟩,
      fun hor => l.still (by rw [a.policy, a.shows]; exact hor), fun hpos => ?_,
      fun he => by rw [f.journal, l.unmoved he, hvj], by rw [f.journal, ← hvj]; exact l.filed, fun hne => ?_, ?_, ?_, ?_,
      buffersKept_of a f (l.framed.quiet.trans hquiet),
      onlyShowCauses_of a f ((OnlyShowCauses.of_forced hforced).trans l.framed.causes)⟩
    · rw [htslot] at hi
      exact delayQueue_none hslot (fun hpos => absurd hpos (by omega)) hi
    · obtain ⟨hslot1, hslot2, hslot3⟩ := freeSlot_eq_some.mp (hslot hpos)
      have hlen : s.notice.slots.length = 32 := hs.2.2.2.2.2.2.1
      refine ⟨slot, _, hslot1, ?_, fun i hi => ?_, rfl, if_pos hpos, fun i n hne hi => ?_, fun hst => ?_, fun hst => ?_⟩
      · rw [noticeSlot_eq, ← withoutDelay_isSome, hslot2]
        rfl
      · rw [noticeSlot_eq, ← withoutDelay_isSome]
        exact hslot3 i hi
      · rw [htslot] at hi
        exact delayQueue_none hslot (fun _ _ => hne) hi
      · have hent : entersRunning s1 sh d = false := by
          rw [← l.past]
          rcases hst with hst | hst | hst <;> rw [hst] <;> rfl
        rw [htslot, htn, hent, delayQueue_posted hpos (hslot hpos) hlen, ← hxd]
        simp [Posting.notice, originOf, hport]
        rfl
      · have hent : entersRunning s1 sh d = true := by
          rw [← l.past]
          rcases hst with hst | hst | hst <;> rw [hst] <;> rfl
        rw [htslot, hent, delayQueue_gone hcls hkey hpos (hslot hpos) hlen]
        rfl
    · obtain ⟨hdue, hpub, hdoor⟩ := l.moved hne
      exact ⟨f.due hdue, f.published hpub, f.doorServed hdoor⟩
    · have hprio : x.prio = pr := by rw [← hxd]
      have hchime : u.chime = v.chime := by rw [l.framed.blocks]
      rw [f.chime, hchime, hblocks, hprio, a.chime, a.policy]
    · rw [f.blocks, l.framed.blocks, hblocks, a.blocks]
    · rw [f.link, l.framed.steady, hsteady, a.link]

/-- Settles O49: a DELAY posting by its queue and the change of start, a CANCEL posting by the entry of CANCELLED. -/
theorem delayAndCancelNotices : Obligations.DelayAndCancelNotices := by
  intro h prio scope text life key minutes s hs b hb
  subst hb
  exact ⟨delayPosted h prio scope text life key minutes s hs, cancelPosted h prio scope text life key s hs⟩

end Sys2Proof.Machine

/-! ## The 1 s tick (O15) -/

namespace Sys2Proof.Machine

/-! ### Receivers in any order -/

theorem perm_completeOrder {α : Type} [DecidableEq α] (given all : List α) : (completeOrder given all).Perm all := by
  induction given generalizing all with
  | nil => exact List.Perm.refl _
  | cons x given ih =>
    unfold completeOrder
    split
    · rename_i h
      exact ((ih (all.erase x)).cons x).trans (List.perm_cons_erase (by simpa using h)).symm
    · exact ih all

/-- One receiver brings a fact about, the others keep its premise before and the fact itself after. -/
theorem foldl_once {α σ : Type} {f : σ → α → σ} (A B : σ → Prop) (r : α) (hr : ∀ s, A s → B (f s r))
    (hA : ∀ s x, x ≠ r → A s → A (f s x)) (hB : ∀ s x, x ≠ r → B s → B (f s x)) {l : List α} (hn : l.Nodup)
    (hm : r ∈ l) {s : σ} (h : A s) : B (l.foldl f s) := by
  induction l generalizing s with
  | nil => cases hm
  | cons x l ih =>
    obtain ⟨hx, hn⟩ := List.nodup_cons.mp hn
    by_cases he : x = r
    · subst he
      have after : ∀ (m : List α), x ∉ m → ∀ u, B u → B (m.foldl f u) := fun m => by
        induction m with
        | nil => exact fun _ _ hu => hu
        | cons y m ihm =>
          intro hm u hu
          obtain ⟨hy, hm⟩ := not_or.mp (fun hc => hm (List.mem_cons.mpr hc))
          exact ihm hm _ (hB u y (Ne.symm hy) hu)
      exact after l hx _ (hr s h)
    · exact ih hn ((List.mem_cons.mp hm).resolve_left (Ne.symm he)) (hA s x he h)

/-! ### Idle times under filings -/

/-- What no filing changes of a panel's idle time and of its being ABSENT (R172, R185, R186). -/
def Panel.face (p : Panel) : Nat × Bool := (p.idle, p.state == .absent)

def State.faces (s : State) : List (Nat × Bool) := s.link.panels.map Panel.face

theorem faces_congr {s t : State} (h : t.link = s.link) : t.faces = s.faces := by simp [State.faces, h]

theorem face_classify {p : Panel} (h : p.isServed = true) (j : Journal) : (p.classify j).face = p.face := by
  have hp : (p.state == .absent) = false := by
    unfold Panel.isServed at h
    cases hs : p.state <;> simp_all
  have hs : p.toSyncing.face = p.face := by
    simp only [Panel.face, hp]
    unfold Panel.toSyncing
    split <;> rfl
  unfold Panel.classify
  split
  · exact hs
  · split <;> simp [Panel.face, hp]

theorem face_handOff (j : Journal) (p : Panel) : (p.handOff j).face = p.face := by
  have hr : ∀ (n : Nat) (x : Panel), (x.restartBelow n).face = x.face := fun n x => by
    unfold Panel.restartBelow
    split
    · split <;> rfl
    · rfl
  unfold Panel.handOff
  rw [hr]
  split
  · rename_i h
    exact face_classify ((Bool.and_eq_true _ _).mp h).1 j
  · rfl

theorem face_atWrap (p : Panel) : p.atWrap.face = p.face := by
  unfold Panel.atWrap Panel.face
  cases p.state <;> rfl

theorem faces_map (s : State) (f : Panel → Panel) (hf : ∀ p, (f p).face = p.face) (l : PanelLink)
    (hl : l.panels = s.link.panels.map f) : (s.withLink l).faces = s.faces := by
  simp only [State.faces, withLink_link, hl, List.map_map]
  exact List.map_congr_left fun p _ => hf p

theorem file_faces (t : Target) (f : Form) (s : State) : (file t f s).faces = s.faces := by
  have hs : ∀ u : State, u.link = s.link → (panelsAtWrap u).faces = s.faces ∧ (handOff u).faces = s.faces := fun u hu =>
    ⟨(faces_map u _ face_atWrap _ rfl).trans (faces_congr hu),
      (faces_map u _ (face_handOff u.journal) _ rfl).trans (faces_congr hu)⟩
  simp only [file]
  split
  · exact (hs _ (by split <;> simp)).1
  · exact (hs _ (by split <;> simp)).2

theorem publishLine_faces (k : Nat) (s : State) : (publishLine k s).faces = s.faces := by
  have hfile : ∀ t f l, (file t f (s.withLines l)).faces = s.faces := fun t f l =>
    (file_faces t f _).trans (faces_congr rfl)
  unfold publishLine
  split
  · rfl
  · exact hfile _ _ _
  · split
    · rfl
    · exact hfile _ _ _
  · exact hfile _ _ _

theorem publishDoor_faces (a : Nat) (s : State) : (publishDoor a s).faces = s.faces := by
  unfold publishDoor
  split
  · rfl
  · exact (file_faces _ _ _).trans (faces_congr rfl)

theorem publishShow_faces (key : Nat) (auds : List Nat) (s : State) : (publishShow key auds s).faces = s.faces :=
  (foldl_keep State.faces _ (fun s k => publishLine_faces k s) _ _).trans
    ((foldl_keep State.faces _ (fun s a => publishDoor_faces a s) _ _).trans (publishLine_faces key s))

theorem availability_faces (key : Nat) (s : State) : (availability key s).faces = s.faces :=
  (publishShow_faces _ _ _).trans (faces_congr rfl)

theorem panelAt_face (s : State) (a : Nat) :
    (s.panelAt a).face = ((s.faces)[a - 1]?).getD (Panel.ofConfig .default).face := by
  simp only [State.panelAt, State.faces, List.getElem?_map]
  cases (s.link.panels)[a - 1]? <;> rfl

/-! ### One hold and one reel of the tick -/

/-- A slot one second later, while lives are counted (R66, R67). -/
def HoldSlot.ticked (x : HoldSlot) : HoldSlot :=
  match x.use with
  | .active info life => ⟨x.gen, if life ≤ 1 then .ended info .expired else .active info (life - 1)⟩
  | _ => x

theorem endHold_seat (i : Nat) (r : EndReason) (w : State) (h : (w.holdSlot i).isActive = true) :
    (endHold i r w).seat = w.seat.release i r := by
  unfold endHold
  split
  · rfl
  · rename_i hn
    unfold HoldSlot.isActive at h
    split at h
    · exact absurd ‹_› (hn _ _)
    · cases h

theorem ticked_active {x : HoldSlot} {info : HoldInfo} {life : Nat} (h : x.use = .active info life) :
    x.ticked = ⟨x.gen, if life ≤ 1 then .ended info .expired else .active info (life - 1)⟩ := by
  unfold HoldSlot.ticked
  rw [h]

theorem ticked_of_not_active {x : HoldSlot} (h : ∀ info life, x.use ≠ .active info life) : x.ticked = x := by
  unfold HoldSlot.ticked
  split
  · rename_i hu
    exact absurd hu (h _ _)
  · rfl

theorem tickSlot_slot {i : Nat} {w : State} (hl : i < w.seat.slots.length) (j : Nat) :
    (tickSlot i w).holdSlot j = if j = i then (w.holdSlot i).ticked else w.holdSlot j := by
  have hget : (w.seat.slots)[i]? = some (w.holdSlot i) := by
    rw [State.holdSlot, List.getElem?_eq_getElem hl]
    rfl
  unfold tickSlot
  split
  · rename_i info life hu
    rw [ticked_active hu]
    split
    · have hseat : (expireHold i w).seat = w.seat.release i .expired := by
        rw [← endHold_seat i .expired w (by simp [HoldSlot.isActive, hu])]
        simp [expireHold, hu]
      rw [State.holdSlot, hseat, release_slot _ _ _ _ hl, hget, Option.map_some, hu]
      split <;> rfl
    · have hslots : (w.withHoldSlot i ⟨(w.holdSlot i).gen, .active info (life - 1)⟩).seat.slots =
          w.seat.slots.set i ⟨(w.holdSlot i).gen, .active info (life - 1)⟩ := rfl
      rw [State.holdSlot, hslots, List.getElem?_set]
      by_cases hj : j = i
      · simp [hj, hl]
      · rw [if_neg (Ne.symm hj), if_neg hj]
        rfl
  · rename_i hn
    rw [ticked_of_not_active fun info life hu => hn info life hu]
    split
    · rw [‹j = i›]
    · rfl

theorem expireHold_faces (i : Nat) (s : State) : (expireHold i s).faces = s.faces := by
  unfold expireHold
  split
  · exact (availability_faces _ _).trans (faces_congr (by simp))
  · rfl

theorem tickSlot_faces (i : Nat) (s : State) : (tickSlot i s).faces = s.faces := by
  unfold tickSlot
  split
  · split
    · exact expireHold_faces i s
    · rfl
  · rfl

theorem endHold_clock (i : Nat) (r : EndReason) (s : State) : (endHold i r s).shows.clock = s.shows.clock := by
  unfold endHold
  split <;> rfl

theorem expireHold_clock (i : Nat) (s : State) : (expireHold i s).shows.clock = s.shows.clock := by
  unfold expireHold
  split
  · rw [(availability_framed _ _).clock, (raise_frame _ _ _).2.2.1, endHold_clock]
  · rfl

theorem tickSlot_clock (i : Nat) (s : State) : (tickSlot i s).shows.clock = s.shows.clock := by
  unfold tickSlot
  split
  · split
    · exact expireHold_clock i s
    · rfl
  · rfl

theorem reelAt_withReelAt {s : State} {r : Nat} (h : r < s.reel.reels.length) (x : Reel) (q : Nat) :
    (s.withReelAt r x).reelAt q = if q = r then x else s.reelAt q := by
  simp only [State.reelAt, withReelAt_reel, List.getElem?_set]
  by_cases hq : q = r
  · simp [hq, h]
  · rw [if_neg (Ne.symm hq), if_neg hq]

/-- A reel a second later, short of the end of its item (R104). -/
theorem tickReel_running {r : Nat} {s : State} (hl : r < s.reel.reels.length) (hr : (s.reelAt r).runs = true)
    (hc : 1 < (s.reelAt r).countdown) :
    (tickReel r s).reelAt r = { s.reelAt r with countdown := (s.reelAt r).countdown - 1 } := by
  rw [tickReel, if_pos hr, if_neg (by omega), reelAt_withReelAt hl, if_pos rfl]

theorem tickReel_still {r : Nat} {s : State} (hr : (s.reelAt r).runs = false) : tickReel r s = s := by
  rw [tickReel, if_neg (by simp [hr])]

theorem reelAt_congr {s t : State} (h : t.reel = s.reel) (q : Nat) : t.reelAt q = s.reelAt q := by
  simp [State.reelAt, h]

theorem tickReel_other {r q : Nat} {s : State} (hq : q ≠ r) : (tickReel r s).reelAt q = s.reelAt q := by
  have hw : ∀ x, (s.withReelAt r x).reelAt q = s.reelAt q := fun x => by
    simp only [State.reelAt, withReelAt_reel, List.getElem?_set_ne (Ne.symm hq)]
  unfold tickReel
  split
  · split
    · exact (reelAt_congr (s := s.withReelAt r (cued s false (s.reelAt r))) (by simp [cueReel, fileReel]) q).trans (hw _)
    · exact hw _
  · rfl

theorem tickReel_faces (r : Nat) (s : State) : (tickReel r s).faces = s.faces := by
  unfold tickReel
  split
  · split
    · exact (file_faces _ _ _).trans (faces_congr rfl)
    · rfl
  · rfl

/-! ### Each receiver's share of a second tick that brings no boundary -/

/-- The clock one second on, short of a boundary (R7). -/
def Clock.nextSecond (c : Clock) : Clock := if c.valid then { c with second := c.second + 1 } else c

/-- One receiver's share of a 1 s tick that brings no boundary. -/
def secondShare (r : SecReceiver) (s : State) : State :=
  match r with
  | .clock => s.withClock s.shows.clock.nextSecond
  | .seat => seatTick s
  | .reel => reelTick s
  | .link => idleTick s

theorem seatTick_clock (s : State) : (seatTick s).shows.clock = s.shows.clock := by
  unfold seatTick
  split
  · exact foldl_keep (fun t : State => t.shows.clock) _ (fun s i => tickSlot_clock i s) _ s
  · rfl

theorem secondShare_clock {r : SecReceiver} (h : r ≠ .clock) (s : State) :
    (secondShare r s).shows.clock = s.shows.clock := by
  cases r with
  | clock => exact absurd rfl h
  | seat => exact seatTick_clock s
  | reel => simp [secondShare]
  | link => rfl

theorem clockTick_eq {s : State} (h : s.shows.clock.valid = true → s.shows.clock.second < 59) (o : List MinReceiver) :
    clockTick o s = s.withClock s.shows.clock.nextSecond := by
  unfold clockTick Clock.nextSecond
  split
  · rename_i hv
    rw [if_neg (by have := h hv; omega)]
  · rfl

/-- Short of a boundary a tick is its receivers' shares, each taken once. -/
theorem tick1s_eq {s : State} (h : s.shows.clock.valid = true → s.shows.clock.second < 59) (order : List SecReceiver)
    (minute : List MinReceiver) :
    tick1s order minute s = (completeOrder order allSec).foldl (fun s r => secondShare r s) s := by
  have fold : ∀ (l : List SecReceiver), l.Nodup → ∀ u : State, (.clock ∈ l → u.shows.clock = s.shows.clock) →
      l.foldl (fun s r => secTickAt minute r s) u = l.foldl (fun s r => secondShare r s) u := fun l => by
    induction l with
    | nil => exact fun _ _ _ => rfl
    | cons r l ih =>
      intro hn u hu
      obtain ⟨hr, hn⟩ := List.nodup_cons.mp hn
      have hone : secTickAt minute r u = secondShare r u := by
        cases r with
        | clock => exact clockTick_eq (by rw [hu (.head _)]; exact h) minute
        | _ => rfl
      rw [List.foldl_cons, List.foldl_cons, hone]
      refine ih hn _ fun hm => ?_
      have hne : r ≠ .clock := fun he => hr (he ▸ hm)
      rw [secondShare_clock hne, hu (.tail _ hm)]
  exact fold _ ((perm_completeOrder order allSec).nodup_iff.mpr (by decide)) s fun _ => rfl

theorem secondShare_frame (r : SecReceiver) (s : State) : (secondShare r s).house = s.house ∧
    (secondShare r s).notice = s.notice ∧ (secondShare r s).chime = s.chime ∧ (secondShare r s).policy = s.policy := by
  cases r <;> simp [secondShare]

theorem secondShare_seat {r : SecReceiver} (h : r ≠ .seat) (s : State) : (secondShare r s).seat = s.seat := by
  cases r with
  | seat => exact absurd rfl h
  | _ => simp [secondShare]

theorem secondShare_reel {r : SecReceiver} (h : r ≠ .reel) (s : State) : (secondShare r s).reel = s.reel := by
  cases r with
  | reel => exact absurd rfl h
  | _ => simp [secondShare]

theorem secondShare_faces {r : SecReceiver} (h : r ≠ .link) (s : State) : (secondShare r s).faces = s.faces := by
  cases r with
  | link => exact absurd rfl h
  | clock => rfl
  | seat =>
    show (seatTick s).faces = s.faces
    unfold seatTick
    split
    · exact foldl_keep State.faces _ (fun s i => tickSlot_faces i s) _ s
    · rfl
  | reel =>
    show (reelTick s).faces = s.faces
    unfold reelTick
    split
    · exact foldl_keep State.faces _ (fun s i => tickReel_faces i s) _ s
    · rfl

theorem secondShare_sized (r : SecReceiver) {s : State} (h : Sized s) : Sized (secondShare r s) :=
  h.of_extents (by cases r <;> simp [secondShare])

theorem seatTick_slot {s : State} (ha : s.house.alert = .normal) (hs : Sized s) {i : Nat} (hi : i < 192) :
    (seatTick s).holdSlot i = (s.holdSlot i).ticked := by
  have hsized : ∀ (u : State) j, Sized u → Sized (tickSlot j u) := fun u j hu => hu.of_extents (tickSlot_extents j u)
  have hslot : ∀ (u : State) j, Sized u → j < 192 → (tickSlot j u).holdSlot i =
      if i = j then (u.holdSlot j).ticked else u.holdSlot i := fun u j hu hj =>
    tickSlot_slot (by rw [hu.2.2.1]; exact hj) i
  have hkeep : ∀ (u : State) j, j ≠ i → Sized u → (tickSlot j u).holdSlot i = u.holdSlot i := fun u j hj hu => by
    by_cases hl : j < 192
    · rw [hslot u j hu hl, if_neg (Ne.symm hj)]
    · have hnone : tickSlot j u = u := by
        have : (u.holdSlot j).use = .never := by
          rw [State.holdSlot, List.getElem?_eq_none (by rw [hu.2.2.1]; omega)]
          rfl
        unfold tickSlot
        rw [this]
      rw [hnone]
  rw [seatTick, if_pos ha]
  exact (foldl_once (f := fun s i => tickSlot i s) (fun u => Sized u ∧ u.holdSlot i = s.holdSlot i)
    (fun u => Sized u ∧ u.holdSlot i = (s.holdSlot i).ticked) i
    (fun u hu => ⟨hsized u i hu.1, by rw [hslot u i hu.1 hi, if_pos rfl, hu.2]⟩)
    (fun u j hj hu => ⟨hsized u j hu.1, (hkeep u j hj hu.1).trans hu.2⟩)
    (fun u j hj hu => ⟨hsized u j hu.1, (hkeep u j hj hu.1).trans hu.2⟩) List.nodup_range (List.mem_range.mpr hi)
    ⟨hs, rfl⟩).2

theorem reelTick_running {s : State} (ha : s.house.alert = .normal) (hs : Sized s) {r : Nat} (hr : r < 4)
    (hruns : (s.reelAt r).runs = true) (hc : 1 < (s.reelAt r).countdown) :
    (reelTick s).reelAt r = { s.reelAt r with countdown := (s.reelAt r).countdown - 1 } := by
  have hsized : ∀ (u : State) j, Sized u → Sized (tickReel j u) := fun u j hu => hu.of_extents (tickReel_extents j u)
  rw [reelTick, if_pos ha]
  exact (foldl_once (f := fun s i => tickReel i s) (fun u => Sized u ∧ u.reelAt r = s.reelAt r)
    (fun u => Sized u ∧ u.reelAt r = { s.reelAt r with countdown := (s.reelAt r).countdown - 1 }) r
    (fun u hu => ⟨hsized u r hu.1, by
      rw [tickReel_running (by rw [hu.1.2.2.2.2.2.1]; exact hr) (by rw [hu.2]; exact hruns) (by rw [hu.2]; exact hc), hu.2]⟩)
    (fun u j hj hu => ⟨hsized u j hu.1, (tickReel_other (Ne.symm hj)).trans hu.2⟩)
    (fun u j hj hu => ⟨hsized u j hu.1, (tickReel_other (Ne.symm hj)).trans hu.2⟩) List.nodup_range
    (List.mem_range.mpr hr) ⟨hs, rfl⟩).2

theorem reelTick_still {s : State} {r : Nat} (hr : (s.reelAt r).runs = false) : (reelTick s).reelAt r = s.reelAt r := by
  unfold reelTick
  split
  · refine foldl_inv (fun u : State => u.reelAt r = s.reelAt r) _ (fun u j hu => ?_) _ s rfl
    by_cases hj : r = j
    · subst hj
      rw [tickReel_still (by rw [hu, hr]), hu]
    · exact (tickReel_other hj).trans hu
  · rfl

theorem idleTick_idle {s : State} (hs : Sized s) {a : Nat} (h1 : 1 ≤ a) (h2 : a ≤ 24)
    (hp : (s.panelAt a).state ≠ .absent) : ((idleTick s).panelAt a).idle = Nat.min 300 ((s.panelAt a).idle + 1) := by
  have hlt : a - 1 < s.link.panels.length := by
    rw [hs.2.2.2.2.2.2.2.2.2.1]
    omega
  have hat : (idleTick s).panelAt a = (s.panelAt a).idleTick := by
    simp [State.panelAt, idleTick, hlt]
  rw [hat, Panel.idleTick, if_neg hp]

/-- Settles O15: a tick is its receivers' shares, each taken once, and each fact is of one share's doing. -/
theorem secondTick : Obligations.SecondTick := by
  intro order minute s hs hphase hclock
  have hl := perm_completeOrder order allSec
  have hn : (completeOrder order allSec).Nodup := hl.nodup_iff.mpr (by decide)
  have hm : ∀ r : SecReceiver, r ∈ completeOrder order allSec := fun r => hl.mem_iff.mpr (by cases r <;> decide)
  have inv : ∀ P : State → Prop, (∀ r u, P u → P (secondShare r u)) → P s →
      P ((completeOrder order allSec).foldl (fun s r => secondShare r s) s) := fun P h =>
    foldl_inv P _ (fun u r hu => h r u hu) _ s
  have once : ∀ (r : SecReceiver) (A B : State → Prop), (∀ u, A u → B (secondShare r u)) →
      (∀ u x, x ≠ r → A u → A (secondShare x u)) → (∀ u x, x ≠ r → B u → B (secondShare x u)) → A s →
      B ((completeOrder order allSec).foldl (fun s r => secondShare r s) s) := fun r A B hr hA hB =>
    foldl_once A B r hr hA hB hn (hm r)
  refine ⟨_, congrArg Host.Outcome.next ((if_neg hphase).trans (tick1s_eq hclock order minute)), ?_, fun ha => ?_,
    fun ha i hi info life hu => ?_, fun ha r hr hruns hc => ?_, fun r _ hruns => ?_, fun a h1 h2 hp => ?_, ?_, ?_, ?_, ?_⟩
  · exact once .clock (fun u => u.shows.clock = s.shows.clock) (fun u => u.shows.clock = s.shows.clock.nextSecond)
      (fun u hu => congrArg Clock.nextSecond hu) (fun u x hx hu => (secondShare_clock hx u).trans hu)
      (fun u x hx hu => (secondShare_clock hx u).trans hu) rfl
  · have hkeep := inv (fun u => u.house = s.house ∧ u.seat = s.seat ∧ u.reel = s.reel) (fun r u ⟨hh, h1, h2⟩ => by
      have halert : u.house.alert ≠ .normal := by rwa [hh]
      refine ⟨(secondShare_frame r u).1.trans hh, ?_⟩
      cases r with
      | seat => rw [secondShare, seatTick, if_neg halert]; exact ⟨h1, h2⟩
      | reel => rw [secondShare, reelTick, if_neg halert]; exact ⟨h1, h2⟩
      | _ => exact ⟨h1, h2⟩) ⟨rfl, rfl, rfl⟩
    exact hkeep.2
  · rw [← ticked_active hu]
    refine once .seat (fun u => Sized u ∧ u.house = s.house ∧ u.seat = s.seat) (fun u => u.holdSlot i = (s.holdSlot i).ticked)
      (fun u ⟨hz, hh, hseat⟩ => ?_) (fun u x hx ⟨hz, hh, hseat⟩ => ?_) (fun u x hx hu => ?_) ⟨hs, rfl, rfl⟩
    · refine (seatTick_slot (by rw [hh, ha]) hz hi).trans ?_
      rw [State.holdSlot, State.holdSlot, hseat]
    · exact ⟨secondShare_sized x hz, (secondShare_frame x u).1.trans hh, (secondShare_seat hx u).trans hseat⟩
    · rw [← hu, State.holdSlot, State.holdSlot, secondShare_seat hx]
  · refine once .reel (fun u => Sized u ∧ u.house = s.house ∧ u.reel = s.reel)
      (fun u => u.reelAt r = { s.reelAt r with countdown := (s.reelAt r).countdown - 1 }) (fun u ⟨hz, hh, hreel⟩ => ?_)
      (fun u x hx ⟨hz, hh, hreel⟩ => ?_) (fun u x hx hu => ?_) ⟨hs, rfl, rfl⟩
    · rw [← reelAt_congr hreel r] at hruns hc ⊢
      exact reelTick_running (by rw [hh, ha]) hz hr hruns hc
    · exact ⟨secondShare_sized x hz, (secondShare_frame x u).1.trans hh, (secondShare_reel hx u).trans hreel⟩
    · rw [← hu, reelAt_congr (secondShare_reel hx u)]
  · refine inv (fun u => u.reelAt r = s.reelAt r) (fun x u hu => ?_) rfl
    by_cases hx : x = .reel
    · subst hx
      exact (reelTick_still (by rw [hu, hruns])).trans hu
    · exact (reelAt_congr (secondShare_reel hx u) r).trans hu
  · have hface : ∀ u : State, u.faces = s.faces → (u.panelAt a).face = (s.panelAt a).face := fun u hu => by
      rw [panelAt_face, panelAt_face, hu]
    refine once .link (fun u => Sized u ∧ u.faces = s.faces)
      (fun u => (u.panelAt a).idle = Nat.min 300 ((s.panelAt a).idle + 1)) (fun u ⟨hz, hu⟩ => ?_)
      (fun u x hx ⟨hz, hu⟩ => ?_) (fun u x hx hu => ?_) ⟨hs, rfl⟩
    · obtain ⟨hidle, habsent⟩ := Prod.mk.inj (hface u hu)
      rw [← hidle]
      exact idleTick_idle hz h1 h2 fun hc => hp (beq_iff_eq.mp (habsent.symm.trans (beq_iff_eq.mpr hc)))
    · exact ⟨secondShare_sized x hz, (secondShare_faces hx u).trans hu⟩
    · have := congrArg Prod.fst (show ((secondShare x u).panelAt a).face = (u.panelAt a).face by
        rw [panelAt_face, panelAt_face, secondShare_faces hx])
      exact this.trans hu
  · exact inv (fun u => u.notice = s.notice) (fun r u hu => (secondShare_frame r u).2.1.trans hu) rfl
  · exact inv (fun u => u.house = s.house) (fun r u hu => (secondShare_frame r u).1.trans hu) rfl
  · exact inv (fun u => u.chime = s.chime) (fun r u hu => (secondShare_frame r u).2.2.1.trans hu) rfl
  · exact inv (fun u => u.policy = s.policy) (fun r u hu => (secondShare_frame r u).2.2.2.trans hu) rfl

end Sys2Proof.Machine

/-! ## The roll of the day (R24, R89) -/

namespace Sys2Proof.Machine

/-! ### Queues that only lose notices -/

/-- Every slot stands as it stood or has been emptied (R118). -/
def Thins (q r : NoticeQueue) : Prop := ∀ i, r.at_ i = q.at_ i ∨ r.at_ i = (q.at_ i).emptied

theorem Thins.refl (q : NoticeQueue) : Thins q q := fun _ => .inl rfl

theorem Thins.trans {q r p : NoticeQueue} (a : Thins q r) (b : Thins r p) : Thins q p := fun i => by
  rcases a i with ha | ha <;> rcases b i with hb | hb <;> rw [hb, ha]
  · exact .inl rfl
  · exact .inr rfl
  · exact .inr rfl
  · exact .inr rfl

theorem Thins.gen {q r : NoticeQueue} (a : Thins q r) (i : Nat) : (r.at_ i).gen = (q.at_ i).gen := by
  rcases a i with h | h <;> rw [h]
  rfl

theorem Thins.notice {q r : NoticeQueue} (a : Thins q r) {i : Nat} {n : Notice} (h : (r.at_ i).notice = some n) :
    (q.at_ i).notice = some n := by
  rcases a i with he | he
  · rwa [he] at h
  · rw [he] at h
    cases h

theorem dropWhere_thins (q : NoticeQueue) (f : Notice → Bool) : Thins q (q.dropAll (q.slotsWhere f)) := fun i => by
  rw [dropWhere_at]
  split
  · exact .inr rfl
  · exact .inl rfl

theorem withdrawWhere_thins (f : Notice → Bool) (s : State) : Thins s.notice (withdrawWhere f s).notice := by
  rw [withdrawWhere_notice]
  exact dropWhere_thins _ _

theorem noticeAtEntry_thins (key : Nat) (st : ShowState) (s : State) : Thins s.notice (noticeAtEntry key st s).notice := by
  unfold noticeAtEntry
  split
  · exact withdrawWhere_thins _ _
  · exact withdrawWhere_thins _ _
  · exact Thins.refl _

/-- What an entry makes of the queue: the withdrawal of R128 at RUNNING and CANCELLED. -/
theorem enterState_queue {key : Nat} {w : State} {sh : Show} (h : w.findShow key = some sh) (b : Bool) (st : ShowState)
    (e : Option (StartedBy × Nat)) : (enterState b key st e w).notice = (noticeAtEntry key st w).notice := by
  have hw : ∀ u : State, u.notice = w.notice → (noticeAtEntry key st u).notice = (noticeAtEntry key st w).notice :=
    fun u hu => by
      unfold noticeAtEntry
      split
      · rw [withdrawDelay, withdrawDelay, withdrawWhere_notice, withdrawWhere_notice, hu]
      · rw [withdrawDelay, withdrawDelay, withdrawWhere_notice, withdrawWhere_notice, hu]
      · exact hu
  rw [enterState_notice h, entered]
  exact hw _ (by simp)

theorem enterState_thins (b : Bool) (key : Nat) (st : ShowState) (e : Option (StartedBy × Nat)) (w : State) :
    Thins w.notice (enterState b key st e w).notice := by
  cases h : w.findShow key with
  | none => rw [enterState_absent h]; exact Thins.refl _
  | some sh => rw [enterState_queue h]; exact noticeAtEntry_thins key st w

theorem evaluate_thins (b : Bool) (key : Nat) (w : State) : Thins w.notice (evaluate b key w).notice :=
  evaluate_inv (fun t => Thins w.notice t.notice) (fun st e v hv => hv.trans (enterState_thins b key st e v))
    (Thins.refl _)

theorem evaluateKeys_thins (b : Bool) (keys : List Nat) (w : State) : Thins w.notice (evaluateKeys b keys w).notice :=
  foldl_inv (fun t : State => Thins w.notice t.notice) _ (fun _ k hu => hu.trans (evaluate_thins b k _)) keys w
    (Thins.refl _)

/-- An evaluation leaves every notice that is not the DELAY notice of its show. -/
theorem evaluate_slot_other {b : Bool} {key i : Nat} {w : State} {n : Notice} (h : (w.noticeSlot i).notice = some n)
    (hd : isDelayOf key n = false) : (evaluate b key w).noticeSlot i = w.noticeSlot i := by
  refine evaluate_inv (fun t => t.noticeSlot i = w.noticeSlot i) (fun st e v hv => ?_) rfl
  cases hf : v.findShow key with
  | none => rwa [enterState_absent hf]
  | some sh =>
    have hw : (withdrawDelay key v).noticeSlot i = v.noticeSlot i := withdrawWhere_kept (by rw [hv, h]) hd
    rw [noticeSlot_congr (enterState_queue hf b st e), ← hv]
    unfold noticeAtEntry
    split
    · exact hw
    · exact hw
    · rfl

/-! ### Evaluations that change no state -/

theorem advanced_ahead_le (p : Policy) (c : Clock) (x : Show) : (x.advanced p c).state.ahead ≤ x.state.ahead := by
  unfold Show.advanced
  split
  · rename_i hd
    exact Nat.le_of_succ_le (dueTransition_ahead hd).le
  · exact Nat.le_refl _

/-- A show that a transition moved does not come back to its state (R11). -/
theorem due_of_evaluated_state {p : Policy} {c : Clock} {x : Show} (h : (x.evaluated p c).state = x.state) :
    dueTransition p c x = none := by
  cases hd : dueTransition p c x with
  | none => rfl
  | some d =>
    obtain ⟨st, e⟩ := d
    have h1 : (x.advanced p c).state.ahead + 1 = x.state.ahead := by
      simp only [Show.advanced, hd]
      exact dueTransition_ahead hd
    have h2 := advanced_ahead_le p c (x.advanced p c)
    have h3 := advanced_ahead_le p c ((x.advanced p c).advanced p c)
    have h4 := advanced_ahead_le p c (((x.advanced p c).advanced p c).advanced p c)
    have he : (x.evaluated p c).state.ahead = x.state.ahead := by rw [h]
    unfold Show.evaluated at he
    omega

theorem evaluate_of_state_kept {b : Bool} {key : Nat} {w : State}
    (h : ((evaluate b key w).findShow key).map (·.state) = (w.findShow key).map (·.state)) : evaluate b key w = w :=
  evaluate_fixed b key w fun x hx => by
    obtain ⟨y, hy, hst, _⟩ := evaluate_record b key w x hx
    rw [hy, hx, Option.map_some, Option.map_some, Option.some.injEq, hst] at h
    exact due_of_evaluated_state h

theorem evaluateKeys_other {b : Bool} {keys : List Nat} {k : Nat} (h : k ∉ keys) (w : State) :
    (evaluateKeys b keys w).findShow k = w.findShow k := by
  have fold : ∀ (l : List Nat) (v : State), k ∉ l → (evaluateKeys b l v).findShow k = v.findShow k := fun l => by
    induction l with
    | nil => exact fun _ _ => rfl
    | cons j l ih =>
      intro v hv
      obtain ⟨hj, hl⟩ := not_or.mp (fun hc => hv (List.mem_cons.mpr hc))
      exact (ih _ hl).trans ((moved_evaluate b j v).other k hj)
  exact fold keys w h

/-- A notice whose show, if it is a DELAY notice, stands in the same state after the evaluations stays (R128). -/
theorem evaluateKeys_slot {b : Bool} {keys : List Nat} {i : Nat} {n : Notice} (hn : keys.Nodup) (w : State)
    (h : (w.noticeSlot i).notice = some n) (hs : StateKept w (evaluateKeys b keys w) n) :
    (evaluateKeys b keys w).noticeSlot i = w.noticeSlot i := by
  induction keys generalizing w with
  | nil => rfl
  | cons j l ih =>
    obtain ⟨hj, hl⟩ := List.nodup_cons.mp hn
    have he : evaluateKeys b (j :: l) w = evaluateKeys b l (evaluate b j w) := rfl
    rw [he] at hs ⊢
    cases hd : isDelayOf j n with
    | false =>
      have hslot := evaluate_slot_other (b := b) h hd
      refine (ih hl _ (by rw [hslot, h]) fun hc k hk => ?_).trans hslot
      have hkj : k ≠ j := fun hkj => by simp [isDelayOf, hc, hk, hkj] at hd
      rw [hs hc k hk, (moved_evaluate b j w).other k hkj]
    | true =>
      have hc : n.cls = .delay := by
        rw [isDelayOf, Bool.and_eq_true] at hd
        exact beq_iff_eq.mp hd.1
      have hk : n.linked = some j := by
        rw [isDelayOf, Bool.and_eq_true] at hd
        exact beq_iff_eq.mp hd.2
      have hstate := hs hc j hk
      rw [evaluateKeys_other hj] at hstate
      rw [evaluate_of_state_kept hstate] at hs ⊢
      exact ih hl w h hs

theorem evaluateKeys_of_settled {b : Bool} {keys : List Nat} {w : State} (h : ∀ k ∈ keys, Settled k w) :
    evaluateKeys b keys w = w := by
  induction keys with
  | nil => rfl
  | cons j l ih =>
    have he : evaluateKeys b (j :: l) w = evaluateKeys b l (evaluate b j w) := rfl
    rw [he, evaluate_fixed b j w (h j (.head _))]
    exact ih fun k hk => h k (.tail _ hk)

theorem evaluateAll_of_settled {w : State} (h : ∀ k ∈ w.showKeys, Settled k w) : evaluateAll w = w :=
  evaluateKeys_of_settled h

/-! ### Holds that have ended -/

theorem voided_of_not_active {x : HoldSlot} {key : Nat} (h : x.isActive = false) : x.isOn [key] = false := by
  unfold HoldSlot.isActive at h
  unfold HoldSlot.isOn
  cases hu : x.use <;> simp_all

theorem enterState_slot_ended {b : Bool} {key : Nat} {st : ShowState} {e : Option (StartedBy × Nat)} {w : State}
    {i : Nat} (h : (w.holdSlot i).isActive = false) : (enterState b key st e w).holdSlot i = w.holdSlot i := by
  cases hf : w.findShow key with
  | none => rw [enterState_absent hf]
  | some sh =>
    have hv : ∀ u : State, u.seat = w.seat → (voidShow key u).holdSlot i = w.holdSlot i := fun u hu => by
      have hui : u.holdSlot i = w.holdSlot i := by simp [State.holdSlot, hu]
      rw [voidShow_slot, hui, voided_of_not_active h]
      simp
    have hs : (enterState b key st e w).holdSlot i =
        (seatAtEntry key st (recomputeDoor (w.modifyShow key (Show.entering st e)) sh.aud)).holdSlot i := by
      simp [State.holdSlot, enterState_seat hf, entered]
    rw [hs]
    unfold seatAtEntry
    split
    · exact hv _ rfl
    · exact hv _ rfl
    · rfl

theorem evaluateKeys_slot_ended {b : Bool} {keys : List Nat} {w : State} {i : Nat}
    (h : (w.holdSlot i).isActive = false) : (evaluateKeys b keys w).holdSlot i = w.holdSlot i :=
  foldl_inv (fun t : State => t.holdSlot i = w.holdSlot i) _ (fun _ _ hu => evaluate_inv
    (fun t => t.holdSlot i = w.holdSlot i) (fun _ _ v hv => (enterState_slot_ended (by rw [hv, h])).trans hv) hu) keys w rfl

/-! ### Lines and doors, all of them -/

theorem publishDoors_lineImage (auds : List Nat) (k : Nat) (s : State) :
    (publishDoors auds s).lineImage k = s.lineImage k := by
  rw [State.lineImage, publishDoors_lines]
  rfl

theorem publishLine_of_served {k : Nat} {s : State} (h : LineServed k s) : publishLine k s = s := by
  unfold publishLine
  rw [h]
  cases computeLine s k with
  | none => rfl
  | some l => exact if_pos rfl

theorem publishLines_of_served {keys : List Nat} {s : State} (h : ∀ k, LineServed k s) : publishLines keys s = s := by
  induction keys with
  | nil => rfl
  | cons k l ih =>
    show publishLines l (publishLine k s) = s
    rw [publishLine_of_served (h k), ih]

theorem findShow_eq_none_iff {s : State} {k : Nat} : s.findShow k = none ↔ k ∉ s.showKeys := by
  simp [State.findShow, State.showKeys, List.find?_eq_none]

/-- Every line a roll publishes is as computed: of the loaded shows, and of the shows gone (R86, R89). -/
theorem publishAll_lines (s : State) (k : Nat) : LineServed k (publishAll s) := by
  have hc : computeLine (publishAll s) k = computeLine s k := computeLine_congr (by simp) k
  have hc1 : ∀ l u, computeLine (publishLines l u) k = computeLine u k := fun l u => computeLine_congr (by simp) k
  rw [LineServed, hc, publishAll, publishDoors_lineImage, publishLines_image, hc1, publishLines_image]
  split
  · rfl
  · split
    · rfl
    · rename_i hk hgone
      have hnone : s.findShow k = none := findShow_eq_none_iff.mpr hk
      have himage : s.lineImage k = none := by
        cases hl : s.lineImage k with
        | none => rfl
        | some l =>
          have hkey : l.key = k := by simpa using List.find?_some hl
          refine absurd (List.mem_filter.mpr ⟨List.mem_map.mpr ⟨l, List.mem_of_find?_eq_some hl, hkey⟩, ?_⟩) hgone
          simp [hnone]
      rw [himage, computeLine, hnone]

/-- The entries of the auditorium table after they are chosen anew. -/
theorem recomputeDoors_doorShow {auds : List Nat} {a : Nat} {s : State} (hr : ∀ x ∈ auds, 1 ≤ x ∧ x ≤ 16)
    (hd : s.shows.doors.length = 16) (h1 : 1 ≤ a) (h : a ∈ auds ∨ s.doorShow a = chooseDoor s a) :
    (recomputeDoors auds s).doorShow a = chooseDoor s a := by
  induction auds generalizing s with
  | nil => exact h.resolve_left (by simp)
  | cons x l ih =>
    obtain ⟨hx1, hx2⟩ := hr x (.head _)
    have hc : chooseDoor (recomputeDoor s x) a = chooseDoor s a := rfl
    have he : recomputeDoors (x :: l) s = recomputeDoors l (recomputeDoor s x) := rfl
    rw [he, ← hc]
    refine ih (fun y hy => hr y (.tail _ hy)) ((recomputeDoor_length s x).trans hd) ?_
    rw [recomputeDoor_at s x a hd hx1 hx2 h1, hc]
    by_cases hax : a = x
    · exact .inr (by rw [if_pos hax, hax])
    · rw [if_neg hax]
      exact h.imp_left fun hm => (List.mem_cons.mp hm).resolve_left hax

theorem mem_allAuds {a : Nat} : a ∈ allAuds ↔ 1 ≤ a ∧ a ≤ 16 := by
  simp only [allAuds, List.mem_map, List.mem_range]
  constructor
  · rintro ⟨b, hb, rfl⟩
    omega
  · exact fun h => ⟨a - 1, by omega, by omega⟩

theorem publishAll_framed (s : State) : Framed s (publishAll s) := by
  have hf : OnlyForced s (publishAll s) :=
    (publishLines_onlyForced _ s).trans ((publishLines_onlyForced _ _).trans (publishDoors_onlyForced _ _))
  refine ⟨by simp, ?_, by simp, by simp, OnlyShowCauses.of_forced hf⟩
  apply state_eq <;> simp

/-- After every door is chosen anew and everything published, every door is served (R20, R89). -/
theorem publishAll_doors {s : State} (hb : s.board.doors.length = 16) (hd : s.shows.doors.length = 16) (a : Nat) :
    DoorServed a (publishAll (recomputeDoors allAuds s)) := by
  intro h1 h2
  have ha : a ∈ allAuds := mem_allAuds.mpr ⟨h1, h2⟩
  have hshows : (publishAll (recomputeDoors allAuds s)).shows = (recomputeDoors allAuds s).shows := by simp
  have hdoor := recomputeDoors_doorShow (fun x hx => mem_allAuds.mp hx) hd h1 (.inl ha)
  have hchoose : chooseDoor (recomputeDoors allAuds s) a = chooseDoor s a := by
    simp [chooseDoor, todayIn, recomputeDoors_shows]
  refine ⟨doorChosen_congr (doorShow_congr (by rw [hshows]) a) (slate_congr hshows a)
    (doorChosen_of (hdoor.trans hchoose.symm)), ?_⟩
  rw [computeDoor_congr hshows]
  have hlen : ∀ l u, (publishLines l u).board.doors.length = u.board.doors.length := fun l u =>
    foldl_keep (fun t : State => t.board.doors.length) _ (fun t k => by rw [publishLine_doors]) l u
  have hc : ∀ l u, computeDoor (publishLines l u) a = computeDoor u a := fun l u => computeDoor_congr (by simp) a
  rw [publishAll, publishDoors_served (by rw [hlen, hlen]; simpa using hb) h1 h2 ha, hc, hc]

theorem showKeys_of_roster {s t : State} (h : t.roster = s.roster) : t.showKeys = s.showKeys := by
  have hk : ∀ u : State, u.showKeys = u.roster.map (·.1) := fun u => by simp [State.showKeys, State.roster]
  rw [hk, hk, h]

/-! ### The stages of a roll (R24) -/

/-- The keys of today's shows. -/
def goneKeys (s : State) : List Nat := (s.shows.shows.filter (fun sh => sh.day == 0)).map (·.key)

/-- Today's holds voided, and the notices linked to today's shows withdrawn. -/
def swept (s : State) : State := withdrawWhere (isLinkedTo (goneKeys s)) (voidHolds (goneKeys s) s)

/-- Today's shows gone, the others a day nearer, the clock at minute 0. -/
def shifted (s : State) : State :=
  ((swept s).withShowList (((swept s).shows.shows.filter (fun sh => sh.day != 0)).map Show.nextDay)).withClock
    { (swept s).shows.clock with minute := 0, second := 0 }

/-- The remaining shows evaluated. -/
def rolled (s : State) : State := evaluateKeys false (shifted s).showKeys (shifted s)

theorem rollDay_eq (s : State) : rollDay s =
    if (goneKeys s).isEmpty then publishAll (recomputeDoors allAuds (rolled s))
    else raiseAll .showChange (publishAll (recomputeDoors allAuds (rolled s))) := rfl

theorem mem_goneKeys {s : State} {k : Nat} : k ∈ goneKeys s ↔ ∃ x ∈ s.shows.shows, x.day = 0 ∧ x.key = k := by
  simp [goneKeys, and_assoc]

theorem voidHold_framed (i : Nat) (s : State) : Framed s (voidHold i s) := by
  cases hu : (s.holdSlot i).use with
  | active info life => exact (moved_void info.key i s (by simp [HoldSlot.isOn, hu])).framed
  | _ =>
    unfold voidHold
    rw [hu]
    exact Framed.refl s

theorem swept_framed (s : State) : Framed s (swept s) :=
  (foldl_inv (Framed s) _ (fun _ i hu => hu.trans (voidHold_framed i _)) _ s (Framed.refl s)).trans
    (framed_withdraw _ _)

theorem swept_shows (s : State) : (swept s).shows = (voidHolds (goneKeys s) s).shows := by simp [swept]

theorem swept_roster (s : State) : (swept s).roster = s.roster :=
  (roster_congr (swept_shows s)).trans (voidHolds_roster _ s)

theorem voidHolds_state (keys : List Nat) (s : State) (k : Nat) :
    ((voidHolds keys s).findShow k).map (·.state) = (s.findShow k).map (·.state) := by
  refine foldl_inv (fun t : State => (t.findShow k).map (·.state) = (s.findShow k).map (·.state)) _ (fun u i hu => ?_) _ s
    rfl
  rw [← hu]
  cases hf : u.findShow k with
  | some x =>
    obtain ⟨y, hy, hst, _⟩ := voidHold_state k i u x hf
    rw [hy, Option.map_some, Option.map_some, hst]
  | none =>
    rw [findShow_eq_none_iff, ← showKeys_of_roster (voidHold_roster i u), ← findShow_eq_none_iff] at hf
    rw [hf]

theorem mem_shifted {s : State} {y : Show} :
    y ∈ (shifted s).shows.shows ↔ ∃ x ∈ (swept s).shows.shows, x.day ≠ 0 ∧ x.nextDay = y := by
  simp [shifted, and_assoc]

/-- Each show left stood a day further off. -/
theorem shifted_from {s : State} {y : Show} (h : y ∈ (shifted s).shows.shows) :
    ∃ x ∈ s.shows.shows, x.key = y.key ∧ x.day = y.day + 1 := by
  obtain ⟨x, hx, hd, rfl⟩ := mem_shifted.mp h
  obtain ⟨z, hz, zk, zd, _⟩ := mem_roster (swept_roster s) hx
  exact ⟨z, hz, zk, by rw [zd]; exact (Nat.succ_pred_eq_of_ne_zero hd).symm⟩

theorem shifted_to {s : State} {x : Show} (h : x ∈ s.shows.shows) (hd : 0 < x.day) :
    ∃ y ∈ (shifted s).shows.shows, y.key = x.key := by
  obtain ⟨z, hz, zk, zd, _⟩ := mem_roster (swept_roster s).symm h
  exact ⟨z.nextDay, mem_shifted.mpr ⟨z, hz, by omega, rfl⟩, zk⟩

theorem shifted_pairwise {s : State} (h : s.shows.shows.Pairwise (fun a b => a.key < b.key)) :
    (shifted s).shows.shows.Pairwise (fun a b => a.key < b.key) := by
  have hs := pairwise_of_showKeys (showKeys_of_roster (swept_roster s)) h
  show (((swept s).shows.shows.filter (fun sh => sh.day != 0)).map Show.nextDay).Pairwise _
  exact List.pairwise_map.mpr (hs.filter _)

/-- A roll changes the state of no show but by transitions. -/
theorem shifted_state {s : State} (hp : s.shows.shows.Pairwise (fun a b => a.key < b.key)) {k : Nat}
    (hk : k ∉ goneKeys s) : ((shifted s).findShow k).map (·.state) = (s.findShow k).map (·.state) := by
  have hstate : ((swept s).findShow k).map (·.state) = (s.findShow k).map (·.state) := by
    rw [findShow_congr (swept_shows s), voidHolds_state]
  rw [← hstate]
  cases hf : (swept s).findShow k with
  | some x =>
    obtain ⟨z, hz, zk, zd, _⟩ := mem_roster (swept_roster s) (findShow_mem hf)
    have hd : x.day ≠ 0 := fun hd => hk (mem_goneKeys.mpr ⟨z, hz, zd.trans hd, zk.trans (findShow_key hf)⟩)
    have hm : x.nextDay ∈ (shifted s).shows.shows := mem_shifted.mpr ⟨x, findShow_mem hf, hd, rfl⟩
    have hkey : x.nextDay.key = k := (findShow_key hf : x.key = k)
    rw [← hkey, findShow_of_mem (shifted_pairwise hp) hm]
    rfl
  | none =>
    cases hs : (shifted s).findShow k with
    | none => rfl
    | some y =>
      obtain ⟨x, hx, _, rfl⟩ := mem_shifted.mp (findShow_mem hs)
      rw [findShow_eq_none_iff] at hf
      have hday : x.nextDay.key = k := findShow_key hs
      have hkey : x.key = k := hday
      exact absurd (hkey ▸ mem_showKeys hx) hf

theorem rolled_roster (s : State) : (rolled s).roster = (shifted s).roster :=
  foldl_keep State.roster _ (fun u k => evaluate_roster false k u) _ _

theorem rollDay_shows (s : State) : (rollDay s).shows = (recomputeDoors allAuds (rolled s)).shows := by
  rw [rollDay_eq]
  split <;> simp

theorem rollDay_board (s : State) : (rollDay s).board = (publishAll (recomputeDoors allAuds (rolled s))).board := by
  rw [rollDay_eq]
  split <;> simp

theorem rollDay_seat (s : State) : (rollDay s).seat = (rolled s).seat := by
  rw [rollDay_eq]
  split <;> simp

theorem rollDay_notice (s : State) : (rollDay s).notice = (rolled s).notice := by
  rw [rollDay_eq]
  split <;> simp

theorem rollDay_stay (s : State) : CausesStay (swept s) (rollDay s) := by
  have h1 : CausesStay (swept s) (rolled s) :=
    (CausesStay.of_ports (t := shifted s) rfl).trans (evaluateKeys_stay false _ _)
  have h2 : CausesStay (rolled s) (publishAll (recomputeDoors allAuds (rolled s))) :=
    (CausesStay.of_ports (t := recomputeDoors allAuds (rolled s)) (by simp)).trans
      ((publishLines_onlyForced _ _).trans ((publishLines_onlyForced _ _).trans (publishDoors_onlyForced _ _))).stay
  rw [rollDay_eq]
  split
  · exact h1.trans h2
  · exact (h1.trans h2).trans (raiseAll_stay _ _)

theorem rollDay_roster (s : State) : (rollDay s).roster = (shifted s).roster := by
  rw [← rolled_roster, State.roster, rollDay_shows, recomputeDoors_shows]
  rfl

theorem rolled_lengths (s : State) : (rolled s).board.doors.length = s.board.doors.length ∧
    (rolled s).shows.doors.length = s.shows.doors.length := by
  have hs : (swept s).shows.doors.length = s.shows.doors.length := by rw [swept_shows, voidHolds_doors]
  have hb : (shifted s).board = s.board := by simp [shifted, swept]
  rw [← hs]
  exact ⟨(foldl_keep (fun t : State => t.board.doors.length) _ (fun u k => (moved_evaluate false k u).images) _ _).trans
      (by rw [hb]),
    foldl_keep (fun t : State => t.shows.doors.length) _ (fun u k => (moved_evaluate false k u).doors) _ (shifted s)⟩

/-- What the roll does, whole (R24, R89). -/
theorem rollDay_rolled {s : State} (hs : Sized s) : DayRolled s (rollDay s) := by
  obtain ⟨lb, ld⟩ := rolled_lengths s
  have hlines : ∀ k, LineServed k (rollDay s) := fun k =>
    lineServed_congr (by rw [rollDay_shows]; simp) (rollDay_board s) (publishAll_lines (recomputeDoors allAuds (rolled s)) k)
  have hdoors : ∀ a, DoorServed a (rollDay s) := fun a =>
    doorServed_congr (by rw [rollDay_shows]; simp) (rollDay_board s)
      (publishAll_doors (lb.trans hs.2.2.2.1) (ld.trans hs.2.1) a)
  refine ⟨fun y hy => ?_, fun x hx hd => ?_, fun x hx hd => ⟨fun i info life hi hu hk => ⟨?_, fun hp => ?_⟩, fun i n hn => ?_⟩,
    fun ⟨x, hx, hd⟩ => ?_, hlines, hdoors⟩
  · obtain ⟨z, hz, zk, zd, _⟩ := mem_roster (rollDay_roster s) hy
    obtain ⟨x, hx, xk, xd⟩ := shifted_from hz
    exact ⟨x, hx, xk.trans zk, by rw [xd, zd]⟩
  · obtain ⟨y, hy, yk⟩ := shifted_to hx hd
    obtain ⟨z, hz, zk, _⟩ := mem_roster (rollDay_roster s).symm hy
    exact ⟨z, hz, zk.trans yk⟩
  · have hgone : info.key ∈ goneKeys s := mem_goneKeys.mpr ⟨x, hx, hd, hk.symm⟩
    have hvoid : (shifted s).holdSlot i = ⟨(s.holdSlot i).gen, .ended info .voided⟩ := by
      have hseat : (shifted s).seat = (voidHolds (goneKeys s) s).seat := by simp [shifted, swept]
      have hslot : (shifted s).holdSlot i = (voidHolds (goneKeys s) s).holdSlot i := by simp [State.holdSlot, hseat]
      rw [hslot, voidHolds_slot, if_pos ⟨hi, by simp [HoldSlot.isOn, hu, hgone]⟩, HoldSlot.voided, hu]
    have hroll : (rollDay s).holdSlot i = (rolled s).holdSlot i := by simp [State.holdSlot, rollDay_seat]
    rw [hroll, rolled, evaluateKeys_slot_ended (by rw [hvoid]; rfl), hvoid]
  · have hgone : info.key ∈ goneKeys s := mem_goneKeys.mpr ⟨x, hx, hd, hk.symm⟩
    exact (rollDay_stay s).causeSet (by decide) ((withdrawWhere_onlyForced _ _).stay.causeSet (by decide)
      (voidHolds_raises (goneKeys s) s hi hu hgone hp))
  · have hthin : Thins (swept s).notice (rollDay s).notice := by
      rw [rollDay_notice]
      exact evaluateKeys_thins false (shifted s).showKeys (shifted s)
    have hfree : isLinkedTo (goneKeys s) n = false := withdrawWhere_none (hthin.notice hn)
    rintro hl
    have hgone : x.key ∈ goneKeys s := mem_goneKeys.mpr ⟨x, hx, hd, rfl⟩
    simp [isLinkedTo, hl, hgone] at hfree
  · rw [rollDay_eq, if_neg]
    · exact raiseAll_sets _
    · have hgone : x.key ∈ goneKeys s := mem_goneKeys.mpr ⟨x, hx, hd, rfl⟩
      rw [List.isEmpty_iff]
      exact List.ne_nil_of_mem hgone

/-! ### After the roll -/

theorem settled_of_list {s t : State} (hs : t.shows.shows = s.shows.shows) (hc : t.shows.clock = s.shows.clock)
    (hp : t.policy = s.policy) {k : Nat} (h : Settled k s) : Settled k t := fun x hx => by
  rw [hc, hp]
  exact h x (by rw [← hx, State.findShow, State.findShow, hs])

theorem rollDay_settled (s : State) : ∀ k ∈ (rollDay s).showKeys, Settled k (rollDay s) := by
  have hlist : (rollDay s).shows.shows = (rolled s).shows.shows := by rw [rollDay_shows, recomputeDoors_shows]
  have hclock : (rollDay s).shows.clock = (rolled s).shows.clock := by
    rw [rollDay_shows, (framed_recomputeDoors allAuds _).clock]
  have hpolicy : (rollDay s).policy = (rolled s).policy := by simp [rolled, shifted, swept]
  intro k hk
  refine settled_of_list hlist hclock hpolicy (evaluateKeys_settled (.inl ?_))
  rwa [State.showKeys, hlist, ← State.showKeys, rolled, evaluateKeys_showKeys] at hk

theorem rollDay_pairwise {s : State} (h : s.shows.shows.Pairwise (fun a b => a.key < b.key)) :
    (rollDay s).shows.shows.Pairwise (fun a b => a.key < b.key) :=
  pairwise_of_showKeys (showKeys_of_roster (rollDay_roster s)) (shifted_pairwise h)

/-- What a roll leaves of every block but those it changes (R13, R24). -/
structure DayFramed (w u : State) : Prop where
  table : u.shows = { w.shows with shows := u.shows.shows, doors := u.shows.doors, clock := u.shows.clock }
  blocks : u = { w with seat := u.seat, shows := u.shows, board := u.board, notice := u.notice, journal := u.journal,
                        link := u.link, ports := u.ports }
  steady : u.link.steady = w.link.steady
  quiet : u.ports.quiet = w.ports.quiet
  causes : OnlyShowCauses w u

theorem Framed.day {w u : State} (a : Framed w u) : DayFramed w u :=
  ⟨by rw [a.table], a.blocks, a.steady, a.quiet, a.causes⟩

theorem DayFramed.trans {w u v : State} (a : DayFramed w u) (b : DayFramed u v) : DayFramed w v where
  table := by rw [b.table, a.table]
  blocks := by rw [b.blocks, a.blocks]
  steady := b.steady.trans a.steady
  quiet := b.quiet.trans a.quiet
  causes := a.causes.trans b.causes

theorem DayFramed.of_list (l : List Show) (c : Clock) (u : State) : DayFramed u ((u.withShowList l).withClock c) :=
  ⟨rfl, rfl, rfl, rfl, fun _ _ _ _ => rfl⟩

theorem rollDay_framed (s : State) : DayFramed s (rollDay s) := by
  have hshift : DayFramed (swept s) (shifted s) := DayFramed.of_list _ _ (swept s)
  have hroll : Framed (shifted s) (publishAll (recomputeDoors allAuds (rolled s))) :=
    (evaluateKeys_framed false _ _).trans ((framed_recomputeDoors allAuds _).trans (publishAll_framed _))
  refine (swept_framed s).day.trans (hshift.trans ?_)
  rw [rollDay_eq]
  split
  · exact hroll.day
  · exact (hroll.trans (framed_raiseAll _)).day

theorem rollDay_clock (s : State) : (rollDay s).shows.clock = ⟨s.shows.clock.valid, 0, 0⟩ := by
  have h1 : (rollDay s).shows.clock = (shifted s).shows.clock := by
    rw [rollDay_shows, (framed_recomputeDoors allAuds _).clock]
    exact (evaluateKeys_framed false _ _).clock
  rw [h1, ← (swept_framed s).clock]
  rfl

/-- What a roll brought stays while shows, seats and images stay and the queue only loses notices or counts their lives. -/
theorem DayRolled.later {s r t : State} (h : DayRolled s r) (hshows : t.shows = r.shows) (hseat : t.seat = r.seat)
    (hboard : t.board = r.board) (hcauses : CausesStay r t)
    (hnotice : ∀ i n, (t.noticeSlot i).notice = some n → ∃ m, (r.noticeSlot i).notice = some m ∧ m.linked = n.linked) :
    DayRolled s t := by
  obtain ⟨h1, h2, h3, h4, h5, h6⟩ := h
  refine ⟨by rwa [hshows], by rwa [hshows], fun x hx hd => ⟨fun i info life hi hu hk => ?_, fun i n hn => ?_⟩,
    fun hx p => ?_, fun k => lineServed_congr hshows hboard (h5 k), fun a => doorServed_congr hshows hboard (h6 a)⟩
  · obtain ⟨hslot, hraise⟩ := (h3 x hx hd).1 i info life hi hu hk
    refine ⟨?_, fun hp => hcauses.causeSet (by decide) (hraise hp)⟩
    rw [← hslot]
    simp [State.holdSlot, hseat]
  · obtain ⟨m, hm, hl⟩ := hnotice i n hn
    rw [← hl]
    exact (h3 x hx hd).2 i m hm
  · exact hcauses.causeSet (by decide) (h4 hx p)

theorem clockSet_rollDay {s : State} (hs : Sized s) : clockSet (rollDay s) =
    (withdrawWhere (windowClosed (rollDay s)) (rollDay s)).setBeacon := by
  obtain ⟨_, _, _, _, hlines, _⟩ := rollDay_rolled hs
  have hw : testWindows (rollDay s) = rollDay s := publishLines_of_served hlines
  rw [clockSet, evaluateAll_of_settled (rollDay_settled s), hw]
  rfl

theorem DayRolled.before {s s1 t : State} (h : DayRolled s1 t) (hshows : s1.shows = s.shows) (hseat : s1.seat = s.seat) :
    DayRolled s t := by
  have hslot : ∀ i, s1.holdSlot i = s.holdSlot i := fun i => by simp [State.holdSlot, hseat]
  simpa only [DayRolled, hshows, hslot] using h

/-- The queue after a withdrawal holds only notices it held. -/
theorem withdrawWhere_was {f : Notice → Bool} {r : State} {i : Nat} {n : Notice}
    (h : ((withdrawWhere f r).noticeSlot i).notice = some n) : (r.noticeSlot i).notice = some n :=
  (withdrawWhere_thins f r).notice h

theorem clockSet_rollDay_rolled {s : State} (hs : Sized s) : DayRolled s (clockSet (rollDay s)) := by
  rw [clockSet_rollDay hs]
  refine (rollDay_rolled hs).later (by simp) (by simp) (by simp) ?_ fun i n hn => ⟨n, ?_, rfl⟩
  · exact (withdrawWhere_onlyForced (windowClosed (rollDay s)) (rollDay s)).stay.trans (CausesStay.of_ports rfl)
  · exact withdrawWhere_was (r := rollDay s) hn

/-- A day rolled by request, and the blocks it leaves (R23, R24). -/
theorem clockSet_rollDay_frame {s : State} (hs : Sized s) :
    (clockSet (rollDay s)).shows = (rollDay s).shows ∧ (clockSet (rollDay s)).link.beaconPending = true ∧
    (clockSet (rollDay s)).ports.quiet = s.ports.quiet ∧ OnlyShowCauses s (clockSet (rollDay s)) ∧
    clockSet (rollDay s) = { s with
      seat := (clockSet (rollDay s)).seat, shows := (clockSet (rollDay s)).shows, board := (clockSet (rollDay s)).board,
      notice := (clockSet (rollDay s)).notice, journal := (clockSet (rollDay s)).journal,
      link := (clockSet (rollDay s)).link, ports := (clockSet (rollDay s)).ports } := by
  have hf := (rollDay_framed s).trans (framed_withdraw (windowClosed (rollDay s)) (rollDay s)).day
  rw [clockSet_rollDay hs]
  refine ⟨by simp, rfl, hf.quiet, hf.causes, ?_⟩
  exact (congrArg State.setBeacon hf.blocks).trans rfl

/-! ### Day Clear (R25) -/

theorem raiseAll_causeBit (q : Port) (c : Cause) (n : Nat) (s : State) :
    causeBit q n (raiseAll c s) = (causeBit q n s || (decide (c.bit q = some n) && decide (n < 16))) := by
  simp only [raiseAll, raise_causeBit]
  cases q <;> simp

theorem journalDayClear_causeBit (q : Port) (n : Nat) (s : State) : causeBit q n (journalDayClear s) =
    (causeBit q n s || (decide (q = .programme ∧ n = 4) && decide (65535 ≤ s.journal.cur))) := by
  have hh : ∀ u : State, causeBit q n (handOff u) = causeBit q n u := fun _ => rfl
  have hw : ∀ u : State, causeBit q n (panelsAtWrap u) = causeBit q n u := fun _ => rfl
  have hj : causeBit q n (s.withJournal s.journal.dayCleared) = causeBit q n s := rfl
  simp only [journalDayClear, hh]
  by_cases hc : 65535 ≤ s.journal.cur
  · have hm : Config.maxRevision ≤ s.journal.cur := hc
    rw [if_pos (by simpa using hm), hw, raise_causeBit, hj, decide_eq_true hc, Bool.and_true]
    by_cases hq : q = .programme
    · subst hq
      by_cases hn : n = 4
      · simp [hn, Cause.bit]
      · simp [hn, Ne.symm hn, Cause.bit]
    · simp [hq]
  · have hm : ¬ Config.maxRevision ≤ s.journal.cur := hc
    rw [if_neg (by simpa using hm), hj, decide_eq_false hc, Bool.and_false, Bool.or_false]

theorem journalDayClear_journal (s : State) : (journalDayClear s).journal = s.journal.dayCleared := by
  simp only [journalDayClear, handOff_frame]
  split <;> simp

theorem journal_dayCleared (j : Journal) : j.dayCleared.entries = [] ∧ j.dayCleared.floor = j.dayCleared.cur ∧
    j.dayCleared.cur = if 65535 ≤ j.cur then 1 else j.cur + 1 := by
  unfold Journal.dayCleared Config.maxRevision
  split <;> simp

/-- The blocks Day Clear empties, before the journal is cleared. -/
def blocksCleared (s : State) : State :=
  (((s.withShows s.shows.dayCleared).withSeat s.seat.dayCleared).withBoard .empty).withNotice s.notice.dayCleared

theorem clearDay_eq (s : State) : clearDay s = raiseAll .showChange (journalDayClear (blocksCleared s)) := rfl

theorem clearDay_quiet (s : State) : (clearDay s).ports.quiet = s.ports.quiet := by
  rw [clearDay_eq]
  simp [blocksCleared]

theorem clearDay_steady (s : State) : (clearDay s).link.steady = s.link.steady := by
  rw [clearDay_eq]
  simp [blocksCleared]

theorem clearDay_blocks (s : State) : clearDay s =
    { s with seat := s.seat.dayCleared, shows := s.shows.dayCleared, board := .empty, notice := s.notice.dayCleared,
             journal := s.journal.dayCleared, link := (clearDay s).link, ports := (clearDay s).ports } := by
  rw [clearDay_eq]
  apply state_eq <;> simp [blocksCleared, journalDayClear_journal]

theorem dayCleared_slot (s : State) (i : Nat) : (s.withSeat s.seat.dayCleared).holdSlot i =
    match (s.holdSlot i).use with
    | .active info _ => ⟨(s.holdSlot i).gen, .ended info .voided⟩
    | _ => s.holdSlot i := by
  have hslot : (s.withSeat s.seat.dayCleared).holdSlot i = (s.holdSlot i).dayCleared := by
    simp only [State.holdSlot, withSeat_seat, SeatUnit.dayCleared, List.getElem?_map]
    cases s.seat.slots[i]? <;> rfl
  exact hslot.trans rfl

theorem dayCleared_notice {q : NoticeQueue} (h : q.slots.length = 32) :
    (∀ i, i < 31 → q.dayCleared.at_ i = ⟨(q.at_ i).gen, none⟩) ∧ q.dayCleared.at_ 31 = q.at_ 31 := by
  have hlen : ((q.slots.take 31).map fun x => (⟨x.gen, none⟩ : NoticeSlot)).length = 31 := by simp [h]
  have hslots : q.dayCleared.slots = ((q.slots.take 31).map fun x => ⟨x.gen, none⟩) ++ q.slots.drop 31 := rfl
  simp only [NoticeQueue.at_, hslots]
  refine ⟨fun i hi => ?_, ?_⟩
  · rw [List.getElem?_append_left (by omega), List.getElem?_map, List.getElem?_take_of_lt hi,
      List.getElem?_eq_getElem (by omega)]
    rfl
  · rw [List.getElem?_append_right (by omega), List.getElem?_drop, hlen]

theorem clearDay_causes (q : Port) (n : Nat) (s : State) : causeBit q n (clearDay s) =
    (causeBit q n s || (decide (q = .programme ∧ n = 4) && decide (65535 ≤ s.journal.cur)) ||
      decide (n = if q = .programme then 9 else 3)) := by
  have hb : causeBit q n (blocksCleared s) = causeBit q n s := rfl
  have hj : (blocksCleared s).journal = s.journal := rfl
  rw [clearDay_eq, raiseAll_causeBit, journalDayClear_causeBit, hb, hj]
  congr 1
  cases q <;> simp only [Cause.bit, reduceCtorEq, if_true, if_false, Option.some.injEq, ← Bool.decide_and] <;>
    exact decide_eq_decide.mpr (by omega)

theorem panelsTold_congr {s s1 t t1 : State} (hl : s1.link = s.link) (hj : s1.journal = s.journal) (hl' : t.link = t1.link)
    (hj' : t.journal = t1.journal) (h : PanelsTold s1 t1) : PanelsTold s t := by
  simpa only [PanelsTold, State.panelAt, hl, hj, hl', hj'] using h

/-- Settles O44: the roll by what it leaves settled and served, Day Clear by the blocks it empties. -/
theorem dayRollsAndClears : Obligations.DayRollsAndClears := by
  intro h s hs hp
  refine ⟨?_, ?_⟩
  · refine takenOrRefused_of rollDayRequest (fun u => clockSet (rollDay u)) (okWith []) rfl rfl (fun q => ?_)
      fun s1 t hn a hx f => ?_
    · show (if s.shows.clock.valid then _ else _) = _
      cases hv : s.shows.clock.valid <;> rfl
    · have hvalid : s.shows.clock.valid = true := by
        cases hv : s.shows.clock.valid with
        | true => rfl
        | false => simp [firstRefusal, hv] at hn
      have hs1 : Sized s1 := by rw [a.eq_withPorts]; exact hs
      have hp1 : s1.shows.shows.Pairwise (fun a b => a.key < b.key) := by rwa [a.shows]
      obtain ⟨hshows, hbeacon, hquiet, hcauses, hblocks⟩ := clockSet_rollDay_frame hs1
      have htable := (rollDay_framed s1).table
      have htshows : t.shows = (rollDay s1).shows := f.shows.trans hshows
      have htpolicy : t.policy = (rollDay s1).policy := by
        rw [f.policy, hblocks, (rollDay_framed s1).blocks]
      refine ⟨t, ⟨hx, f.answered⟩, ?_, by rw [f.link, hbeacon], ?_, ?_, ?_, ?_, ?_, buffersKept_of a f hquiet,
        onlyShowCauses_of a f hcauses⟩
      · rw [htshows, rollDay_clock, a.shows, hvalid]
      · rw [htshows, htpolicy]
        exact settled_all (rollDay_pairwise hp1) (rollDay_settled s1)
      · refine ((clockSet_rollDay_rolled hs1).before a.shows a.seat).later f.shows f.seat f.board (fun q n hq hc => ?_)
          fun i n hn => ⟨n, by rw [← f.noticeSlot, hn], rfl⟩
        rwa [causeBit, f.causes]
      · rw [f.blocks, hblocks, a.blocks]
      · rw [htshows, htable, a.shows]
      · rw [htshows, htable, a.shows]
  · refine takenOrRefused_of dayClear clearDay (okWith []) rfl rfl (fun _ => rfl) fun s1 t _ a hx f => ?_
    have hblocks := clearDay_blocks s1
    have hshows : t.shows = s.shows.dayCleared := by rw [f.shows, hblocks, a.shows]
    have hseat : t.seat = s.seat.dayCleared := by rw [f.seat, hblocks, a.seat]
    have hboard : t.board = .empty := by rw [f.board, hblocks]
    have hnotice : t.notice = s.notice.dayCleared := by rw [f.notice, hblocks, a.notice]
    have hjournal : t.journal = s.journal.dayCleared := by rw [f.journal, hblocks, a.journal]
    have hcauses : ∀ q n, causeBit q n t = (causeBit q n s || (decide (q = .programme ∧ n = 4) &&
        decide (65535 ≤ s.journal.cur)) || decide (n = if q = .programme then 9 else 3)) := fun q n => by
      rw [← a.journal]
      simpa only [causeBit, f.causes, ← a.causes] using clearDay_causes q n s1
    obtain ⟨hentries, hfloor, hcur⟩ := journal_dayCleared s.journal
    obtain ⟨hfirst, hlast⟩ := dayCleared_notice (q := s.notice) hs.2.2.2.2.2.2.1
    have htold : PanelsTold s t := by
      have hlink : t.link = (journalDayClear (blocksCleared s1)).link := by
        rw [f.link, clearDay_eq]
        simp
      have hjournal1 : t.journal = (journalDayClear (blocksCleared s1)).journal := by
        rw [f.journal, clearDay_eq]
        simp
      have hlen : (blocksCleared s1).link.panels.length = 24 := by
        have hs1 : (blocksCleared s1).link = s.link := a.link
        rw [hs1, hs.2.2.2.2.2.2.2.2.2.1]
      exact panelsTold_congr a.link a.journal hlink hjournal1 (journalDayClear_told _ hlen)
    refine ⟨t, ⟨hx, f.answered⟩, hshows, fun i _ => ?_, by rw [hseat]; rfl, by rw [hseat]; rfl, by rw [hseat]; rfl,
      by rw [hseat]; rfl, hboard, fun i hi => ?_, ?_, by rw [hnotice]; rfl, by rw [hnotice]; rfl, by rw [hjournal, hentries],
      by rw [hjournal, hfloor], by rw [hjournal, hcur], f.showChange (raiseAll_sets _), fun q hq n hn => ?_, ?_,
      fun n h4 h9 => ?_, htold, ?_, by rw [f.link, clearDay_steady, a.link], buffersKept_of a f (clearDay_quiet s1)⟩
    · exact (f.holdSlot i).trans (Eq.trans (by rw [State.holdSlot, hblocks, a.seat]; rfl) (dayCleared_slot s i))
    · rw [noticeSlot_eq, noticeSlot_eq, hnotice, hfirst i hi]
    · rw [noticeSlot_eq, noticeSlot_eq, hnotice, hlast]
    · rw [hcauses]
      simp [hq, hn]
    · rw [hcauses]
      simp
    · rw [hcauses]
      simp [h4, h9]
    · rw [f.blocks, hblocks, a.blocks]

end Sys2Proof.Machine

/-! ## The minute boundary (O16) -/

namespace Sys2Proof.Machine

/-! ### What an evaluation keeps of every show -/

/-- The day, start and run time of a key's show: what windows and lines of a day turn on (R1, R129). -/
def State.times (s : State) (k : Nat) : Option (Nat × Nat × Nat) := (s.findShow k).map fun x => (x.day, x.start, x.run)

theorem times_congr {s t : State} (h : t.shows = s.shows) (k : Nat) : t.times k = s.times k := by
  rw [State.times, findShow_congr h, State.times]

theorem Moved.times {key : Nat} {w u : State} (m : Moved key w u) (k : Nat) : u.times k = w.times k := by
  by_cases hk : k = key
  · subst hk
    cases hf : w.findShow k with
    | some x =>
      obtain ⟨y, hy, hs⟩ := m.same x hf
      rw [State.times, State.times, hy, hf, hs.record]
      rfl
    | none =>
      have hkeys : u.showKeys = w.showKeys := m.keys
      have hu : u.findShow k = none := by rwa [findShow_eq_none_iff, hkeys, ← findShow_eq_none_iff]
      rw [State.times, State.times, hu, hf]
  · rw [State.times, m.other k hk, State.times]

theorem evaluateKeys_times (b : Bool) (keys : List Nat) (w : State) (k : Nat) :
    (evaluateKeys b keys w).times k = w.times k :=
  foldl_keep (fun u : State => u.times k) _ (fun u j => (moved_evaluate b j u).times k) keys w

theorem advanced_cancelled {p : Policy} {c : Clock} {x : Show} (h : (x.advanced p c).state = .cancelled) :
    x.state = .cancelled := by
  unfold Show.advanced at h
  split at h
  · rename_i hd
    exact absurd h (due_target hd).2
  · exact h

/-- An evaluation cancels no show (R11, R76). -/
theorem evaluate_cancelled {b : Bool} {key k : Nat} {w : State} {y : Show} (h : (evaluate b key w).findShow k = some y)
    (hy : y.state = .cancelled) : ∃ x, w.findShow k = some x ∧ x.state = .cancelled := by
  have m := moved_evaluate b key w
  by_cases hk : k = key
  · subst hk
    cases hf : w.findShow k with
    | some x =>
      obtain ⟨z, hz, hst, _⟩ := evaluate_record b k w x hf
      rw [h] at hz
      rw [← Option.some.inj hz, hy] at hst
      exact ⟨x, rfl, advanced_cancelled (advanced_cancelled (advanced_cancelled (advanced_cancelled hst.symm)))⟩
    | none =>
      have ht := m.times k
      rw [State.times, State.times, h, hf] at ht
      cases ht
  · exact ⟨y, by rw [← m.other k hk, h], hy⟩

theorem evaluateKeys_cancelled {b : Bool} {keys : List Nat} {k : Nat} {w : State} {y : Show}
    (h : (evaluateKeys b keys w).findShow k = some y) (hy : y.state = .cancelled) :
    ∃ x, w.findShow k = some x ∧ x.state = .cancelled :=
  foldl_inv (fun u : State => ∀ y, u.findShow k = some y → y.state = .cancelled →
      ∃ x, w.findShow k = some x ∧ x.state = .cancelled) _
    (fun u j hu y hy hc => by
      obtain ⟨x, hx, hxc⟩ := evaluate_cancelled hy hc
      exact hu x hx hxc) keys w (fun y hy hc => ⟨y, hy, hc⟩) y h hy

/-! ### The Notice Queue's share (R125, R126, R129) -/

theorem mem_noticesWhere {q : NoticeQueue} {f : Notice → Bool} {n : Notice} :
    n ∈ noticesWhere q f ↔ (∃ i, (q.at_ i).notice = some n) ∧ f n = true := by
  simp only [noticesWhere, List.mem_filter, List.mem_map, Prod.exists, mem_liveNotices]
  refine and_congr_left fun _ => ⟨?_, ?_⟩
  · rintro ⟨i, gen, m, hm, rfl⟩
    exact ⟨i, by rw [at_eq_some.mpr hm]⟩
  · rintro ⟨i, hi⟩
    refine ⟨i, (q.at_ i).gen, n, at_eq_some.mp ?_, rfl⟩
    rw [← hi]

theorem mapNotices_at (q : NoticeQueue) (f : Notice → Notice) (i : Nat) :
    (q.mapNotices f).at_ i = ⟨(q.at_ i).gen, (q.at_ i).notice.map f⟩ := by
  simp only [NoticeQueue.at_, NoticeQueue.mapNotices, List.getElem?_map]
  cases q.slots[i]? <;> rfl

/-- What a boundary makes of a notice: it leaves, or its life or interval falls (R125, R126, R129). -/
def counted (s : State) (n : Notice) : Option Notice :=
  if lifeDue n || windowClosed s n then none else some n.lowered

theorem lowered_eq (n : Notice) : n.lowered = { n with life := n.life.minuteLater } := by
  cases n with
  | mk origin cls prio scope text life linked seq => cases life <;> rfl

theorem counted_eq_some {s : State} {n n' : Notice} : counted s n = some n' ↔
    lifeDue n = false ∧ windowClosed s n = false ∧ n' = { n with life := n.life.minuteLater } := by
  unfold counted
  rw [← lowered_eq]
  cases lifeDue n <;> cases windowClosed s n <;> simp [eq_comm]

theorem raiseEnded_notice (l : List Notice) (s : State) : (raiseEnded l s).notice = s.notice :=
  foldl_keep (fun u : State => u.notice) _ (fun u n => by split <;> simp) l s

theorem raiseEnded_chime (l : List Notice) (s : State) : (raiseEnded l s).chime = s.chime :=
  foldl_keep (fun u : State => u.chime) _ (fun u n => by split <;> simp) l s

theorem raiseEnded_policy (l : List Notice) (s : State) : (raiseEnded l s).policy = s.policy :=
  foldl_keep (fun u : State => u.policy) _ (fun u n => by split <;> simp) l s

theorem raiseEnded_stay (l : List Notice) (s : State) : CausesStay s (raiseEnded l s) :=
  foldl_stay _ (fun u n => by
    split
    · exact raise_stay _ _ u
    · exact CausesStay.refl u) l s

/-- The queue after the Notice Queue's share, before NOTICES is filed and REMINDER handed. -/
def noticesCounted (s : State) : State :=
  raiseEnded (noticesWhere s.notice lifeDue)
    (s.withNotice
      ((s.notice.dropAll (s.notice.slotsWhere fun n => lifeDue n || windowClosed s n)).mapNotices Notice.lowered))

/-- NOTICES filed when the queue lost a notice. -/
def noticesFiled (s : State) : State :=
  if (s.notice.slotsWhere fun n => lifeDue n || windowClosed s n).isEmpty then noticesCounted s
  else fileNotices (noticesCounted s)

theorem noticeBoundary_eq (s : State) : noticeBoundary s =
    if !(noticesWhere s.notice reminderDue).isEmpty then chimeTrigger .reminder (noticesFiled s) else noticesFiled s := rfl

theorem noticesFiled_frame (s : State) : (noticesFiled s).notice = (noticesCounted s).notice ∧
    (noticesFiled s).chime = s.chime ∧ (noticesFiled s).policy = s.policy := by
  have hchime : (noticesCounted s).chime = s.chime := raiseEnded_chime _ _
  have hpolicy : (noticesCounted s).policy = s.policy := raiseEnded_policy _ _
  unfold noticesFiled
  split
  · exact ⟨rfl, hchime, hpolicy⟩
  · exact ⟨by simp, by simpa using hchime, by simpa using hpolicy⟩

theorem noticesFiled_stay (s : State) : CausesStay (noticesCounted s) (noticesFiled s) := by
  unfold noticesFiled
  split
  · exact CausesStay.refl _
  · exact (fileNotices_onlyForced _).stay

theorem noticeBoundary_slot (s : State) (i : Nat) : (noticeBoundary s).noticeSlot i =
    ⟨(s.noticeSlot i).gen, (s.noticeSlot i).notice.bind (counted s)⟩ := by
  have hnotice : (noticeBoundary s).notice = (noticesCounted s).notice := by
    rw [noticeBoundary_eq, ← (noticesFiled_frame s).1]
    split <;> simp
  rw [noticeSlot_eq, noticeSlot_eq, hnotice, noticesCounted, raiseEnded_notice, withNotice_notice, mapNotices_at,
    dropWhere_at]
  cases hn : (s.notice.at_ i).notice with
  | none => simp [hn]
  | some n =>
    by_cases hg : lifeDue n || windowClosed s n
    · simp [counted, hg, NoticeSlot.emptied]
    · simp [counted, hg, hn]

theorem noticeBoundary_chime (s : State) : (noticeBoundary s).chime =
    if !(noticesWhere s.notice reminderDue).isEmpty then s.chime.trigger s.policy.chimeEnable .reminder else s.chime := by
  obtain ⟨_, hchime, hpolicy⟩ := noticesFiled_frame s
  rw [noticeBoundary_eq]
  split
  · rw [← hchime, ← hpolicy]
    rfl
  · exact hchime

theorem noticesCounted_stay (s : State) : CausesStay s (noticesCounted s) := by
  have hn : ∀ q, CausesStay s (s.withNotice q) := fun _ => CausesStay.of_ports rfl
  rw [noticesCounted]
  exact (hn _).trans (raiseEnded_stay _ _)

theorem noticeBoundary_stay_counted (s : State) : CausesStay (noticesCounted s) (noticeBoundary s) := by
  rw [noticeBoundary_eq]
  split
  · exact (noticesFiled_stay s).trans (CausesStay.of_ports (by simp))
  · exact noticesFiled_stay s

theorem raiseEnded_raises {l : List Notice} {n : Notice} {p : Port} {tm : Byte} (s : State) (hm : n ∈ l)
    (ho : n.origin = .sales p tm) (hp : p ≠ .programme) : causeSet p .noticeEnded (raiseEnded l s) = true := by
  induction l generalizing s with
  | nil => cases hm
  | cons m l ih =>
    by_cases hn : n = m
    · subst hn
      have hraise : causeSet p .noticeEnded (raise p .noticeEnded s) = true :=
        raise_sets _ _ _ (by cases p <;> simp_all [Cause.bit])
      rw [raiseEnded, List.foldl_cons, ho]
      exact (raiseEnded_stay l _).causeSet (by decide) hraise
    · exact ih _ ((List.mem_cons.mp hm).resolve_left hn)

/-- NOTICE_ENDED stands raised for every notice whose life ends (R125). -/
theorem noticeBoundary_raises {s : State} {i : Nat} {n : Notice} {p : Port} {tm : Byte}
    (h : (s.noticeSlot i).notice = some n) (hd : lifeDue n = true) (ho : n.origin = .sales p tm) (hp : p ≠ .programme) :
    causeSet p .noticeEnded (noticeBoundary s) = true := by
  have hm : n ∈ noticesWhere s.notice lifeDue := mem_noticesWhere.mpr ⟨⟨i, h⟩, hd⟩
  have hc : causeSet p .noticeEnded (noticesCounted s) = true := by
    rw [noticesCounted]
    exact raiseEnded_raises _ hm ho hp
  exact (noticeBoundary_stay_counted s).causeSet (by decide) hc

theorem noticeBoundary_stay (s : State) : CausesStay s (noticeBoundary s) :=
  (noticesCounted_stay s).trans (noticeBoundary_stay_counted s)

/-! ### What each receiver leaves (R8) -/

theorem boundaryAt_shows {r : MinReceiver} (h : r ≠ .shows) (u : State) : (boundaryAt r u).shows = u.shows := by
  cases r with
  | shows => exact absurd rfl h
  | _ => simp [boundaryAt]

theorem boundaryAt_notice {r : MinReceiver} (hs : r ≠ .shows) (hn : r ≠ .notice) (u : State) :
    (boundaryAt r u).notice = u.notice := by
  cases r with
  | shows => exact absurd rfl hs
  | notice => exact absurd rfl hn
  | _ => simp [boundaryAt]

theorem boundaryAt_board {r : MinReceiver} (hs : r ≠ .shows) (hb : r ≠ .board) (u : State) :
    (boundaryAt r u).board = u.board := by
  cases r with
  | shows => exact absurd rfl hs
  | board => exact absurd rfl hb
  | _ => simp [boundaryAt]

theorem evaluateAll_framed (u : State) : Framed u (evaluateAll u) := evaluateKeys_framed true u.showKeys u

theorem boundaryAt_chime {r : MinReceiver} (h : r ≠ .notice) (u : State) : (boundaryAt r u).chime = u.chime := by
  cases r with
  | notice => exact absurd rfl h
  | shows => rw [boundaryAt, (evaluateAll_framed u).blocks]
  | _ => simp [boundaryAt]

theorem boundaryAt_steady {r : MinReceiver} (h : r ≠ .link) (u : State) :
    (boundaryAt r u).link.steady = u.link.steady := by
  cases r with
  | link => exact absurd rfl h
  | shows => exact (evaluateAll_framed u).steady
  | _ => simp [boundaryAt]

theorem boundaryAt_stay (r : MinReceiver) (u : State) : CausesStay u (boundaryAt r u) := by
  cases r with
  | shows => exact evaluateKeys_stay true u.showKeys u
  | board => exact (publishLines_onlyForced (cancelledToday u) u).stay
  | notice => exact noticeBoundary_stay u
  | link => exact CausesStay.of_ports rfl

/-- What every receiver keeps of the shows from the boundary on: clock, times, and an evaluation yet to come or done. -/
structure Bounded (w u : State) : Prop where
  clock : u.shows.clock = w.shows.clock
  policy : u.policy = w.policy
  keys : u.showKeys = w.showKeys
  times : ∀ k, u.times k = w.times k
  evaluated : u.shows = w.shows ∨ ∀ k ∈ u.showKeys, Settled k u

theorem Bounded.refl (w : State) : Bounded w w := ⟨rfl, rfl, rfl, fun _ => rfl, .inl rfl⟩

theorem showKeys_congr {s t : State} (h : t.shows = s.shows) : t.showKeys = s.showKeys := by simp [State.showKeys, h]

theorem Bounded.boundaryAt {w u : State} (a : Bounded w u) (r : MinReceiver) : Bounded w (boundaryAt r u) := by
  have hpolicy : (Machine.boundaryAt r u).policy = u.policy := by simp
  by_cases hr : r = .shows
  · subst hr
    refine ⟨(evaluateAll_framed u).clock.trans a.clock, hpolicy.trans a.policy,
      (evaluateKeys_showKeys true _ u).trans a.keys, fun k => (evaluateKeys_times true _ u k).trans (a.times k),
      .inr (evaluateAll_settled u)⟩
  · have hshows := boundaryAt_shows hr u
    refine ⟨by rw [hshows, a.clock], hpolicy.trans a.policy, (showKeys_congr hshows).trans a.keys,
      fun k => (times_congr hshows k).trans (a.times k), a.evaluated.imp (hshows.trans ·) fun hs k hk => ?_⟩
    exact settled_congr hshows hpolicy (hs k (by rwa [showKeys_congr hshows] at hk))

theorem windowClosed_iff (t : State) (n : Notice) : windowClosed t n = true ↔ WindowOver t n := by
  unfold windowClosed WindowOver
  cases hl : n.linked with
  | none => simp
  | some k =>
    cases hf : t.findShow k with
    | none => simp [hf]
    | some sh => simp [hf, and_assoc]

theorem windowOver_iff_times (t : State) (n : Notice) : WindowOver t n ↔ n.cls = .cancel ∧ t.shows.clock.valid = true ∧
    ∃ k start run, n.linked = some k ∧ t.times k = some (0, start, run) ∧ start + run ≤ t.shows.clock.minute := by
  refine and_congr_right fun _ => and_congr_right fun _ => exists_congr fun k => ?_
  unfold State.times
  cases t.findShow k with
  | none => simp
  | some sh => simp [and_assoc]

/-- A window's close is a matter of the clock and the show's times (R129). -/
theorem windowOver_congr {w u : State} (a : Bounded w u) (n : Notice) : WindowOver u n ↔ WindowOver w n := by
  rw [windowOver_iff_times, windowOver_iff_times, funext a.times, a.clock]

theorem windowClosed_congr {w u : State} (a : Bounded w u) (n : Notice) : windowClosed u n = windowClosed w n := by
  rw [Bool.eq_iff_iff, windowClosed_iff, windowClosed_iff, windowOver_congr a]

theorem counted_congr {w u : State} (a : Bounded w u) (n : Notice) : counted u n = counted w n := by
  rw [counted, windowClosed_congr a, counted]

/-! ### The queue through the boundary -/

/-- The queue of `u` holds what `g` makes of the notices of `w`, but for DELAY notices whose show has moved (R128). -/
structure QueueMade (g : Notice → Option Notice) (w u : State) : Prop where
  gens : ∀ i, (u.noticeSlot i).gen = (w.noticeSlot i).gen
  made : ∀ i n', (u.noticeSlot i).notice = some n' → ∃ n, (w.noticeSlot i).notice = some n ∧ g n = some n'
  kept : ∀ i n, (w.noticeSlot i).notice = some n → StateKept w u n → (u.noticeSlot i).notice = g n

theorem stateKept_congr {s t u : State} (h : u.shows = t.shows) {n : Notice} (hk : StateKept s u n) : StateKept s t n :=
  fun hc k hl => by rw [← findShow_congr h, hk hc k hl]

theorem QueueMade.boundaryAt {g : Notice → Option Notice}
    (hg : ∀ n n', g n = some n' → n'.cls = n.cls ∧ n'.linked = n.linked) {w u : State} (a : QueueMade g w u) (b : Bounded w u) (hp : u.showKeys.Pairwise (· < ·)) {r : MinReceiver}
    (hr : r ≠ .notice) : QueueMade g w (boundaryAt r u) := by
  by_cases hs : r = .shows
  · subst hs
    rcases b.evaluated with hshows | hsettled
    · have hthin : Thins u.notice (evaluateAll u).notice := evaluateKeys_thins true u.showKeys u
      refine ⟨fun i => (hthin.gen i).trans (a.gens i), fun i n' hn => a.made i n' (hthin.notice hn), fun i n hn hk => ?_⟩
      have hu := a.kept i n hn fun hc k hl => by rw [findShow_congr hshows]
      cases hgn : g n with
      | none =>
        rw [hgn] at hu
        cases hx : ((evaluateAll u).noticeSlot i).notice with
        | none => exact hx
        | some m => exact absurd (hu.symm.trans (hthin.notice hx)) (by simp)
      | some n' =>
        obtain ⟨hcls, hlink⟩ := hg n n' hgn
        rw [hgn] at hu
        have hslot := evaluateKeys_slot (b := true) (hp.imp fun h => Nat.ne_of_lt h) u hu fun hc k hl => by
          rw [findShow_congr hshows k]
          exact hk (hcls ▸ hc) k (hlink ▸ hl)
        exact (congrArg NoticeSlot.notice hslot).trans hu
    · rwa [Machine.boundaryAt, evaluateAll_of_settled hsettled]
  · have hnotice := boundaryAt_notice hs hr u
    refine ⟨fun i => ?_, fun i n' hn => ?_, fun i n hn hk => ?_⟩
    · rw [noticeSlot_congr hnotice, a.gens]
    · exact a.made i n' (by rwa [noticeSlot_congr hnotice] at hn)
    · rw [noticeSlot_congr hnotice, a.kept i n hn (stateKept_congr (boundaryAt_shows hs u) hk)]

theorem counted_linked {s : State} (n n' : Notice) (h : counted s n = some n') : n'.cls = n.cls ∧ n'.linked = n.linked := by
  obtain ⟨_, _, rfl⟩ := counted_eq_some.mp h
  exact ⟨rfl, rfl⟩

/-- The queue, NOTICE_ENDED and the chime after the Notice Queue's share of a boundary at `w` (R125, R126, R129). -/
structure Counted (w u : State) : Prop where
  queue : QueueMade (counted w) w u
  ended : ∀ i n p tm, (w.noticeSlot i).notice = some n → lifeDue n = true → n.origin = .sales p tm → n.linked = none →
    p ≠ .programme → causeSet p .noticeEnded u = true
  rung : (∃ i n, (w.noticeSlot i).notice = some n ∧ n.linked = none ∧ reminderDue n = true) →
    u.chime = w.chime.trigger w.policy.chimeEnable .reminder
  silent : (∀ i n, (w.noticeSlot i).notice = some n → reminderDue n = false) → u.chime = w.chime

theorem stateKept_of_unlinked {s t : State} {n : Notice} (h : n.linked = none) : StateKept s t n := fun _ k hk => by
  rw [h] at hk
  cases hk

/-- The Notice Queue's share, taken on a queue that has lost only DELAY notices of shows that moved. -/
theorem counted_of_noticeBoundary {w u : State} (b : Bounded w u) (a : QueueMade some w u) (hc : u.chime = w.chime) :
    Counted w (noticeBoundary u) := by
  have hfree : ∀ i n, (w.noticeSlot i).notice = some n → n.linked = none → (u.noticeSlot i).notice = some n :=
    fun i n hn hl => a.kept i n hn (stateKept_of_unlinked hl)
  refine ⟨⟨fun i => ?_, fun i n' hn => ?_, fun i n hn hk => ?_⟩, fun i n p tm hn hd ho hl hp => ?_, fun hdue => ?_,
    fun hno => ?_⟩
  · rw [noticeBoundary_slot, a.gens]
  · rw [noticeBoundary_slot] at hn
    obtain ⟨m, hm, hmc⟩ := Option.bind_eq_some_iff.mp hn
    obtain ⟨n, hn, he⟩ := a.made i m hm
    rw [← Option.some.inj he, counted_congr b] at hmc
    exact ⟨n, hn, hmc⟩
  · rw [noticeBoundary_slot, a.kept i n hn (stateKept_congr (by simp) hk), ← counted_congr b]
    rfl
  · exact noticeBoundary_raises (hfree i n hn hl) hd ho hp
  · obtain ⟨i, n, hn, hl, hd⟩ := hdue
    have hm : n ∈ noticesWhere u.notice reminderDue := mem_noticesWhere.mpr ⟨⟨i, hfree i n hn hl⟩, hd⟩
    rw [noticeBoundary_chime, if_pos (by simpa using List.ne_nil_of_mem hm), hc, b.policy]
  · have hnone : noticesWhere u.notice reminderDue = [] := List.eq_nil_iff_forall_not_mem.mpr fun n hm => by
      obtain ⟨⟨i, hi⟩, hd⟩ := mem_noticesWhere.mp hm
      obtain ⟨m, hm, he⟩ := a.made i n hi
      rw [← Option.some.inj he, hno i m hm] at hd
      cases hd
    rw [noticeBoundary_chime, hnone]
    exact hc

theorem Counted.boundaryAt {w u : State} (a : Counted w u) (b : Bounded w u) (hp : u.showKeys.Pairwise (· < ·))
    {r : MinReceiver} (hr : r ≠ .notice) : Counted w (boundaryAt r u) where
  queue := a.queue.boundaryAt counted_linked b hp hr
  ended := fun i n p tm hn hd ho hl hport =>
    (boundaryAt_stay r u).causeSet (by decide) (a.ended i n p tm hn hd ho hl hport)
  rung := fun h => (boundaryAt_chime hr u).trans (a.rung h)
  silent := fun h => (boundaryAt_chime hr u).trans (a.silent h)

/-! ### The receivers, each once -/

/-- Every receiver's share of a boundary, in the order given (R8). -/
def boundaryShared (order : List MinReceiver) (w : State) : State :=
  (completeOrder order [.shows, .board, .notice, .link]).foldl (fun u r => boundaryAt r u) w

section
variable (order : List MinReceiver) {w : State}

theorem boundaryShared_inv (P : State → Prop) (h : ∀ r u, P u → P (boundaryAt r u)) (hw : P w) :
    P (boundaryShared order w) :=
  foldl_inv P _ (fun u r hu => h r u hu) _ w hw

theorem boundaryShared_once (r : MinReceiver) (A B : State → Prop) (hr : ∀ u, A u → B (boundaryAt r u))
    (hA : ∀ u x, x ≠ r → A u → A (boundaryAt x u)) (hB : ∀ u x, x ≠ r → B u → B (boundaryAt x u)) (hw : A w) :
    B (boundaryShared order w) := by
  have hl := perm_completeOrder order [MinReceiver.shows, .board, .notice, .link]
  exact foldl_once A B r hr hA hB (hl.nodup_iff.mpr (by decide)) (hl.mem_iff.mpr (by cases r <;> decide)) hw

theorem boundaryShared_bounded : Bounded w (boundaryShared order w) :=
  boundaryShared_inv order (Bounded w) (fun r _ hu => hu.boundaryAt r) (Bounded.refl w)

theorem boundaryShared_settled : ∀ k ∈ (boundaryShared order w).showKeys, Settled k (boundaryShared order w) :=
  boundaryShared_once order .shows (fun _ => True) (fun u => ∀ k ∈ u.showKeys, Settled k u)
    (fun u _ => evaluateAll_settled u) (fun _ _ _ h => h) (fun u x hx hu k hk => by
      have hshows := boundaryAt_shows hx u
      exact settled_congr hshows (by simp) (hu k (by rwa [showKeys_congr hshows] at hk))) trivial

theorem boundaryShared_beacon : (boundaryShared order w).link.beaconPending = true :=
  boundaryShared_once order .link (fun _ => True) (fun u => u.link.beaconPending = true) (fun _ _ => rfl)
    (fun _ _ _ h => h)
    (fun u _ hx hu => (congrArg PanelLink.beaconPending (boundaryAt_steady hx u)).trans hu) trivial

/-- After the tests of the windows every cancelled show of today is served, and stays so (R87). -/
theorem boundaryShared_lines {k : Nat} {x : Show} (h : (boundaryShared order w).findShow k = some x) (hd : x.day = 0)
    (hc : x.state = .cancelled) : LineServed k (boundaryShared order w) := by
  refine boundaryShared_once order .board (fun _ => True)
    (fun u => ∀ x, u.findShow k = some x → x.day = 0 → x.state = .cancelled → LineServed k u) (fun u _ x hx hd hc => ?_)
    (fun _ _ _ h => h) (fun u r hr hu x hx hd hc => ?_) trivial x h hd hc
  · have hx : u.findShow k = some x := by rwa [findShow_congr (boundaryAt_shows (by decide) u)] at hx
    have hm : k ∈ cancelledToday u := by
      refine List.mem_map.mpr ⟨x, List.mem_filter.mpr ⟨findShow_mem hx, ?_⟩, findShow_key hx⟩
      simp [hd, hc]
    show (publishLines (cancelledToday u) u).lineImage k = computeLine (publishLines (cancelledToday u) u) k
    rw [publishLines_image, if_pos hm]
    exact (computeLine_congr (by simp) k).symm
  · by_cases hs : r = .shows
    · subst hs
      obtain ⟨y, hy, hyc⟩ := evaluateKeys_cancelled (b := true) (keys := u.showKeys) hx hc
      have ht := evaluateKeys_times true u.showKeys u k
      have hx' : (evaluateKeys true u.showKeys u).findShow k = some x := hx
      simp only [State.times, hx', hy, Option.map_some, Option.some.injEq, Prod.mk.injEq] at ht
      exact evaluateKeys_lineServed (hu y hy (ht.1.symm.trans hd) hyc)
    · have hshows := boundaryAt_shows hs u
      exact lineServed_congr hshows (boundaryAt_board hs hr u) (hu x (by rwa [findShow_congr hshows] at hx) hd hc)

theorem boundaryShared_counted (hp : w.showKeys.Pairwise (· < ·)) : Counted w (boundaryShared order w) := by
  have hkeys : ∀ {u}, Bounded w u → u.showKeys.Pairwise (· < ·) := fun b => by rwa [b.keys]
  refine (boundaryShared_once order .notice (fun u => Bounded w u ∧ QueueMade some w u ∧ u.chime = w.chime)
    (fun u => Bounded w u ∧ Counted w u) (fun u ⟨b, a, hc⟩ => ⟨b.boundaryAt .notice, counted_of_noticeBoundary b a hc⟩)
    (fun u x hx ⟨b, a, hc⟩ => ⟨b.boundaryAt x, a.boundaryAt ?_ b (hkeys b) hx, (boundaryAt_chime hx u).trans hc⟩)
    (fun u x hx ⟨b, a⟩ => ⟨b.boundaryAt x, a.boundaryAt b (hkeys b) hx⟩)
    ⟨Bounded.refl w, ⟨fun _ => rfl, fun _ n hn => ⟨n, hn, rfl⟩, fun _ _ hn _ => hn⟩, rfl⟩).2
  exact fun n n' h => by rw [Option.some.inj h]; exact ⟨rfl, rfl⟩

/-- From a state with every show settled and every line served, the receivers leave shows, seats and images. -/
theorem boundaryShared_of_served (hs : ∀ k ∈ w.showKeys, Settled k w) (hl : ∀ k, LineServed k w) :
    (boundaryShared order w).shows = w.shows ∧ (boundaryShared order w).seat = w.seat ∧
    (boundaryShared order w).board = w.board := by
  refine (boundaryShared_inv order (fun u => u.policy = w.policy ∧ u.shows = w.shows ∧ u.seat = w.seat ∧ u.board = w.board)
    (fun r u ⟨hp, hshows, hseat, hboard⟩ => ⟨by simpa using hp, ?_⟩) ⟨rfl, rfl, rfl, rfl⟩).2
  cases r with
  | shows =>
    have he : evaluateAll u = u := evaluateAll_of_settled fun k hk =>
      settled_congr hshows hp (hs k (by rwa [showKeys_congr hshows] at hk))
    rw [boundaryAt, he]
    exact ⟨hshows, hseat, hboard⟩
  | board =>
    have he : testWindows u = u := publishLines_of_served fun k => lineServed_congr hshows hboard (hl k)
    rw [boundaryAt, he]
    exact ⟨hshows, hseat, hboard⟩
  | notice => simpa [boundaryAt] using ⟨hshows, hseat, hboard⟩
  | link => exact ⟨hshows, hseat, hboard⟩

theorem boundaryShared_stay : CausesStay w (boundaryShared order w) :=
  boundaryShared_inv order (CausesStay w) (fun r u hu => hu.trans (boundaryAt_stay r u)) (CausesStay.refl w)

end

/-! ### Where the boundary starts: the next minute, or the roll (R7, R8) -/

/-- The state the receivers take over: the minute advanced, or the day rolled. -/
def boundaryStart (s : State) : State :=
  if 1439 ≤ s.shows.clock.minute then rollDay s
  else s.withClock { s.shows.clock with minute := s.shows.clock.minute + 1, second := 0 }

theorem minuteBoundary_eq (order : List MinReceiver) (s : State) :
    minuteBoundary order s = boundaryShared order (boundaryStart s) := rfl

theorem boundaryStart_roll {s : State} (h : 1439 ≤ s.shows.clock.minute) : boundaryStart s = rollDay s := if_pos h

theorem boundaryStart_minute {s : State} (h : s.shows.clock.minute < 1439) :
    boundaryStart s = s.withClock { s.shows.clock with minute := s.shows.clock.minute + 1, second := 0 } :=
  if_neg (Nat.not_le.mpr h)

theorem boundaryStart_clock {s : State} (hv : s.shows.clock.valid = true) : (boundaryStart s).shows.clock =
    ⟨true, if 1439 ≤ s.shows.clock.minute then 0 else s.shows.clock.minute + 1, 0⟩ := by
  unfold boundaryStart
  split
  · rw [rollDay_clock, hv]
  · rw [← hv]
    rfl

theorem boundaryStart_pairwise {s : State} (h : s.shows.shows.Pairwise (fun a b => a.key < b.key)) :
    (boundaryStart s).shows.shows.Pairwise (fun a b => a.key < b.key) := by
  unfold boundaryStart
  split
  · exact rollDay_pairwise h
  · exact h

theorem boundaryStart_frame (s : State) : (boundaryStart s).chime = s.chime ∧ (boundaryStart s).policy = s.policy := by
  unfold boundaryStart
  split
  · rw [(rollDay_framed s).blocks]
    exact ⟨rfl, rfl⟩
  · exact ⟨rfl, rfl⟩

theorem rollDay_thins (s : State) : Thins s.notice (rollDay s).notice := by
  have hv : (voidHolds (goneKeys s) s).notice = s.notice := by simp
  have hswept : Thins s.notice (swept s).notice := hv ▸ withdrawWhere_thins _ (voidHolds (goneKeys s) s)
  rw [rollDay_notice]
  exact hswept.trans (evaluateKeys_thins false (shifted s).showKeys (shifted s))

/-- A roll keeps a notice linked to none of today's shows, if its show keeps its state should it be a DELAY notice. -/
theorem rollDay_slot {s : State} (hp : s.shows.shows.Pairwise (fun a b => a.key < b.key)) {i : Nat} {n : Notice}
    (h : (s.noticeSlot i).notice = some n) (hfree : ∀ k ∈ goneKeys s, n.linked ≠ some k)
    (hk : StateKept s (rollDay s) n) : (rollDay s).noticeSlot i = s.noticeSlot i := by
  have hv : (voidHolds (goneKeys s) s).noticeSlot i = s.noticeSlot i := noticeSlot_congr (by simp) i
  have hunlinked : isLinkedTo (goneKeys s) n = false := by
    unfold isLinkedTo
    cases hl : n.linked with
    | none => rfl
    | some k => simpa using fun hm => hfree k hm hl
  have hswept : (shifted s).noticeSlot i = s.noticeSlot i :=
    (withdrawWhere_kept (f := isLinkedTo (goneKeys s)) (by rw [hv, h]) hunlinked).trans hv
  have hrolled : StateKept (shifted s) (rolled s) n := fun hc k hl => by
    have hsame : (rollDay s).findShow k = (rolled s).findShow k := by
      simp only [State.findShow, rollDay_shows, recomputeDoors_shows]
    rw [← hsame, hk hc k hl, shifted_state hp fun hm => hfree k hm hl]
  have hnodup : (shifted s).showKeys.Nodup := (showKeys_pairwise.mpr (shifted_pairwise hp)).imp fun h => Nat.ne_of_lt h
  rw [noticeSlot_congr (rollDay_notice s)]
  exact (evaluateKeys_slot hnodup (shifted s) (by rw [hswept, h]) hrolled).trans hswept

theorem boundaryStart_thins (s : State) : Thins s.notice (boundaryStart s).notice := by
  unfold boundaryStart
  split
  · exact rollDay_thins s
  · exact Thins.refl _

theorem boundaryStart_served {s : State} (hs : Sized s) (h : 1439 ≤ s.shows.clock.minute) (order : List MinReceiver) :
    (boundaryShared order (boundaryStart s)).shows = (rollDay s).shows ∧
    (boundaryShared order (boundaryStart s)).seat = (rollDay s).seat ∧
    (boundaryShared order (boundaryStart s)).board = (rollDay s).board := by
  obtain ⟨_, _, _, _, hlines, _⟩ := rollDay_rolled hs
  rw [boundaryStart_roll h]
  exact boundaryShared_of_served order (rollDay_settled s) hlines

/-- The notices a boundary starts with: those of today's shows have gone with them, and DELAY notices of shows that moved. -/
theorem boundaryStart_kept {s : State} (hs : Sized s) (hp : s.shows.shows.Pairwise (fun a b => a.key < b.key))
    (order : List MinReceiver) {i : Nat} {n : Notice} (h : (s.noticeSlot i).notice = some n)
    (hk : StateKept s (boundaryShared order (boundaryStart s)) n)
    (hfree : 1439 ≤ s.shows.clock.minute → ∀ x ∈ s.shows.shows, x.day = 0 → n.linked ≠ some x.key) :
    ((boundaryStart s).noticeSlot i).notice = some n ∧
    StateKept (boundaryStart s) (boundaryShared order (boundaryStart s)) n := by
  by_cases hm : 1439 ≤ s.shows.clock.minute
  · have hshows := (boundaryStart_served hs hm order).1
    have hslot := rollDay_slot hp h (fun k hk hl => by
      obtain ⟨x, hx, hd, rfl⟩ := mem_goneKeys.mp hk
      exact hfree hm x hx hd hl) (stateKept_congr hshows hk)
    refine ⟨by rw [boundaryStart_roll hm, hslot, h], fun hc k _ => ?_⟩
    rw [findShow_congr hshows, boundaryStart_roll hm]
  · rw [boundaryStart_minute (Nat.lt_of_not_le hm)] at hk ⊢
    exact ⟨h, hk⟩

theorem lifeDue_eq_false {n : Notice} : lifeDue n = false ↔ ∀ l, n.life = .once l → 1 < l := by
  unfold lifeDue
  cases n.life <;> simp

theorem reminderDue_eq_false {n : Notice} :
    reminderDue n = false ↔ ∀ v l, n.prio = .high → n.life = .repeats v l → 1 < l := by
  unfold reminderDue intervalDue
  cases n.life <;> simp [imp.swap]

theorem minuteBoundary_notices {s : State} (hs : Sized s) (hp : s.shows.shows.Pairwise (fun a b => a.key < b.key))
    (order : List MinReceiver) : NoticesCounted s (boundaryShared order (boundaryStart s)) := by
  have b := boundaryShared_bounded order (w := boundaryStart s)
  have a := boundaryShared_counted order (showKeys_pairwise.mpr (boundaryStart_pairwise hp))
  have hthins := boundaryStart_thins s
  obtain ⟨hchime, hpolicy⟩ := boundaryStart_frame s
  have hunlinked : ∀ {i n}, (s.noticeSlot i).notice = some n → n.linked = none →
      ((boundaryStart s).noticeSlot i).notice = some n := fun hn hl =>
    (boundaryStart_kept hs hp order hn (stateKept_of_unlinked hl) fun _ _ _ _ hc => by rw [hl] at hc; cases hc).1
  refine ⟨fun i => (a.queue.gens i).trans (hthins.gen i), fun i n' hn' => ?_, fun i n hn hlife hwin hk hfree => ?_,
    fun i n l p tm hn hlife hl ho hlink hport => ?_, fun ⟨i, n, v, l, hn, hlink, hprio, hlife, hl⟩ => ?_, fun hno => ?_⟩
  · obtain ⟨n, hn, hc⟩ := a.queue.made i n' hn'
    obtain ⟨hlife, hwin, he⟩ := counted_eq_some.mp hc
    refine ⟨n, hthins.notice hn, he, lifeDue_eq_false.mp hlife, ?_⟩
    rw [windowOver_congr b, ← windowClosed_iff, hwin]
    exact Bool.false_ne_true
  · obtain ⟨hn, hk⟩ := boundaryStart_kept hs hp order hn hk hfree
    rw [windowOver_congr b, ← windowClosed_iff, Bool.not_eq_true] at hwin
    rw [a.queue.kept i n hn hk, counted_eq_some]
    exact ⟨lifeDue_eq_false.mpr hlife, hwin, rfl⟩
  · exact a.ended i n p tm (hunlinked hn hlink) (by simp [lifeDue, hlife, hl]) ho hlink hport
  · rw [a.rung ⟨i, n, hunlinked hn hlink, hlink, by simp [reminderDue, intervalDue, hlife, hl, hprio]⟩, hchime, hpolicy]
  · exact (a.silent fun i n hn => reminderDue_eq_false.mpr fun v l => hno i n v l (hthins.notice hn)).trans hchime

/-- Settles O16: the boundary's start, and the receivers each once, whatever their order. -/
theorem minuteBoundary_holds : Obligations.MinuteBoundary := by
  intro order s hs hphase hvalid hsecond hp
  have b := boundaryShared_bounded order (w := boundaryStart s)
  have hpair := pairwise_of_showKeys b.keys (boundaryStart_pairwise hp)
  refine ⟨minuteBoundary order s, congrArg Host.Outcome.next ((if_neg hphase).trans (if_pos ⟨hvalid, hsecond⟩)), ?_⟩
  rw [minuteBoundary_eq]
  refine ⟨b.clock.trans (boundaryStart_clock hvalid), settled_all hpair (boundaryShared_settled order), fun hm k => ?_,
    fun hm => ?_, minuteBoundary_notices hs hp order, fun x hx hd hc => ?_, boundaryShared_beacon order,
    b.policy.trans (boundaryStart_frame s).2, ?_, ?_⟩
  · have hday : ∀ u : State, (u.times k).map (·.1) = (u.findShow k).map (·.day) := fun u => by
      simp [State.times, Function.comp_def]
    rw [← hday, b.times, hday, boundaryStart_minute hm]
    rfl
  · obtain ⟨hshows, hseat, hboard⟩ := boundaryStart_served hs hm order
    have a := boundaryShared_counted order (showKeys_pairwise.mpr (boundaryStart_pairwise hp))
    have hstay := boundaryShared_stay order (w := boundaryStart s)
    rw [boundaryStart_roll hm] at a hstay hshows hseat hboard ⊢
    refine (rollDay_rolled hs).later hshows hseat hboard hstay fun i n hn => ?_
    obtain ⟨m, hm, hc⟩ := a.queue.made i n hn
    exact ⟨m, hm, (counted_linked m n hc).2.symm⟩
  · exact boundaryShared_lines order (findShow_of_mem hpair hx) hd hc
  · rw [← minuteBoundary_eq]
    simp
  · rw [← minuteBoundary_eq]
    simp

end Sys2Proof.Machine

/-! ## The seat law (O10) -/

namespace Sys2Proof.Machine

/-! ### What the seat law reads of a state -/

/-- The Hold Table, the free list, the ports' counts and the shows: all that the seat law speaks of. -/
def State.ledger (s : State) : List HoldSlot × List Nat × Nat × Nat × List Show :=
  (s.seat.slots, s.seat.free, s.seat.countA, s.seat.countB, s.shows.shows)

theorem ledger_congr {s t : State} (hseat : t.seat = s.seat) (hshows : t.shows.shows = s.shows.shows) :
    t.ledger = s.ledger := by
  simp [State.ledger, hseat, hshows]

theorem SeatLaw.of_ledger {s t : State} (h : t.ledger = s.ledger) (hs : SeatLaw s) : SeatLaw t := by
  simp only [State.ledger, Prod.mk.injEq] at h
  obtain ⟨hslots, hfree, hA, hB, hshows⟩ := h
  unfold SeatLaw HoldLaw heldSeats at hs ⊢
  rwa [hslots, hfree, hA, hB, hshows]

theorem SeatLaw.of_blocks {s t : State} (hs : SeatLaw s) (hseat : t.seat = s.seat) (hshows : t.shows = s.shows) :
    SeatLaw t :=
  hs.of_ledger (ledger_congr hseat (by rw [hshows]))

theorem SeatLaw.ordered {s : State} (hs : SeatLaw s) : s.shows.shows.Pairwise (fun a b => a.key < b.key) := hs.2.1

theorem SeatLaw.named {s : State} (hs : SeatLaw s) {i life : Nat} {info : HoldInfo}
    (h : (s.holdSlot i).use = .active info life) :
    (s.seat.slots)[i]? = some (s.holdSlot i) ∧ 1 ≤ info.seats ∧ info.port ≠ .programme ∧
      ∃ sh ∈ s.shows.shows, sh.key = info.key := by
  have hget : (s.seat.slots)[i]? = some (s.holdSlot i) := by
    unfold State.holdSlot at h ⊢
    cases hx : (s.seat.slots)[i]? with
    | none => rw [hx] at h; cases h
    | some x => rfl
  exact ⟨hget, hs.2.2.2 _ (List.mem_of_getElem? hget) info life h⟩

/-! ### Sums over the Hold Table -/

theorem sum_map_set {α : Type} (f : α → Nat) {l : List α} {i : Nat} {x : α} (h : l[i]? = some x) (y : α) :
    ((l.set i y).map f).sum + f x = (l.map f).sum + f y := by
  induction l generalizing i with
  | nil => cases h
  | cons a l ih =>
    cases i with
    | zero =>
      obtain rfl : a = x := by simpa using h
      simp only [List.set_cons_zero, List.map_cons, List.sum_cons]
      omega
    | succ i =>
      have := ih (i := i) (by simpa using h)
      simp only [List.set_cons_succ, List.map_cons, List.sum_cons]
      omega

theorem countP_eq_sum {α : Type} (p : α → Bool) (l : List α) : l.countP p = (l.map fun x => (p x).toNat).sum := by
  induction l with
  | nil => rfl
  | cons a l ih => cases h : p a <;> simp [h, ih, Nat.add_comm]

theorem countP_set_add {α : Type} (p : α → Bool) {l : List α} {i : Nat} {x : α} (h : l[i]? = some x) (y : α) :
    (l.set i y).countP p + (p x).toNat = l.countP p + (p y).toNat := by
  rw [countP_eq_sum, countP_eq_sum]
  exact sum_map_set (fun x => (p x).toNat) h y

theorem le_sum_map {α : Type} (f : α → Nat) {l : List α} {x : α} (h : x ∈ l) : f x ≤ (l.map f).sum :=
  List.single_le_sum (fun _ _ => Nat.zero_le _) _ (List.mem_map_of_mem h)

/-- A hold's seats stand in the held count of its show's zone (R27). -/
theorem SeatLaw.seats_le_held {s : State} (hs : SeatLaw s) {sh : Show} (hm : sh ∈ s.shows.shows) {x : HoldSlot}
    (hx : x ∈ s.seat.slots) (z : Zone) : x.seatsOn sh.key z ≤ (sh.zone z).held := by
  rw [(hs.2.2.1 sh hm z).2]
  exact le_sum_map _ hx

theorem seatsOn_of_active {x : HoldSlot} {life key : Nat} {info : HoldInfo} {z : Zone} (h : x.use = .active info life) :
    x.seatsOn key z = if info.key = key ∧ info.zone = z then info.seats else 0 := by
  simp only [HoldSlot.seatsOn, h]

theorem seatsOn_active {g life key : Nat} {info : HoldInfo} {z : Zone} :
    HoldSlot.seatsOn key z ⟨g, .active info life⟩ = if info.key = key ∧ info.zone = z then info.seats else 0 :=
  seatsOn_of_active rfl

theorem seatsOn_ended {g key : Nat} {info : HoldInfo} {r : EndReason} {z : Zone} :
    HoldSlot.seatsOn key z ⟨g, .ended info r⟩ = 0 := rfl

theorem seatsOn_inactive {x : HoldSlot} (h : x.isActive = false) (key : Nat) (z : Zone) : x.seatsOn key z = 0 := by
  obtain ⟨g, use⟩ := x
  cases use with
  | active info life => cases h
  | _ => rfl

theorem activeFor_inactive {x : HoldSlot} (h : x.isActive = false) (p : Port) : x.activeFor p = false := by
  obtain ⟨g, use⟩ := x
  cases use with
  | active info life => cases h
  | _ => rfl

/-! ### One slot of the Hold Table exchanged for another -/

/-- Slot `i` of the Hold Table, `x`, becomes `y`, and the free list and the ports' counts follow (R48, R50). -/
structure Exchanged (i : Nat) (x y : HoldSlot) (u v : SeatUnit) : Prop where
  slot : (u.slots)[i]? = some x
  slots : v.slots = u.slots.set i y
  nodup : v.free.Nodup
  free : ∀ j, j ∈ v.free ↔ if j = i then y.isActive = false else j ∈ u.free
  count : ∀ p, p ≠ .programme → v.portCount p + (x.activeFor p).toNat = u.portCount p + (y.activeFor p).toNat

theorem Exchanged.holdLaw {i : Nat} {x y : HoldSlot} {u v : SeatUnit} (e : Exchanged i x y u v) (h : HoldLaw u) :
    HoldLaw v := by
  obtain ⟨hlen, -, hfree, hA, hB⟩ := h
  have hi : i < u.slots.length := (List.getElem?_eq_some_iff.mp e.slot).1
  refine ⟨by rw [e.slots, List.length_set, hlen], e.nodup, fun j => ?_, ?_, ?_⟩
  · rw [e.free, e.slots, List.getElem?_set]
    by_cases hj : j = i
    · simp [hj, hi]
    · simp [hj, Ne.symm hj, hfree]
  · have h1 := e.count .salesA (by decide)
    have h2 := countP_set_add (HoldSlot.activeFor .salesA) e.slot y
    simp only [SeatUnit.portCount] at h1
    rw [e.slots]
    omega
  · have h1 := e.count .salesB (by decide)
    have h2 := countP_set_add (HoldSlot.activeFor .salesB) e.slot y
    simp only [SeatUnit.portCount] at h1
    rw [e.slots]
    omega

/-- The seat law after an exchange of one slot and a change `f` of the shows' counts: the held counts follow the slot's
seats, what is committed stays within capacity, and a slot that becomes ACTIVE names a loaded show. -/
theorem SeatLaw.exchange {s t : State} {i : Nat} {x y : HoldSlot} (f : Show → Show) (hs : SeatLaw s)
    (e : Exchanged i x y s.seat t.seat) (hshows : t.shows.shows = s.shows.shows.map f) (hkey : ∀ sh, (f sh).key = sh.key)
    (hf : ∀ sh ∈ s.shows.shows, ∀ z,
      ((f sh).zone z).held + x.seatsOn sh.key z = (sh.zone z).held + y.seatsOn sh.key z ∧
      ((f sh).zone z).committed ≤ ((f sh).zone z).cap)
    (hy : ∀ info life, y.use = .active info life →
      1 ≤ info.seats ∧ info.port ≠ .programme ∧ ∃ sh ∈ s.shows.shows, sh.key = info.key) : SeatLaw t := by
  obtain ⟨hhold, hord, hcounts, hnamed⟩ := hs
  refine ⟨e.holdLaw hhold, ?_, ?_, ?_⟩
  · rw [hshows, List.pairwise_map]
    simpa only [hkey] using hord
  · rw [hshows, List.forall_mem_map]
    intro sh hm z
    obtain ⟨hheld, hcap⟩ := hf sh hm z
    refine ⟨hcap, ?_⟩
    have hsum := sum_map_set (HoldSlot.seatsOn sh.key z) e.slot y
    have hold := (hcounts sh hm z).2
    rw [hkey, heldSeats, e.slots]
    rw [heldSeats] at hold
    omega
  · have hex : ∀ k, (∃ sh ∈ s.shows.shows, sh.key = k) → ∃ sh ∈ t.shows.shows, sh.key = k := by
      rintro k ⟨sh, hm, rfl⟩
      exact ⟨f sh, by rw [hshows]; exact List.mem_map_of_mem hm, hkey sh⟩
    intro w hw info life hu
    rw [e.slots] at hw
    have hall : 1 ≤ info.seats ∧ info.port ≠ .programme ∧ ∃ sh ∈ s.shows.shows, sh.key = info.key := by
      rcases List.mem_or_eq_of_mem_set hw with hw | rfl
      · exact hnamed w hw info life hu
      · exact hy info life hu
    exact ⟨hall.1, hall.2.1, hex _ hall.2.2⟩

/-- The seat law after a change of the shows that leaves keys and held counts, and what is committed within capacity. -/
theorem SeatLaw.of_counts {s t : State} (f : Show → Show) (hs : SeatLaw s) (hseat : t.seat = s.seat)
    (hshows : t.shows.shows = s.shows.shows.map f) (hkey : ∀ sh, (f sh).key = sh.key)
    (hf : ∀ sh ∈ s.shows.shows, ∀ z, ((f sh).zone z).held = (sh.zone z).held ∧
      ((f sh).zone z).committed ≤ ((f sh).zone z).cap) : SeatLaw t := by
  obtain ⟨hhold, hord, hcounts, hnamed⟩ := hs
  refine ⟨by rwa [hseat], ?_, ?_, ?_⟩
  · rw [hshows, List.pairwise_map]
    simpa only [hkey] using hord
  · rw [hshows, List.forall_mem_map]
    intro sh hm z
    obtain ⟨hheld, hcap⟩ := hf sh hm z
    exact ⟨hcap, by rw [hheld, hkey, (hcounts sh hm z).2, heldSeats, heldSeats, hseat]⟩
  · rw [hseat]
    intro w hw info life hu
    obtain ⟨h1, h2, sh, hm, hk⟩ := hnamed w hw info life hu
    exact ⟨h1, h2, f sh, by rw [hshows]; exact List.mem_map_of_mem hm, (hkey sh).trans hk⟩

/-! ### A release, a grant and a new life as exchanges -/

theorem portCount_withPortCount (u : SeatUnit) {p q : Port} (n : Nat) (hp : p ≠ .programme) :
    (u.withPortCount p n).portCount q = if q = p then n else u.portCount q := by
  cases p with
  | programme => exact absurd rfl hp
  | salesA | salesB => cases q <;> rfl

@[simp] theorem withPortCount_free (u : SeatUnit) (p : Port) (n : Nat) : (u.withPortCount p n).free = u.free := by
  cases p <;> rfl

theorem HoldLaw.portCount {u : SeatUnit} (h : HoldLaw u) {p : Port} (hp : p ≠ .programme) :
    u.portCount p = u.slots.countP (HoldSlot.activeFor p) := by
  cases p with
  | salesA => exact h.2.2.2.1
  | salesB => exact h.2.2.2.2
  | programme => exact absurd rfl hp

theorem HoldLaw.mem_free {u : SeatUnit} (h : HoldLaw u) {i : Nat} {x : HoldSlot} (hx : (u.slots)[i]? = some x) :
    i ∈ u.free ↔ x.isActive = false := by
  rw [h.2.2.1, hx]
  simp

theorem activeFor_active {g life : Nat} {info : HoldInfo} (p : Port) :
    HoldSlot.activeFor p ⟨g, .active info life⟩ = (info.port == p) := rfl

theorem release_exchanged {u : SeatUnit} (h : HoldLaw u) {i g life : Nat} {info : HoldInfo}
    (hx : (u.slots)[i]? = some ⟨g, .active info life⟩) (hp : info.port ≠ .programme) (r : EndReason) :
    Exchanged i ⟨g, .active info life⟩ ⟨g, .ended info r⟩ u (u.release i r) := by
  have hrel : u.release i r =
      ({ u with slots := u.slots.set i ⟨g, .ended info r⟩, free := u.free ++ [i] }).withPortCount info.port
        (u.portCount info.port - 1) := by
    unfold SeatUnit.release
    rw [hx]
  have hnot : i ∉ u.free := by
    rw [h.mem_free hx]
    exact Bool.noConfusion
  rw [hrel]
  refine ⟨hx, by simp, ?_, fun j => ?_, fun p hpp => ?_⟩
  · simp only [withPortCount_free, List.nodup_append, List.nodup_singleton, h.2.1, true_and, List.mem_singleton]
    rintro a ha b rfl rfl
    exact hnot ha
  · by_cases hj : j = i <;> simp [hj, HoldSlot.isActive]
  · rw [portCount_withPortCount _ _ hp, activeFor_active]
    by_cases he : p = info.port
    · have hpos : 0 < u.slots.countP (HoldSlot.activeFor p) :=
        List.countP_pos_iff.mpr ⟨_, List.mem_of_getElem? hx, by rw [activeFor_active, he, beq_self_eq_true]⟩
      rw [← h.portCount hpp] at hpos
      subst he
      simp only [if_true, beq_self_eq_true, Bool.toNat_true, HoldSlot.activeFor, Bool.toNat_false]
      omega
    · have hne : (info.port == p) = false := beq_false_of_ne (Ne.symm he)
      rw [if_neg he, hne]
      rfl

theorem grant_exchanged {u : SeatUnit} (h : HoldLaw u) {i : Nat} {rest : List Nat} {x : HoldSlot}
    (hfree : u.free = i :: rest) (hx : (u.slots)[i]? = some x) {info : HoldInfo} (hp : info.port ≠ .programme)
    (life : Nat) :
    Exchanged i x ⟨(x.gen + 1) % 256, .active info life⟩ u (u.grant i info life) := by
  have hslots : (u.grant i info life).slots = u.slots.set i ⟨(x.gen + 1) % 256, .active info life⟩ := by
    simp [SeatUnit.grant, hx]
  have hrest : (u.grant i info life).free = rest := by simp [SeatUnit.grant, hfree]
  have hnodup : i ∉ rest ∧ rest.Nodup := List.nodup_cons.mp (hfree ▸ h.2.1)
  have hinactive : x.isActive = false := (h.mem_free hx).mp (by simp [hfree])
  refine ⟨hx, hslots, by rw [hrest]; exact hnodup.2, fun j => ?_, fun p hpp => ?_⟩
  · rw [hrest, hfree]
    by_cases hj : j = i
    · simp [hj, hnodup.1, HoldSlot.isActive]
    · simp [hj]
  · rw [activeFor_inactive hinactive, SeatUnit.grant, portCount_withPortCount _ _ hp, activeFor_active]
    by_cases he : p = info.port
    · simp [he]
    · have hne : (info.port == p) = false := beq_false_of_ne (Ne.symm he)
      rw [if_neg he, hne]
      rfl

/-- A life counted down or set anew leaves the hold as it is (R60, R66). -/
theorem restamp_exchanged {u : SeatUnit} (h : HoldLaw u) {i g g' life life' : Nat} {info info' : HoldInfo}
    (hx : (u.slots)[i]? = some ⟨g, .active info life⟩) (hport : info'.port = info.port) :
    Exchanged i ⟨g, .active info life⟩ ⟨g', .active info' life'⟩ u
      { u with slots := u.slots.set i ⟨g', .active info' life'⟩ } := by
  refine ⟨hx, rfl, h.2.1, fun j => ?_, fun p _ => ?_⟩
  · by_cases hj : j = i
    · subst hj
      rw [if_pos rfl, h.mem_free hx]
      rfl
    · rw [if_neg hj]
  · rw [activeFor_active, activeFor_active, hport]
    rfl

/-! ### Counts of one zone -/

theorem zone_withZone (sh : Show) (z y : Zone) (c : ZoneCounts) :
    (sh.withZone z c).zone y = if y = z then c else sh.zone y := by
  split
  · rename_i h
    rw [h, withZone_same]
  · rename_i h
    exact withZone_other sh z y c h

theorem zone_addSold (z y : Zone) (n : Nat) (sh : Show) : (addSold z n sh).zone y =
    if y = z then { sh.zone z with sold := (sh.zone z).sold + n } else sh.zone y := zone_withZone _ _ _ _

theorem zone_subSold (z y : Zone) (n : Nat) (sh : Show) : (subSold z n sh).zone y =
    if y = z then { sh.zone z with sold := (sh.zone z).sold - n } else sh.zone y := zone_withZone _ _ _ _

theorem zone_addHeld (z y : Zone) (n : Nat) (sh : Show) : (addHeld z n sh).zone y =
    if y = z then { sh.zone z with held := (sh.zone z).held + n } else sh.zone y := zone_withZone _ _ _ _

theorem zone_subHeld (z y : Zone) (n : Nat) (sh : Show) : (subHeld z n sh).zone y =
    if y = z then { sh.zone z with held := (sh.zone z).held - n } else sh.zone y := zone_withZone _ _ _ _

theorem SeatLaw.within {s : State} (hs : SeatLaw s) {sh : Show} (hm : sh ∈ s.shows.shows) (z : Zone) :
    (sh.zone z).committed ≤ (sh.zone z).cap := (hs.2.2.1 sh hm z).1

/-- The seat law after a change of one show's counts that leaves the held ones. -/
theorem SeatLaw.modify {s : State} (hs : SeatLaw s) {key : Nat} {f : Show → Show} (hkey : ∀ sh, (f sh).key = sh.key)
    (hf : ∀ sh ∈ s.shows.shows, sh.key = key → ∀ z, ((f sh).zone z).held = (sh.zone z).held ∧
      ((f sh).zone z).committed ≤ ((f sh).zone z).cap) : SeatLaw (s.modifyShow key f) := by
  refine hs.of_counts (fun sh => if sh.key = key then f sh else sh) rfl rfl (fun sh => ?_) fun sh hm z => ?_
  · split
    · exact hkey sh
    · rfl
  · split
    · exact hf sh hm ‹_› z
    · exact ⟨rfl, hs.within hm z⟩

/-- A change of a show's record beside its counts (its state, delay, day or availability) leaves the seat law. -/
theorem SeatLaw.modify_zones {s : State} (hs : SeatLaw s) {key : Nat} {f : Show → Show} (hkey : ∀ sh, (f sh).key = sh.key)
    (hzone : ∀ sh z, (f sh).zone z = sh.zone z) : SeatLaw (s.modifyShow key f) :=
  hs.modify hkey fun sh hm _ z => by
    rw [hzone]
    exact ⟨rfl, hs.within hm z⟩

theorem zone_compute (p : Policy) (sh : Show) (z : Zone) : (sh.compute p).zone z = sh.zone z := by cases z <;> rfl

theorem SeatLaw.computeShow {s : State} (hs : SeatLaw s) (key : Nat) : SeatLaw (computeShow key s) :=
  hs.modify_zones (fun _ => rfl) (zone_compute _)

theorem SeatLaw.availability {s : State} (hs : SeatLaw s) (key : Nat) : SeatLaw (availability key s) :=
  (hs.computeShow key).of_blocks (by simp [Machine.availability]) (by simp [Machine.availability])

/-! ### Holds that end -/

theorem endHold_active {s : State} {i life : Nat} {info : HoldInfo} (hu : (s.holdSlot i).use = .active info life)
    (r : EndReason) : endHold i r s =
      (s.withSeat (s.seat.release i r)).modifyShow info.key (subHeld info.zone info.seats) := by
  unfold Machine.endHold
  rw [hu]

theorem endHold_inactive {s : State} {i : Nat} (hu : ∀ info life, (s.holdSlot i).use ≠ .active info life)
    (r : EndReason) : endHold i r s = s := by
  unfold Machine.endHold
  split
  · rename_i hu'
    exact absurd hu' (hu _ _)
  · rfl

theorem SeatLaw.seats_le {s : State} (hs : SeatLaw s) {i life : Nat} {info : HoldInfo}
    (hu : (s.holdSlot i).use = .active info life) {sh : Show} (hm : sh ∈ s.shows.shows) (hk : sh.key = info.key) :
    info.seats ≤ (sh.zone info.zone).held := by
  have h := hs.seats_le_held hm (List.mem_of_getElem? (hs.named hu).1) info.zone
  rwa [seatsOn_of_active hu, hk, if_pos ⟨rfl, rfl⟩] at h

theorem SeatLaw.endHold {s : State} (hs : SeatLaw s) (i : Nat) (r : EndReason) : SeatLaw (endHold i r s) := by
  by_cases hact : ∃ info life, (s.holdSlot i).use = .active info life
  · obtain ⟨info, life, hu⟩ := hact
    obtain ⟨hget, -, hport, -⟩ := hs.named hu
    have hslot : s.holdSlot i = ⟨(s.holdSlot i).gen, .active info life⟩ := by rw [← hu]
    rw [hslot] at hget
    rw [endHold_active hu]
    refine hs.exchange (fun sh => if sh.key = info.key then subHeld info.zone info.seats sh else sh)
      (release_exchanged hs.1 hget hport r) rfl (fun sh => ?_) (fun sh hm z => ?_) fun _ _ h => by cases h
    · split
      · exact subHeld_key _ _ sh
      · rfl
    · have hcap := hs.within hm z
      rw [seatsOn_active, seatsOn_ended]
      by_cases hk : sh.key = info.key
      · have hle := hs.seats_le hu hm hk
        rw [if_pos hk, zone_subHeld]
        by_cases hz : z = info.zone
        · subst hz
          simp only [ZoneCounts.committed, if_true, hk, and_self] at hcap ⊢
          omega
        · simp only [if_neg hz, Ne.symm hz, and_false, if_false]
          exact ⟨trivial, hcap⟩
      · simp only [if_neg hk, Ne.symm hk, false_and, if_false]
        exact ⟨trivial, hcap⟩
  · rw [endHold_inactive fun info life hu => hact ⟨info, life, hu⟩]
    exact hs

/-- The seats of a hold that has ended are free to be sold (R58). -/
theorem SeatLaw.room_after_end {s : State} (hs : SeatLaw s) {i life : Nat} {info : HoldInfo}
    (hu : (s.holdSlot i).use = .active info life) (r : EndReason) {sh : Show}
    (hm : sh ∈ (Machine.endHold i r s).shows.shows) (hk : sh.key = info.key) :
    (sh.zone info.zone).committed + info.seats ≤ (sh.zone info.zone).cap := by
  rw [endHold_active hu, modifyShow_shows] at hm
  obtain ⟨x, hx, rfl⟩ := mem_updateShows.mp hm
  have hxk : x.key = info.key := by
    split at hk
    · exact (subHeld_key _ _ x).symm.trans hk
    · exact hk
  have hle := hs.seats_le hu hx hxk
  have hcap := hs.within hx info.zone
  rw [if_pos hxk, zone_subHeld, if_pos rfl]
  simp only [ZoneCounts.committed] at hcap ⊢
  omega

theorem SeatLaw.confirmed {s : State} (hs : SeatLaw s) {i life : Nat} {info : HoldInfo}
    (hu : (s.holdSlot i).use = .active info life) :
    SeatLaw ((Machine.endHold i .confirmed s).modifyShow info.key (addSold info.zone info.seats)) := by
  refine (hs.endHold i .confirmed).modify (addSold_key _ _) fun sh hm hk z => ?_
  have hroom := hs.room_after_end hu .confirmed hm hk
  have hcap := (hs.endHold i .confirmed).within hm z
  rw [zone_addSold]
  by_cases hz : z = info.zone
  · subst hz
    simp only [ZoneCounts.committed, if_true] at hroom ⊢
    exact ⟨trivial, by omega⟩
  · rw [if_neg hz]
    exact ⟨rfl, hcap⟩

theorem SeatLaw.raise {s : State} (hs : SeatLaw s) (p : Port) (c : Cause) : SeatLaw (raise p c s) :=
  hs.of_blocks (by simp) (by simp)

theorem SeatLaw.expireHold {s : State} (hs : SeatLaw s) (i : Nat) : SeatLaw (expireHold i s) := by
  unfold Machine.expireHold
  split
  · exact ((hs.endHold i .expired).raise _ _).availability _
  · exact hs

theorem SeatLaw.voidHold {s : State} (hs : SeatLaw s) (i : Nat) : SeatLaw (voidHold i s) := by
  unfold Machine.voidHold
  split
  · exact (hs.endHold i .voided).raise _ _
  · exact hs

theorem SeatLaw.voidHolds {s : State} (hs : SeatLaw s) (keys : List Nat) : SeatLaw (voidHolds keys s) :=
  foldl_inv SeatLaw _ (fun _ i hu => hu.voidHold i) _ s hs

theorem SeatLaw.voidShow {s : State} (hs : SeatLaw s) (key : Nat) : SeatLaw (voidShow key s) := by
  unfold Machine.voidShow
  split
  · exact hs
  · exact (hs.voidHolds [key]).computeShow key

/-! ### Holds granted, and lives set anew -/

/-- The seat law after an ACTIVE hold's life or extensions change (R60, R66). -/
theorem SeatLaw.restamp {s : State} (hs : SeatLaw s) {i life : Nat} {info : HoldInfo}
    (hu : (s.holdSlot i).use = .active info life) (g ext life' : Nat) :
    SeatLaw (s.withHoldSlot i ⟨g, .active { info with extensions := ext } life'⟩) := by
  obtain ⟨hget, hseats, hport, hnamed⟩ := hs.named hu
  have hslot : s.holdSlot i = ⟨(s.holdSlot i).gen, .active info life⟩ := by rw [← hu]
  rw [hslot] at hget
  refine hs.exchange id (restamp_exchanged hs.1 hget rfl) (List.map_id _).symm (fun _ => rfl)
    (fun sh hm z => ⟨rfl, hs.within hm z⟩) fun _ _ h => ?_
  cases h
  exact ⟨hseats, hport, hnamed⟩

theorem SeatLaw.tickSlot {s : State} (hs : SeatLaw s) (i : Nat) : SeatLaw (tickSlot i s) := by
  unfold Machine.tickSlot
  split
  · split
    · exact hs.expireHold i
    · exact hs.restamp ‹_› _ _ _
  · exact hs

theorem SeatLaw.seatTick {s : State} (hs : SeatLaw s) : SeatLaw (seatTick s) := by
  unfold Machine.seatTick
  split
  · exact foldl_inv SeatLaw _ (fun _ i hu => hu.tickSlot i) _ s hs
  · exact hs

theorem SeatLaw.grantHold {s : State} (hs : SeatLaw s) {h : Hdr} {key zone count : Nat} {sh : Show}
    (hsh : s.findShow key = some sh) (hport : h.port ≠ .programme) (hcount : 1 ≤ count)
    (hroom : count ≤ (sh.zone (zoneAt zone)).available) (hfree : s.seat.free ≠ []) :
    SeatLaw (grantHold h key zone count s) := by
  obtain ⟨i, rest, hi⟩ := List.exists_cons_of_ne_nil hfree
  have hmem : i ∈ s.seat.free := by rw [hi]; exact List.mem_cons_self
  obtain ⟨x, hx, hinactive⟩ := (hs.1.2.2.1 i).mp hmem
  have hhead : s.seat.free.headD 0 = i := by rw [hi]; rfl
  unfold Machine.grantHold
  rw [hhead]
  refine hs.exchange (fun y => if y.key = key then addHeld (zoneAt zone) count y else y)
    (grant_exchanged hs.1 hi hx (info := ⟨key, zoneAt zone, count, h.port, h.terminal, 0⟩) hport s.policy.holdLife) rfl
    (fun y => ?_) (fun y hm z => ?_) fun info life hu => ?_
  · split
    · exact addHeld_key _ _ y
    · rfl
  · have hcap := hs.within hm z
    rw [seatsOn_inactive hinactive, seatsOn_active]
    by_cases hk : y.key = key
    · obtain rfl : y = sh := Option.some.inj ((findShow_of_mem hs.ordered hm).symm.trans (hk ▸ hsh))
      rw [if_pos hk, zone_addHeld]
      by_cases hz : z = zoneAt zone
      · subst hz
        simp only [ZoneCounts.available, ZoneCounts.committed, if_true, hk, and_self] at hcap hroom ⊢
        omega
      · simp only [if_neg hz, Ne.symm hz, and_false, if_false]
        exact ⟨trivial, hcap⟩
    · simp only [if_neg hk, Ne.symm hk, false_and, if_false]
      exact ⟨trivial, hcap⟩
  · cases hu
    exact ⟨hcount, hport, sh, findShow_mem hsh, findShow_key hsh⟩

/-! ### Changes of a show's state, evaluations (R11, R13) -/

theorem zone_entering (st : ShowState) (e : Option (StartedBy × Nat)) (sh : Show) (z : Zone) :
    (sh.entering st e).zone z = sh.zone z := by
  cases z <;> rfl

theorem SeatLaw.seatAtEntry {s : State} (hs : SeatLaw s) (key : Nat) (st : ShowState) :
    SeatLaw (seatAtEntry key st s) := by
  unfold Machine.seatAtEntry
  split
  · exact hs.voidShow key
  · exact hs.voidShow key
  · exact hs

theorem SeatLaw.entered {s : State} (hs : SeatLaw s) (key aud : Nat) (st : ShowState) (e : Option (StartedBy × Nat)) :
    SeatLaw (entered key aud st e s) := by
  have hwritten : SeatLaw (s.modifyShow key (Show.entering st e)) := hs.modify_zones (fun _ => rfl) (zone_entering st e)
  have hdoor : SeatLaw (recomputeDoor (s.modifyShow key (Show.entering st e)) aud) :=
    hwritten.of_ledger (ledger_congr (by simp) rfl)
  exact (hdoor.seatAtEntry key st).of_blocks (by simp [Machine.entered]) (by simp [Machine.entered])

theorem SeatLaw.enterState {s : State} (hs : SeatLaw s) (b : Bool) (key : Nat) (st : ShowState)
    (e : Option (StartedBy × Nat)) : SeatLaw (enterState b key st e s) := by
  cases hf : s.findShow key with
  | none => rwa [enterState_absent hf]
  | some sh => exact (hs.entered key sh.aud st e).of_blocks (enterState_seat hf b st e) (enterState_shows hf b st e)

theorem SeatLaw.evaluate {s : State} (hs : SeatLaw s) (b : Bool) (key : Nat) : SeatLaw (evaluate b key s) :=
  evaluate_inv SeatLaw (fun st e _ hv => hv.enterState b key st e) hs

theorem SeatLaw.evaluateKeys {s : State} (hs : SeatLaw s) (b : Bool) (keys : List Nat) :
    SeatLaw (evaluateKeys b keys s) :=
  foldl_inv SeatLaw _ (fun _ k hu => hu.evaluate b k) _ s hs

theorem SeatLaw.evaluateAll {s : State} (hs : SeatLaw s) : SeatLaw (evaluateAll s) := hs.evaluateKeys true _

theorem SeatLaw.computeAll {s : State} (hs : SeatLaw s) : SeatLaw (computeAll s) :=
  foldl_inv SeatLaw _ (fun _ k hu => hu.availability k) _ s hs

theorem SeatLaw.arrival {s : State} (hs : SeatLaw s) (aud : Nat) : SeatLaw (arrival aud s) := by
  unfold Machine.arrival
  split
  · exact hs
  · split
    · exact (hs.enterState _ _ _ _).evaluate _ _
    · exact hs.raise _ _

theorem SeatLaw.startChanged {s : State} (hs : SeatLaw s) (key aud : Nat) : SeatLaw (startChanged key aud s) := by
  have hdoor : SeatLaw (publishShow key [aud] (recomputeDoor s aud)) :=
    hs.of_ledger (ledger_congr (by simp) (by simp [recomputeDoor]))
  exact hdoor.evaluate true key

/-! ### Shows that leave the table (R18, R24) -/

/-- Shows that no ACTIVE hold names may leave the table. -/
theorem SeatLaw.filter {s : State} (hs : SeatLaw s) (p : Show → Bool)
    (hp : ∀ x ∈ s.seat.slots, ∀ info life, x.use = .active info life →
      ∀ sh ∈ s.shows.shows, sh.key = info.key → p sh = true) :
    SeatLaw (s.withShowList (s.shows.shows.filter p)) := by
  obtain ⟨hhold, hord, hcounts, hnamed⟩ := hs
  refine ⟨hhold, hord.filter _, fun sh hm => hcounts sh (List.mem_filter.mp hm).1, fun x hx info life hu => ?_⟩
  obtain ⟨hseats, hport, sh, hm, hk⟩ := hnamed x hx info life hu
  exact ⟨hseats, hport, sh, List.mem_filter.mpr ⟨hm, hp x hx info life hu sh hm hk⟩, hk⟩

theorem HoldLaw.mem_slots {s : State} (h : HoldLaw s.seat) {x : HoldSlot} (hx : x ∈ s.seat.slots) :
    ∃ i, i < 192 ∧ s.holdSlot i = x := by
  obtain ⟨i, hi, hget⟩ := List.mem_iff_getElem.mp hx
  refine ⟨i, h.1 ▸ hi, ?_⟩
  rw [State.holdSlot, List.getElem?_eq_getElem hi, hget]
  rfl

theorem isOn_voided (x : HoldSlot) (keys : List Nat) : x.voided.isOn keys = false := by
  obtain ⟨g, use⟩ := x
  cases use <;> rfl

/-- The voids leave no ACTIVE hold on the shows they name (R68, R69). -/
theorem voidHolds_isOn {keys : List Nat} {s : State} {i : Nat} (hi : i < 192) :
    ((voidHolds keys s).holdSlot i).isOn keys = false := by
  rw [voidHolds_slot]
  split
  · exact isOn_voided _ _
  · rename_i h
    exact Bool.eq_false_iff.mpr fun ho => h ⟨hi, ho⟩

theorem SeatLaw.swept {s : State} (hs : SeatLaw s) : SeatLaw (swept s) :=
  (hs.voidHolds (goneKeys s)).of_blocks (by simp [Machine.swept]) (swept_shows s)

/-- After the voids of a roll no ACTIVE hold names a show of today (R24). -/
theorem swept_unheld {s : State} (hs : SeatLaw s) {x : HoldSlot} (hx : x ∈ (swept s).seat.slots) {info : HoldInfo}
    {life : Nat} (hu : x.use = .active info life) {sh : Show} (hm : sh ∈ (swept s).shows.shows) (hk : sh.key = info.key) :
    sh.day ≠ 0 := by
  intro hd
  obtain ⟨y, hy, hyk, hyd, -⟩ := mem_roster (swept_roster s) hm
  have hgone : info.key ∈ goneKeys s := mem_goneKeys.mpr ⟨y, hy, hyd.trans hd, hyk.trans hk⟩
  obtain ⟨i, hi, rfl⟩ := hs.swept.1.mem_slots hx
  have hslot : (swept s).holdSlot i = (Machine.voidHolds (goneKeys s) s).holdSlot i := by
    simp [State.holdSlot, Machine.swept]
  have hoff := voidHolds_isOn (keys := goneKeys s) (s := s) hi
  rw [← hslot, HoldSlot.isOn, hu] at hoff
  simp [hgone] at hoff

theorem zone_nextDay (sh : Show) (z : Zone) : sh.nextDay.zone z = sh.zone z := by cases z <;> rfl

theorem SeatLaw.shifted {s : State} (hs : SeatLaw s) : SeatLaw (shifted s) := by
  have hleft := hs.swept.filter (fun sh => sh.day != 0) fun x hx info life hu sh hm hk => by
    simpa using swept_unheld hs hx hu hm hk
  refine hleft.of_counts (t := Machine.shifted s) Show.nextDay rfl rfl (fun _ => rfl) fun sh hm z => ?_
  rw [zone_nextDay]
  exact ⟨rfl, hleft.within hm z⟩

theorem SeatLaw.rollDay {s : State} (hs : SeatLaw s) : SeatLaw (rollDay s) := by
  have hrolled : SeatLaw (rolled s) := hs.shifted.evaluateKeys false _
  exact hrolled.of_ledger (ledger_congr (rollDay_seat s) (by rw [rollDay_shows, recomputeDoors_shows]))

/-- A show of which no seat is sold, held or withheld is named by no ACTIVE hold (R18, R27). -/
theorem SeatLaw.unheld {s : State} (hs : SeatLaw s) {sh : Show} (hm : sh ∈ s.shows.shows) (hu : sh.committed = 0)
    {x : HoldSlot} (hx : x ∈ s.seat.slots) {info : HoldInfo} {life : Nat} (hact : x.use = .active info life) :
    info.key ≠ sh.key := by
  intro hk
  have hle := hs.seats_le_held hm hx info.zone
  have hone := (hs.2.2.2 x hx info life hact).1
  have hzero : ∀ z, (sh.zone z).held = 0 := fun z => by
    simp only [Show.committed, ZoneCounts.committed] at hu
    cases z <;> simp only [Show.zone] <;> omega
  rw [seatsOn_of_active hact, if_pos ⟨hk, rfl⟩, hzero] at hle
  omega

theorem SeatLaw.dropShow {s : State} (hs : SeatLaw s) {sh : Show} (hm : sh ∈ s.shows.shows) (hu : sh.committed = 0) :
    SeatLaw (dropShow sh.key s) :=
  hs.filter _ fun x hx info life hact y _ hk => by
    have := hs.unheld hm hu hx hact
    rw [← hk] at this
    simpa using this

theorem SeatLaw.removeShow {s : State} (hs : SeatLaw s) (key : Nat) : SeatLaw (removeShow key s).1 := by
  unfold Machine.removeShow
  split
  · exact hs
  · rename_i sh hf
    split
    · exact hs
    · rename_i hin
      obtain rfl : sh.key = key := findShow_key hf
      have hwithdrawn : SeatLaw (withdrawWhere (isLinkedTo [sh.key]) s) := hs.of_blocks (by simp) (by simp)
      have hdrop : SeatLaw (Machine.dropShow sh.key (withdrawWhere (isLinkedTo [sh.key]) s)) :=
        hwithdrawn.dropShow (by simpa using findShow_mem hf) (by simpa [Show.inUse] using hin)
      exact hdrop.of_ledger (ledger_congr (by simp) (by simp [recomputeDoor]))

/-! ### Shows that come into the table (R14), and Day Clear (R25) -/

theorem insertBy_key_pairwise {l : List Show} (h : l.Pairwise (fun a b => a.key < b.key)) {x : Show}
    (hx : ∀ y ∈ l, y.key ≠ x.key) :
    (insertBy (fun a b => decide (a.key < b.key)) x l).Pairwise (fun a b => a.key < b.key) := by
  have hle := insertBy_pairwise (fun a b : Show => decide (a.key < b.key)) (fun a b => a.key ≤ b.key)
    (fun _ _ _ => Nat.le_trans) (fun a b h => Nat.le_of_lt (by simpa using h)) (fun a b h => by simpa using h) x l
    (h.imp Nat.le_of_lt)
  have hne : (insertBy (fun a b => decide (a.key < b.key)) x l).Pairwise (fun a b => a.key ≠ b.key) := by
    rw [(insertBy_perm _ x l).pairwise_iff fun h => Ne.symm h, List.pairwise_cons]
    exact ⟨fun y hy => (hx y hy).symm, h.imp Nat.ne_of_lt⟩
  exact (hle.and hne).imp fun h => Nat.lt_of_le_of_ne h.1 h.2

theorem findShow_eq_none {s : State} {key : Nat} (h : s.findShow key = none) {sh : Show} (hm : sh ∈ s.shows.shows) :
    sh.key ≠ key := fun hk => findShow_eq_none_iff.mp h (hk ▸ mem_showKeys hm)

/-- A new show with no seats held stands in the table as the law has it. -/
theorem SeatLaw.insert {s : State} (hs : SeatLaw s) {sh : Show} (hnew : s.findShow sh.key = none)
    (hsh : ∀ z, (sh.zone z).held = 0 ∧ (sh.zone z).committed ≤ (sh.zone z).cap) :
    SeatLaw (s.withShowList (insertBy (fun a b => decide (a.key < b.key)) sh s.shows.shows)) := by
  obtain ⟨hhold, hord, hcounts, hnamed⟩ := hs
  refine ⟨hhold, insertBy_key_pairwise hord fun y hy => findShow_eq_none hnew hy, fun y hm z => ?_,
    fun x hx info life hu => ?_⟩
  · rcases (mem_insertBy _ _ _ _).mp hm with rfl | hm
    · obtain ⟨hheld, hcap⟩ := hsh z
      refine ⟨hcap, ?_⟩
      rw [hheld]
      refine (List.sum_eq_zero fun n hn => ?_).symm
      obtain ⟨x, hx, rfl⟩ := List.mem_map.mp hn
      cases hu : x.use with
      | active info life =>
        obtain ⟨-, -, w, hw, hk⟩ := hnamed x hx info life hu
        rw [seatsOn_of_active hu, if_neg]
        rintro ⟨he, -⟩
        exact findShow_eq_none hnew hw (hk.trans he)
      | _ => exact seatsOn_inactive (by simp [HoldSlot.isActive, hu]) _ _
    · exact hcounts y hm z
  · obtain ⟨hseats, hport, w, hw, hk⟩ := hnamed x hx info life hu
    exact ⟨hseats, hport, w, (mem_insertBy _ _ _ _).mpr (.inr hw), hk⟩

theorem SeatLaw.createShow {s : State} (hs : SeatLaw s) {sh : Show} (hnew : s.findShow sh.key = none)
    (hsh : ∀ z, (sh.zone z).held = 0 ∧ (sh.zone z).committed ≤ (sh.zone z).cap) : SeatLaw (createShow sh s) := by
  have hlisted : SeatLaw (listed sh s) :=
    ((hs.insert hnew hsh).computeShow sh.key).of_ledger (ledger_congr (by simp [listed]) rfl)
  rw [createShow_eq]
  exact (hlisted.of_blocks (by simp [announced]) (announced_shows sh s)).evaluate true sh.key

theorem SeatLaw.loadShow {s : State} (hs : SeatLaw s) (key day aud title start run delay : Nat) (caps : Nat × Nat × Nat)
    (hidden : Bool) (sibling : Option Nat) (sold withheld : Option Nat × Option Nat × Option Nat) (openNow : Bool) :
    SeatLaw (loadShow key day aud title start run delay caps hidden sibling sold withheld openNow s).1 := by
  simp only [Machine.loadShow]
  split
  · exact hs
  · rename_i hr
    simp only [loadRefusal] at hr
    split_ifs at hr with h1 h2 h3 h4
    refine hs.createShow (by simpa using h3) fun z => ⟨by cases z <;> rfl, ?_⟩
    simp only [overCommitted, Bool.or_eq_true, decide_eq_true_eq, not_or, Nat.not_lt] at h4
    obtain ⟨⟨hstd, hprm⟩, hacc⟩ := h4
    cases z
    · exact hstd
    · exact hprm
    · exact hacc

theorem isActive_dayCleared (x : HoldSlot) : x.dayCleared.isActive = false := by
  obtain ⟨g, use⟩ := x
  cases use <;> rfl

theorem HoldLaw.dayCleared {u : SeatUnit} (h : HoldLaw u) : HoldLaw u.dayCleared := by
  have hcount : ∀ p, (u.slots.map HoldSlot.dayCleared).countP (HoldSlot.activeFor p) = 0 := fun p => by
    rw [List.countP_eq_zero, List.forall_mem_map]
    exact fun x _ => by rw [activeFor_inactive (isActive_dayCleared x)]; exact Bool.false_ne_true
  refine ⟨by simp [SeatUnit.dayCleared, h.1], List.nodup_range, fun i => ?_, (hcount _).symm, (hcount _).symm⟩
  simp only [SeatUnit.dayCleared, List.getElem?_map, Option.map_eq_some_iff, Config.holdSlots, List.mem_range]
  constructor
  · intro hi
    exact ⟨_, ⟨_, List.getElem?_eq_getElem (h.1 ▸ hi), rfl⟩, isActive_dayCleared _⟩
  · rintro ⟨_, ⟨x, hx, rfl⟩, -⟩
    exact h.1 ▸ (List.getElem?_eq_some_iff.mp hx).1

theorem SeatLaw.clearDay {s : State} (hs : SeatLaw s) : SeatLaw (clearDay s) := by
  have hblocks : SeatLaw (blocksCleared s) := by
    refine ⟨hs.1.dayCleared, List.Pairwise.nil, fun _ hm => absurd hm List.not_mem_nil, fun x hx info life hu => ?_⟩
    obtain ⟨y, -, rfl⟩ := List.mem_map.mp (show x ∈ s.seat.slots.map HoldSlot.dayCleared from hx)
    have hi := isActive_dayCleared y
    rw [HoldSlot.isActive, hu] at hi
    cases hi
  rw [clearDay_eq]
  exact hblocks.of_blocks (by simp) (by simp)

/-- The seat law holds of the blocks as reset and start-up leave them (R46, R48, R50). -/
theorem seatLaw_ofImage (img : SetupImage) (image : Option SetupImage) : SeatLaw (State.ofImage img image) := by
  have hnever : ∀ x ∈ List.replicate 192 (⟨0, .never⟩ : HoldSlot), x = ⟨0, .never⟩ := fun _ => List.eq_of_mem_replicate
  have hcount : ∀ p, (List.replicate 192 (⟨0, .never⟩ : HoldSlot)).countP (HoldSlot.activeFor p) = 0 := fun p => by
    rw [List.countP_eq_zero]
    exact fun x hx => by rw [hnever x hx]; exact Bool.false_ne_true
  refine ⟨⟨List.length_replicate, List.nodup_range, fun i => ?_, (hcount _).symm, (hcount _).symm⟩, List.Pairwise.nil,
    fun _ hm => absurd hm List.not_mem_nil, fun x hx info life hu => ?_⟩
  · simp only [State.ofImage, List.getElem?_replicate, List.mem_range]
    by_cases hi : i < 192 <;> simp [hi, HoldSlot.isActive]
  · rw [hnever x hx] at hu
    cases hu

/-! ### The clock, the settings, amendments and postings -/

theorem SeatLaw.clockSet {s : State} (hs : SeatLaw s) : SeatLaw (clockSet s) :=
  hs.evaluateAll.of_blocks (by simp [Machine.clockSet]) (by simp [Machine.clockSet])

theorem SeatLaw.boundaryAt {s : State} (hs : SeatLaw s) (r : MinReceiver) : SeatLaw (boundaryAt r s) := by
  cases r with
  | shows => exact hs.evaluateAll
  | board => exact hs.of_blocks (testWindows_frame s).2.2.2.1 (testWindows_frame s).2.2.1
  | notice => exact hs.of_blocks (by simp [Machine.boundaryAt]) (by simp [Machine.boundaryAt])
  | link => exact hs.of_blocks rfl rfl

theorem SeatLaw.minuteBoundary {s : State} (hs : SeatLaw s) (order : List MinReceiver) :
    SeatLaw (minuteBoundary order s) := by
  rw [minuteBoundary_eq]
  refine boundaryShared_inv order SeatLaw (fun r _ hu => hu.boundaryAt r) ?_
  unfold boundaryStart
  split
  · exact hs.rollDay
  · exact hs.of_ledger rfl

theorem SeatLaw.secTickAt {s : State} (hs : SeatLaw s) (minute : List MinReceiver) (r : SecReceiver) :
    SeatLaw (secTickAt minute r s) := by
  cases r with
  | clock =>
    simp only [Machine.secTickAt, clockTick]
    split_ifs
    · exact hs.minuteBoundary minute
    · exact hs.of_ledger rfl
    · exact hs
  | seat => exact hs.seatTick
  | reel => exact hs.of_blocks (by simp [Machine.secTickAt]) (by simp [Machine.secTickAt])
  | link => exact hs.of_blocks rfl rfl

theorem SeatLaw.sampleLine {s : State} (hs : SeatLaw s) (i : Nat) (level : Level) : SeatLaw (sampleLine i level s) := by
  have hline : ∀ x, SeatLaw (s.withLineState i x) := fun x => hs.of_blocks rfl rfl
  simp only [Machine.sampleLine, lineQualified]
  split_ifs
  · exact (hline _).arrival _
  · exact hline _
  · exact hline _

theorem alertFound_ledger (level : Level) (s : State) : (alertFound level s).ledger = s.ledger := by
  simp only [alertFound, startUpAlert, raiseInvalid]
  split_ifs <;> simp [State.ledger]

theorem startUpAlertSample_ledger (level : Level) (s : State) : (startUpAlertSample level s).ledger = s.ledger := by
  simp only [startUpAlertSample]
  split
  · exact alertFound_ledger level s
  · rfl

theorem SeatLaw.msTickAt {s : State} (hs : SeatLaw s) (lines : Word) (level : Level) (r : MsReceiver) :
    SeatLaw (msTickAt lines level r s) := by
  cases r with
  | house =>
    have hlines : SeatLaw (sampleLines lines s) := foldl_inv SeatLaw _ (fun _ i hu => hu.sampleLine i _) _ s hs
    simp only [Machine.msTickAt, houseTick]
    split
    · exact hlines.of_blocks (by simp) (by simp)
    · exact hlines.of_ledger (startUpAlertSample_ledger _ _)
  | link => exact hs.of_blocks (by simp [Machine.msTickAt]) (by simp [Machine.msTickAt])
  | ports => exact hs.of_blocks rfl rfl
  | chime => exact hs.of_blocks rfl rfl

theorem SeatLaw.policyChanged {s : State} (hs : SeatLaw s) (old : Policy) : SeatLaw (policyChanged old s) := by
  have htimes : SeatLaw (timesServed old s) := by
    unfold timesServed
    split
    · exact hs.evaluateAll
    · exact hs
  have hbands : SeatLaw (settingsServed old s) := by
    unfold settingsServed
    split
    · exact htimes.computeAll
    · exact htimes
  rw [policyChanged_eq]
  split
  · exact hbands
  · exact hbands.of_blocks (by simp) (by simp)

theorem SeatLaw.setPolicy {s : State} (hs : SeatLaw s) (l : List (Nat × Nat)) : SeatLaw (setPolicy l s).1 := by
  simp only [Machine.setPolicy]
  split_ifs
  · exact hs
  · exact hs
  · exact hs
  · have hwritten : SeatLaw (s.withPolicy (writeSettings s.policy l)) := hs.of_blocks rfl rfl
    exact hwritten.policyChanged s.policy

theorem zone_amended (sh : Show) (start run aud title : Option Nat) (sibling : Option (Option Nat)) (hidden : Option Bool)
    (z : Zone) : (amended sh start run aud title sibling hidden).zone z = sh.zone z := by
  cases z <;> rfl

/-- A show's record written anew, its zones as they stood (R15). -/
theorem SeatLaw.rewrite {s : State} (hs : SeatLaw s) {key : Nat} {sh x : Show} (hf : s.findShow key = some sh)
    (hx : x.key = key) (hzone : ∀ z, x.zone z = sh.zone z) : SeatLaw (s.modifyShow key fun _ => x) := by
  refine hs.of_counts (fun y => if y.key = key then x else y) rfl rfl (fun y => ?_) fun y hm z => ?_
  · split
    · exact hx.trans (Eq.symm ‹_›)
    · rfl
  · split
    · obtain rfl : y = sh :=
        eq_of_key_eq hs.ordered hm (findShow_mem hf) (Eq.trans ‹_› (findShow_key hf).symm)
      rw [hzone]
      exact ⟨rfl, hs.within hm z⟩
    · exact ⟨rfl, hs.within hm z⟩

theorem SeatLaw.amendShow {s : State} (hs : SeatLaw s) (key : Nat) (start run aud title : Option Nat)
    (sibling : Option (Option Nat)) (hidden : Option Bool) :
    SeatLaw (amendShow key start run aud title sibling hidden s).1 := by
  unfold Machine.amendShow
  split
  · exact hs
  · rename_i sh hf
    have hkey : sh.key = key := findShow_key hf
    have hwritten := hs.rewrite (x := amended sh start run aud title sibling hidden) hf hkey
      (zone_amended sh start run aud title sibling hidden)
    have hserved : ∀ auds, SeatLaw (publishShow key auds (recomputeDoors auds
        (s.modifyShow key fun _ => amended sh start run aud title sibling hidden))) := fun auds =>
      hwritten.of_ledger (ledger_congr (by simp) (by simp [recomputeDoors_shows]))
    dsimp only
    split_ifs
    · exact hs
    · exact hs
    · exact hserved _
    · exact (hserved _).evaluate true key

theorem SeatLaw.openSales {s : State} (hs : SeatLaw s) (key : Nat) : SeatLaw (openSales key s).1 := by
  unfold Machine.openSales
  split
  · exact hs
  · split
    · exact hs
    · split
      · exact (hs.enterState _ _ _ _).evaluate _ _
      · exact hs
      · exact hs

theorem SeatLaw.cancelShow {s : State} (hs : SeatLaw s) (key : Nat) : SeatLaw (cancelShow key s).1 := by
  unfold Machine.cancelShow
  split
  · exact hs
  · split
    · exact hs.enterState _ _ _ _
    · exact hs

theorem SeatLaw.announced {s : State} (hs : SeatLaw s) (x : Posting) : SeatLaw (announce x s) := by
  rw [announce_eq]
  exact hs.of_blocks rfl rfl

theorem SeatLaw.notices_filed {s : State} (hs : SeatLaw s) : SeatLaw (fileNotices s) :=
  hs.of_blocks (by simp) (by simp)

theorem seatLaw_ite {c : Prop} [Decidable c] {a b : State} (ha : SeatLaw a) (hb : SeatLaw b) :
    SeatLaw (if c then a else b) := by
  split
  · exact ha
  · exact hb

theorem zone_delay (d : Nat) (sh : Show) (z : Zone) : ({ sh with delay := d } : Show).zone z = sh.zone z := by
  cases z <;> rfl

theorem SeatLaw.postDelay {s : State} (hs : SeatLaw s) (h : Hdr) (x : Posting) (sh : Show) :
    SeatLaw (postDelay h x sh s) := by
  have hwritten : SeatLaw ((s.withNotice (queueFor x s.notice)).modifyShow sh.key
      fun y => { y with delay := delayAsked sh x.minutes }) :=
    SeatLaw.modify_zones (s := s.withNotice _) (hs.of_blocks rfl rfl) (fun _ => rfl) (zone_delay _)
  have hposted : ∀ u, SeatLaw u → SeatLaw (announce x (takeSlot h x u)) := fun u hu =>
    SeatLaw.announced (s := takeSlot h x u) (hu.of_blocks rfl rfl) x
  have hwithdrawn : ∀ u, SeatLaw u → SeatLaw (withdrawPosted x sh (delayAsked sh x.minutes) u) := fun u hu =>
    hu.of_blocks (by simp) (by simp)
  have hlaw := hwithdrawn _ (seatLaw_ite (c := 0 < delayAsked sh x.minutes) (hposted _ hwritten) hwritten)
  have hfiled := seatLaw_ite (c := 0 < delayAsked sh x.minutes ∨ queueFor x s.notice ≠ s.notice) hlaw.notices_filed hlaw
  exact seatLaw_ite hfiled (hfiled.startChanged _ _)

theorem SeatLaw.postCancel {s : State} (hs : SeatLaw s) (h : Hdr) (x : Posting) (key : Nat) :
    SeatLaw (postCancel h x key s) := by
  have hposted : SeatLaw (s.withNotice (cancelQueue h x key s.notice)) := hs.of_blocks rfl rfl
  rw [postCancel_eq]
  exact ((hposted.enterState true key .cancelled none).announced x).notices_filed

theorem SeatLaw.postNotice {s : State} (hs : SeatLaw s) (h : Hdr) (cls prio : Nat) (scope : ScopeArg) (text : List Byte)
    (life : LifeArg) (key minutes : Option Nat) : SeatLaw (postNotice h cls prio scope text life key minutes s).1 := by
  unfold Machine.postNotice
  split
  · exact hs
  · rename_i x _
    split
    · exact hs
    · dsimp only
      split
      · exact hs.postDelay h x _
      · exact hs.postCancel h x _
      · exact (SeatLaw.announced (s := takeSlot h x s) (hs.of_blocks rfl rfl) x).notices_filed

/-! ### The requests on seats and holds -/

theorem SeatLaw.holdRequest {s : State} (hs : SeatLaw s) {p : Port} {slot gen : Nat} {act : HoldInfo → Nat → Owner}
    (ha : ∀ info life, (s.holdSlot slot).use = .active info life → SeatLaw (act info life s).1) :
    SeatLaw (holdRequest p slot gen act s).1 := by
  unfold Machine.holdRequest
  split
  · exact hs
  · rename_i found hfound
    refine ha found.1 found.2 ?_
    unfold lookupHold at hfound
    repeat' split at hfound
    all_goals cases hfound
    assumption

/-- A change of one show's counts that leaves the held ones, with the availability computed (R35). -/
theorem SeatLaw.countsChanged {s : State} (hs : SeatLaw s) {key : Nat} {f : Show → Show} {body : List Byte} {sh : Show}
    (hf : s.findShow key = some sh) (hkey : ∀ x, (f x).key = x.key)
    (hsh : ∀ z, ((f sh).zone z).held = (sh.zone z).held ∧ ((f sh).zone z).committed ≤ ((f sh).zone z).cap) :
    SeatLaw (countsChanged key f body s).1 := by
  refine (hs.modify hkey fun x hm hk => ?_).availability key
  obtain rfl : x = sh := eq_of_key_eq hs.ordered hm (findShow_mem hf) (hk.trans (findShow_key hf).symm)
  exact hsh

/-- A change of zone `z` alone, by its counts `c`. -/
theorem SeatLaw.zone_written {s : State} (hs : SeatLaw s) {sh : Show} (hm : sh ∈ s.shows.shows) {z : Zone}
    {c : ZoneCounts} (hheld : c.held = (sh.zone z).held) (hcap : c.committed ≤ c.cap) (y : Zone) :
    ((sh.withZone z c).zone y).held = (sh.zone y).held ∧
      ((sh.withZone z c).zone y).committed ≤ ((sh.withZone z c).zone y).cap := by
  rw [zone_withZone]
  split
  · rename_i hy
    exact ⟨by rw [hheld, hy], hcap⟩
  · exact ⟨rfl, hs.within hm y⟩

theorem zoneAt_of {zone : Nat} {z : Zone} (h : zoneOf zone = some z) : zoneAt zone = z := by
  rw [zoneAt, h]
  rfl

/-- What the first five tests of a sale leave (R56). -/
theorem saleRefusal_none {s : State} {key zone count : Nat} (h : saleRefusal s key zone count = none) :
    1 ≤ count ∧ ∃ sh, s.findShow key = some sh ∧ count ≤ (sh.zone (zoneAt zone)).available := by
  unfold saleRefusal at h
  split at h
  · cases h
  · rename_i z hz
    split_ifs at h with hcount
    split at h
    · cases h
    · rename_i sh hf
      split_ifs at h with _ hroom
      rw [zoneAt_of hz]
      exact ⟨by omega, sh, hf, by omega⟩

theorem SeatLaw.sellNow {s : State} (hs : SeatLaw s) (key zone count : Nat) : SeatLaw (sellNow key zone count s).1 := by
  unfold Machine.sellNow
  split
  · exact hs
  · rename_i hr
    obtain ⟨-, sh, hf, hroom⟩ := saleRefusal_none hr
    refine hs.countsChanged hf (addSold_key _ _) (hs.zone_written (findShow_mem hf) rfl ?_)
    have hcap := hs.within (findShow_mem hf) (zoneAt zone)
    simp only [ZoneCounts.available, ZoneCounts.committed] at hroom hcap ⊢
    omega

theorem refundRefusal_none {s : State} {key zone count : Nat} (h : refundRefusal s key zone count = none) :
    ∃ sh, s.findShow key = some sh := by
  unfold refundRefusal at h
  split at h
  · cases h
  · split_ifs at h
    split at h
    · cases h
    · exact ⟨_, ‹_›⟩

theorem SeatLaw.refundSeats {s : State} (hs : SeatLaw s) (key zone count : Nat) :
    SeatLaw (refundSeats key zone count s).1 := by
  unfold Machine.refundSeats
  split
  · exact hs
  · rename_i hr
    obtain ⟨sh, hf⟩ := refundRefusal_none hr
    refine hs.countsChanged hf (subSold_key _ _) (hs.zone_written (findShow_mem hf) rfl ?_)
    have hcap := hs.within (findShow_mem hf) (zoneAt zone)
    simp only [ZoneCounts.committed] at hcap ⊢
    omega

theorem SeatLaw.holdSeats {s : State} (hs : SeatLaw s) (h : Hdr) (key zone count : Nat) :
    SeatLaw (holdSeats h key zone count s).1 := by
  unfold Machine.holdSeats
  split
  · exact hs
  · rename_i hr
    unfold holdRefusal at hr
    split at hr
    · cases hr
    · rename_i hsale
      split_ifs at hr with hquota hfree
      obtain ⟨hcount, sh, hf, hroom⟩ := saleRefusal_none hsale
      have hport : h.port ≠ .programme := fun hp => hquota (by rw [hp]; exact Nat.le_refl 0)
      exact (hs.grantHold hf hport hcount hroom (by simpa using hfree)).availability key

theorem SeatLaw.confirmHold {s : State} (hs : SeatLaw s) (p : Port) (slot gen : Nat) :
    SeatLaw (confirmHold p slot gen s).1 :=
  hs.holdRequest fun info _ hu => (hs.confirmed hu).availability info.key

theorem SeatLaw.releaseHold {s : State} (hs : SeatLaw s) (p : Port) (slot gen : Nat) :
    SeatLaw (releaseHold p slot gen s).1 :=
  hs.holdRequest fun info _ _ => (hs.endHold slot .released).availability info.key

theorem SeatLaw.extendHold {s : State} (hs : SeatLaw s) (p : Port) (slot gen : Nat) :
    SeatLaw (extendHold p slot gen s).1 := by
  unfold Machine.extendHold
  split_ifs
  · exact hs
  · exact hs
  · refine hs.holdRequest fun info life hu => ?_
    split
    · exact hs
    · exact hs.restamp hu _ _ _

/-- A request on a zone of a loaded show (R30). -/
theorem SeatLaw.zoneRequest {s : State} (hs : SeatLaw s) {key zone : Nat} {act : Show → Zone → Owner}
    (ha : ∀ sh z, s.findShow key = some sh → SeatLaw (act sh z s).1) : SeatLaw (zoneRequest key zone act s).1 := by
  unfold Machine.zoneRequest
  split
  · exact hs
  · split
    · exact hs
    · exact ha _ _ ‹_›

theorem SeatLaw.setCapacity {s : State} (hs : SeatLaw s) (key zone n : Nat) : SeatLaw (setCapacity key zone n s).1 :=
  hs.zoneRequest fun sh z hf => by
    split_ifs with _ hbelow
    · exact hs
    · exact hs
    · exact hs
    · refine hs.countsChanged hf (fun x => withZone_key x z _) (hs.zone_written (findShow_mem hf) rfl ?_)
      simp only [ZoneCounts.committed] at hbelow ⊢
      omega

theorem SeatLaw.withhold {s : State} (hs : SeatLaw s) (key zone n : Nat) : SeatLaw (withhold key zone n s).1 :=
  hs.zoneRequest fun sh z hf => by
    split_ifs with _ hroom
    · exact hs
    · exact hs
    · refine hs.countsChanged hf (fun x => withZone_key x z _) (hs.zone_written (findShow_mem hf) rfl ?_)
      have hcap := hs.within (findShow_mem hf) z
      simp only [ZoneCounts.available, ZoneCounts.committed] at hroom hcap ⊢
      omega

theorem SeatLaw.unwithhold {s : State} (hs : SeatLaw s) (key zone n : Nat) : SeatLaw (unwithhold key zone n s).1 :=
  hs.zoneRequest fun sh z hf => by
    split_ifs
    · exact hs
    · exact hs
    · refine hs.countsChanged hf (fun x => withZone_key x z _) (hs.zone_written (findShow_mem hf) rfl ?_)
      have hcap := hs.within (findShow_mem hf) z
      simp only [ZoneCounts.committed] at hcap ⊢
      omega

/-! ### Owners and events that leave the ledger -/

theorem setAlertLine_ledger (polarity debounce : Nat) (s : State) :
    (setAlertLine polarity debounce s).1.ledger = s.ledger := by
  simp only [setAlertLine, writeAlertEntry]
  repeat' split
  all_goals simp [State.ledger]

theorem setStartLine_ledger (line aud edge debounce : Nat) (s : State) :
    (setStartLine line aud edge debounce s).1.ledger = s.ledger := by
  simp only [setStartLine]
  repeat' split
  all_goals rfl

theorem clearAlert_ledger (s : State) : (clearAlert s).1.ledger = s.ledger := by
  unfold clearAlert
  split <;> simp [State.ledger]

theorem withdrawNotice_ledger (p : Port) (slot gen : Nat) (s : State) :
    (withdrawNotice p slot gen s).1.ledger = s.ledger := by
  unfold withdrawNotice raiseWithdrawn
  repeat' split
  all_goals simp [State.ledger]

theorem setChimePattern_ledger (pattern : Nat) (notes : List (Nat × Nat)) (s : State) :
    (setChimePattern pattern notes s).1.ledger = s.ledger := by
  unfold setChimePattern
  repeat' split
  all_goals rfl

theorem setCauseMask_ledger (p : Port) (mask : Nat) (s : State) : (setCauseMask p mask s).1.ledger = s.ledger := by
  simp only [setCauseMask]
  split <;> rfl

theorem readPortStatus_ledger (own : Port) (selector : Nat) (clear : Bool) (s : State) :
    (readPortStatus own selector clear s).1.ledger = s.ledger := by
  unfold readPortStatus
  repeat' split
  all_goals rfl

theorem defineTitle_ledger (index : Nat) (text : List Byte) (rating : Nat) (s : State) :
    (defineTitle index text rating s).1.ledger = s.ledger := by
  unfold defineTitle
  split <;> simp [State.ledger]

theorem setPoolSplit_ledger (value : Nat) (s : State) : (setPoolSplit value s).1.ledger = s.ledger := by
  simp only [setPoolSplit]
  split_ifs <;> rfl

theorem readSeatStatus_ledger (clear : Bool) (s : State) : (readSeatStatus clear s).1.ledger = s.ledger := by
  simp only [readSeatStatus]
  split <;> rfl

theorem defineSpot_ledger (key media duration : Nat) (title : Option Nat) (s : State) :
    (defineSpot key media duration title s).1.ledger = s.ledger := by
  simp only [defineSpot]
  split_ifs <;> rfl

theorem removeSpot_ledger (key : Nat) (s : State) : (removeSpot key s).1.ledger = s.ledger := by
  unfold removeSpot
  split_ifs <;> rfl

theorem cueOrHold_ledger (r : Nat) (s : State) : (cueOrHold r s).ledger = s.ledger := by
  unfold cueOrHold
  split <;> simp [State.ledger]

theorem buildReel_ledger (r : Nat) (items : List (Nat × Nat)) (step : Nat) (s : State) :
    (buildReel r items step s).1.ledger = s.ledger := by
  unfold buildReel
  split
  · rfl
  · exact cueOrHold_ledger _ _

theorem clearReel_ledger (r : Nat) (s : State) : (clearReel r s).1.ledger = s.ledger := by
  simp only [clearReel]
  split_ifs <;> simp [State.ledger]

theorem stopReel_ledger (r : Nat) (s : State) : (stopReel r s).1.ledger = s.ledger := by
  simp only [stopReel]
  split_ifs <;> simp [State.ledger]

theorem startReel_ledger (r : Nat) (s : State) : (startReel r s).1.ledger = s.ledger := by
  unfold startReel
  split_ifs
  · rfl
  · rfl
  · exact cueOrHold_ledger _ _
  · rfl

theorem setPanel_ledger (addr : Nat) (present : Bool) (view : ViewArg) (group : Nat) (s : State) :
    (setPanel addr present view group s).1.ledger = s.ledger := by
  unfold setPanel
  repeat' split
  all_goals simp [State.ledger]

theorem readPanel_ledger (addr : Nat) (clear : Bool) (s : State) : (readPanel addr clear s).1.ledger = s.ledger := by
  unfold readPanel
  repeat' split
  all_goals rfl

theorem saveSetup_ledger (s : State) : (saveSetup s).1.ledger = s.ledger := by
  unfold saveSetup
  split <;> rfl

theorem storeCheckDone_ledger (holds : Bool) (s : State) : (storeCheckDone holds s).ledger = s.ledger := by
  unfold storeCheckDone
  split_ifs <;> simp [State.ledger]

theorem storeFault_ledger (s : State) : (storeFault s).ledger = s.ledger := by
  unfold storeFault
  split <;> simp [State.ledger]

theorem panelGrant_ledger (s : State) : (panelGrant s).ledger = s.ledger := by
  unfold panelGrant
  repeat' split
  all_goals simp [State.ledger]

theorem panelFrameSent_ledger (s : State) : (panelFrameSent s).ledger = s.ledger := by
  unfold panelFrameSent
  repeat' split
  all_goals rfl

theorem panelAnswerStart_ledger (s : State) : (panelAnswerStart s).ledger = s.ledger := by
  unfold panelAnswerStart
  repeat' split
  all_goals rfl

theorem panelAnswer_ledger (bytes : List Byte) (s : State) : (panelAnswer bytes s).ledger = s.ledger := by
  unfold panelAnswer
  repeat' split
  all_goals simp [State.ledger]

theorem noteDue_ledger (s : State) : (noteDue s).ledger = s.ledger := by
  unfold noteDue
  repeat' split
  all_goals rfl

/-! ### Every command -/

theorem SeatLaw.ticking {f : State → State} {s t : State} (hs : SeatLaw s)
    (h : (Host.Outcome.next (whenTicking f s) : StepOutcome) = .next t) (hf : ∀ u, SeatLaw u → SeatLaw (f u)) : SeatLaw t := by
  cases h
  unfold whenTicking
  split
  · exact hs
  · exact hf s hs

theorem SeatLaw.running {f : State → State} {s t : State} (hs : SeatLaw s)
    (h : (Host.Outcome.next (whenRunning f s) : StepOutcome) = .next t) (hf : ∀ u, SeatLaw u → SeatLaw (f u)) : SeatLaw t := by
  cases h
  unfold whenRunning
  split
  · exact hf s hs
  · exact hs

/-- A request keeps the seat law when its owner does: the port's part touches neither seats nor shows. -/
theorem SeatLaw.request {c : Instr} {owner : Owner} {s t : State} (hs : SeatLaw s)
    (ho : ∀ u, SeatLaw u → SeatLaw (owner u).1) (h : request c owner s = .next t) : SeatLaw t := by
  cases h
  unfold takeRequest
  split
  · exact hs
  · rename_i hd kind body _
    have hp : SeatLaw (putInExecution hd (requestFrameOf hd kind body) s) := hs.of_blocks (by simp) (by simp)
    split
    · dsimp only
      split
      · exact hp.of_blocks (by simp) (by simp)
      · exact (ho _ hp).of_blocks (by simp) (by simp)
    · exact hs

theorem SeatLaw.request_ledger {c : Instr} {owner : Owner} {s t : State} (hs : SeatLaw s)
    (ho : ∀ u, (owner u).1.ledger = u.ledger) (h : Machine.request c owner s = .next t) : SeatLaw t :=
  hs.request (fun u hu => hu.of_ledger (ho u)) h

theorem SeatLaw.expiryDue {s : State} (hs : SeatLaw s) (slot : Nat) : SeatLaw (expiryDue slot s) := by
  unfold Machine.expiryDue
  split
  · split
    · exact hs.expireHold slot
    · exact hs
  · exact hs

theorem SeatLaw.exec {s t : State} (hs : SeatLaw s) (c : Instr) (h : exec c s = .next t) : SeatLaw t := by
  cases c with
  | hardReset =>
    cases h
    exact (seatLaw_ofImage .default s.store.afterReset).of_blocks (t := hardReset s) rfl rfl
  | startUp w holds =>
    cases h
    simp only [startUp]
    split
    · exact (seatLaw_ofImage _ (s.store.read holds)).of_blocks rfl rfl
    · exact hs
  | startUpAlertFound l =>
    cases h
    unfold startUpAlertFound
    split
    · exact hs.of_ledger (alertFound_ledger l s)
    · exact hs
  | tick1ms w l order =>
    exact hs.ticking h fun u hu => foldl_inv SeatLaw _ (fun _ r hv => hv.msTickAt w l r) _ u hu
  | tick1s order m =>
    exact hs.ticking h fun u hu => foldl_inv SeatLaw _ (fun _ r hv => hv.secTickAt m r) _ u hu
  | minuteBoundary order => exact hs.ticking h fun u hu => seatLaw_ite (hu.minuteBoundary order) hu
  | holdExpiry slot => exact hs.ticking h fun u hu => hu.expiryDue slot
  | reelItemEnd r =>
    exact hs.ticking h fun u hu => seatLaw_ite (hu.of_blocks (by simp) (by simp)) hu
  | startLineQualified i => exact hs.ticking h fun u hu => seatLaw_ite (hu.sampleLine i _) hu
  | alertLineActive => exact hs.running h fun u hu => seatLaw_ite (hu.of_blocks (by simp) (by simp)) hu
  | alertLineInactive => exact hs.running h fun u hu => seatLaw_ite (hu.of_blocks (by simp) (by simp)) hu
  | chimeNoteEnd => exact hs.ticking h fun u hu => hu.of_ledger (noteDue_ledger u)
  | noticeExpiry => exact hs.ticking h fun u hu => seatLaw_ite (hu.of_blocks (by simp) (by simp)) hu
  | noticeInterval => exact hs.ticking h fun u hu => seatLaw_ite (hu.of_blocks (by simp) (by simp)) hu
  | frameGapTimeout p => exact hs.running h fun u hu => hu.of_blocks rfl rfl
  | requestFrame p bytes => exact hs.running h fun u hu => hu.of_blocks rfl rfl
  | portByteReceived p b stopLow => exact hs.running h fun u hu => hu.of_blocks rfl rfl
  | answerSent p => exact hs.running h fun u hu => hu.of_blocks rfl rfl
  | panelPollDue a => exact hs.running h fun u hu => seatLaw_ite (hu.of_blocks rfl rfl) hu
  | panelProbeDue a => exact hs.running h fun u hu => seatLaw_ite (hu.of_blocks rfl rfl) hu
  | panelGrant => exact hs.running h fun u hu => hu.of_ledger (panelGrant_ledger u)
  | beaconSend => exact hs.running h fun u hu => seatLaw_ite (hu.of_blocks rfl rfl) hu
  | beaconEnd => exact hs.running h fun u hu => seatLaw_ite (hu.of_blocks rfl rfl) hu
  | panelFrameSent => exact hs.running h fun u hu => hu.of_ledger (panelFrameSent_ledger u)
  | panelAnswerStart => exact hs.running h fun u hu => hu.of_ledger (panelAnswerStart_ledger u)
  | panelAnswer bytes => exact hs.running h fun u hu => hu.of_ledger (panelAnswer_ledger bytes u)
  | responseTimeout => exact hs.running h fun u hu => hu.of_blocks (by simp) (by simp)
  | storeEraseDone => exact hs.running h fun u hu => seatLaw_ite (hu.of_blocks rfl rfl) hu
  | storeWriteDone => exact hs.running h fun u hu => seatLaw_ite (hu.of_blocks rfl rfl) hu
  | storeCheckDone holds => exact hs.running h fun u hu => hu.of_ledger (storeCheckDone_ledger holds u)
  | storeFault => exact hs.running h fun u hu => hu.of_ledger (storeFault_ledger u)
  | holdSeats hd key zone n => exact hs.request (fun _ hu => hu.holdSeats hd key zone n) h
  | confirmHold hd slot gen => exact hs.request (fun _ hu => hu.confirmHold hd.port slot gen) h
  | releaseHold hd slot gen => exact hs.request (fun _ hu => hu.releaseHold hd.port slot gen) h
  | extendHold hd slot gen => exact hs.request (fun _ hu => hu.extendHold hd.port slot gen) h
  | queryHold hd slot gen => exact hs.request (fun _ hu => hu.holdRequest fun _ _ _ => hu) h
  | sellNow hd key zone n => exact hs.request (fun _ hu => hu.sellNow key zone n) h
  | refundSeats hd key zone n => exact hs.request (fun _ hu => hu.refundSeats key zone n) h
  | queryShow hd key => exact hs.request_ledger (fun u => by rw [queryShow_state]) h
  | listShows hd day start => exact hs.request_ledger (fun u => by rw [listShows_state]) h
  | postNotice hd c p sc text life key m => exact hs.request (fun _ hu => hu.postNotice hd c p sc text life key m) h
  | withdrawNotice hd slot gen => exact hs.request_ledger (withdrawNotice_ledger hd.port slot gen) h
  | readNotices hd => exact hs.request_ledger (fun _ => rfl) h
  | readAlert hd => exact hs.request_ledger (fun _ => rfl) h
  | readCauses hd => exact hs.request_ledger (fun _ => rfl) h
  | setCauseMask hd mask => exact hs.request_ledger (setCauseMask_ledger hd.port mask) h
  | readPortStatus hd sel clear => exact hs.request_ledger (readPortStatus_ledger hd.port sel clear) h
  | loadShow hd key day aud title start run delay caps hidden sib sold withheld now =>
    exact hs.request (fun _ hu => hu.loadShow key day aud title start run delay caps hidden sib sold withheld now) h
  | amendShow hd key start run aud title sib hidden =>
    exact hs.request (fun _ hu => hu.amendShow key start run aud title sib hidden) h
  | openSales hd key => exact hs.request (fun _ hu => hu.openSales key) h
  | cancelShow hd key => exact hs.request (fun _ hu => hu.cancelShow key) h
  | removeShow hd key => exact hs.request (fun _ hu => hu.removeShow key) h
  | readShow hd key => exact hs.request_ledger (fun u => by rw [readShow_state]) h
  | defineTitle hd index text rating => exact hs.request_ledger (defineTitle_ledger index text rating) h
  | rollDay hd =>
    refine hs.request (fun u hu => ?_) h
    unfold rollDayRequest
    split
    · exact hu.rollDay.clockSet
    · exact hu
  | dayClear hd => exact hs.request (fun _ hu => hu.clearDay) h
  | setPoolSplit hd value => exact hs.request_ledger (setPoolSplit_ledger value) h
  | readPool hd => exact hs.request_ledger (fun _ => rfl) h
  | setCapacity hd key zone value => exact hs.request (fun _ hu => hu.setCapacity key zone value) h
  | withhold hd key zone n => exact hs.request (fun _ hu => hu.withhold key zone n) h
  | unwithhold hd key zone n => exact hs.request (fun _ hu => hu.unwithhold key zone n) h
  | readSeatStatus hd clear => exact hs.request_ledger (readSeatStatus_ledger clear) h
  | readHold hd slot => exact hs.request_ledger (fun u => by rw [readHold_state]) h
  | readBoard hd start => exact hs.request_ledger (fun _ => rfl) h
  | readDoor hd aud => exact hs.request_ledger (fun u => by rw [readDoor_state]) h
  | defineSpot hd key media d title => exact hs.request_ledger (defineSpot_ledger key media d title) h
  | removeSpot hd key => exact hs.request_ledger (removeSpot_ledger key) h
  | buildReel hd r items step => exact hs.request_ledger (buildReel_ledger r items step) h
  | clearReel hd r => exact hs.request_ledger (clearReel_ledger r) h
  | stopReel hd r => exact hs.request_ledger (stopReel_ledger r) h
  | startReel hd r => exact hs.request_ledger (startReel_ledger r) h
  | readSpot hd key => exact hs.request_ledger (fun u => by rw [readSpot_state]) h
  | readReel hd r => exact hs.request_ledger (fun u => by rw [readReel_state]) h
  | setChimePattern hd p notes => exact hs.request_ledger (setChimePattern_ledger p notes) h
  | readChime hd => exact hs.request_ledger (fun _ => rfl) h
  | setStartLine hd line aud edge d => exact hs.request_ledger (setStartLine_ledger line aud edge d) h
  | setAlertLine hd p d => exact hs.request_ledger (setAlertLine_ledger p d) h
  | clearAlert hd => exact hs.request_ledger clearAlert_ledger h
  | readHouseLines hd => exact hs.request_ledger (fun _ => rfl) h
  | readJournal hd start => exact hs.request_ledger (fun _ => rfl) h
  | setPanel hd a present view g => exact hs.request_ledger (setPanel_ledger a present view g) h
  | linkReset hd => exact hs.request_ledger (fun _ => rfl) h
  | readPanel hd a clear => exact hs.request_ledger (readPanel_ledger a clear) h
  | setPolicy hd l => exact hs.request (fun _ hu => hu.setPolicy l) h
  | readPolicy hd => exact hs.request_ledger (fun _ => rfl) h
  | setClock hd m sec =>
    refine hs.request (fun u hu => ?_) h
    unfold setClock
    split
    · exact hu
    · exact SeatLaw.clockSet (s := u.withClock _) (hu.of_ledger rfl)
  | readClock hd => exact hs.request_ledger (fun _ => rfl) h
  | saveSetup hd => exact hs.request_ledger saveSetup_ledger h

/-- Settles O10: a step is a command taken on a state with the queue's rest. -/
theorem stepKeepsTheSeatLaw : Obligations.StepKeepsTheSeatLaw := by
  intro s t hs h
  unfold step at h
  split at h
  · cases h
    exact hs
  · rename_i c rest _
    have hp : SeatLaw (s.withPending rest) := hs.of_blocks rfl rfl
    exact hp.exec c h

end Sys2Proof.Machine

/-! ## The availability computation (O37) -/

namespace Sys2Proof.Machine

theorem compute_latch (p : Policy) (sh : Show) : (sh.compute p).latch = latchStage p sh.latch (occupancy sh) := rfl

theorem compute_band (p : Policy) (sh : Show) :
    (sh.compute p).band = bandStage p (sh.compute p).latch sh.available := rfl

theorem compute_figure (p : Policy) (sh : Show) : (sh.compute p).figure = figureStage p sh.available := rfl

/-- A clear latch is set exactly when the occupancy reaches the fill point (R37). -/
theorem latchStage_clear (p : Policy) (o : Nat) : latchStage p false o = true ↔ 16 * p.fillSixteenths ≤ o :=
  decide_eq_true_iff

/-- A set latch is cleared exactly when the occupancy is below the fill point less the hysteresis, which may lie below
zero (R37). -/
theorem latchStage_set (p : Policy) (o : Nat) :
    latchStage p true o = false ↔ (o : Int) < 16 * p.fillSixteenths - p.hysteresis := by
  simp only [latchStage, if_true, decide_eq_false_iff_not]
  omega

theorem bandStage_soldOut (p : Policy) (latch : Bool) : bandStage p latch 0 = .soldOut := rfl

theorem bandStage_fewLeft {p : Policy} {latch : Bool} {a : Nat} (h0 : a ≠ 0) (h : a ≤ p.fewLeft) :
    bandStage p latch a = .fewLeft := by
  rw [bandStage, if_neg h0, if_pos h]

/-- With more seats than few_left the latch alone decides the band (R39). -/
theorem bandStage_above {p : Policy} {latch : Bool} {a : Nat} (h0 : a ≠ 0) (h : p.fewLeft < a) :
    bandStage p latch a = if latch then .filling else .open_ := by
  rw [bandStage, if_neg h0, if_neg (by omega)]

theorem bandStage_eq_soldOut {p : Policy} {latch : Bool} {a : Nat} : bandStage p latch a = .soldOut ↔ a = 0 := by
  refine ⟨fun h => ?_, fun h => by rw [h, bandStage_soldOut]⟩
  by_contra h0
  rcases le_or_gt a p.fewLeft with hf | hf
  · rw [bandStage_fewLeft h0 hf] at h
    cases h
  · rw [bandStage_above h0 hf] at h
    cases latch <;> cases h

/-- Settles O37, stage by stage. -/
theorem availabilityComputation : Obligations.AvailabilityComputation := by
  intro p sh o ho
  obtain rfl : o = occupancy sh := ho
  refine ⟨⟨_, _, _, rfl⟩, fun h => ?_, fun h => ?_, fun h => ?_, fun h0 h => ?_, fun h0 h hl => ?_, fun h0 h hl => ?_, ?_,
    fun h => ?_, fun h => ?_⟩
  · rw [compute_latch, h, latchStage_clear]
  · rw [compute_latch, h, latchStage_set]
  · rw [compute_band, h, bandStage_soldOut]
  · rw [compute_band, bandStage_fewLeft h0 h]
  · rw [compute_band, bandStage_above h0 h, hl, if_pos rfl]
  · rw [compute_band, bandStage_above h0 h, hl, if_neg Bool.false_ne_true]
  · rw [compute_band, bandStage_eq_soldOut]
  · rw [compute_figure, figureStage, if_pos h]
  · rw [compute_figure, figureStage, if_neg (by omega)]

end Sys2Proof.Machine

/-! ## Publication by difference (O38) -/

namespace Sys2Proof.Machine

/-! ### What a board line holds -/

theorem windowOpen_iff {c : Clock} {sh : Show} :
    windowOpen c sh = true ↔ c.valid = false ∨ c.minute < sh.start + sh.run := by
  simp [windowOpen]

/-- Board membership, state by state (R76). -/
theorem isMember_iff {c : Clock} {sh : Show} :
    isMember c sh = true ↔ sh.day = 0 ∧ sh.hidden = false ∧
      (sh.state = .onSale ∨ sh.state = .seating ∨ sh.state = .running ∨
        (sh.state = .cancelled ∧ (c.valid = false ∨ c.minute < sh.start + sh.run))) := by
  rw [isMember, Bool.and_eq_true, Bool.and_eq_true, beq_iff_eq, Bool.not_eq_true', and_assoc, ← windowOpen_iff]
  cases sh.state <;> simp

theorem computeLine_none {s : State} {key : Nat} (h : s.findShow key = none) : computeLine s key = none := by
  rw [computeLine, h]

theorem computeLine_some {s : State} {key : Nat} {sh : Show} (h : s.findShow key = some sh) :
    computeLine s key = if isMember s.shows.clock sh then some (boardLineOf s sh) else none := by
  rw [computeLine, h]

theorem computeLine_isSome {s : State} {key : Nat} {sh : Show} (h : s.findShow key = some sh) :
    (computeLine s key).isSome = isMember s.shows.clock sh := by
  rw [computeLine_some h]
  split <;> simp_all

theorem computeLine_eq_some {s : State} {key : Nat} {sh : Show} {l : BoardLine} (h : s.findShow key = some sh)
    (hl : computeLine s key = some l) : l = boardLineOf s sh := by
  rw [computeLine_some h] at hl
  split at hl
  · exact (Option.some.inj hl).symm
  · cases hl

theorem offers_iff {t : Show} :
    offers t = true ↔ (t.state = .onSale ∨ t.state = .seating) ∧ (t.band = .open_ ∨ t.band = .filling) := by
  simp [offers]

/-- A hint stands exactly when the show is short of seats and its sibling has them (R43). -/
theorem hintOf_eq_some {s : State} {sh : Show} {x : Hint} :
    hintOf s sh = some x ↔ (sh.band = .soldOut ∨ sh.band = .fewLeft) ∧ ∃ k y, sh.sibling = some k ∧
      s.findShow k = some y ∧ (y.state = .onSale ∨ y.state = .seating) ∧ (y.band = .open_ ∨ y.band = .filling) ∧
      x = ⟨y.start + y.delay, y.aud⟩ := by
  unfold hintOf
  by_cases hband : sh.band = .soldOut ∨ sh.band = .fewLeft
  · rw [if_pos hband]
    constructor
    · intro h
      split at h
      · rename_i y hy
        obtain ⟨k, hk, hf⟩ := Option.bind_eq_some_iff.mp hy
        split at h
        · rename_i ho
          obtain ⟨hstate, hopen⟩ := offers_iff.mp ho
          exact ⟨hband, k, y, hk, hf, hstate, hopen, (Option.some.inj h).symm⟩
        · cases h
      · cases h
    · rintro ⟨-, k, y, hk, hf, hstate, hopen, rfl⟩
      have hy : sh.sibling.bind s.findShow = some y := by rw [hk, Option.bind_some, hf]
      simp only [hy, offers_iff.mpr ⟨hstate, hopen⟩, if_true]
      rfl
  · rw [if_neg hband]
    exact ⟨fun h => (nomatch h), fun h => absurd h.1 hband⟩

/-! ### Publication of a board line -/

/-- The form a line's filing takes: REMOVE when the line is no more (R84). -/
def lineForm (s : State) (key : Nat) : Form := if (computeLine s key).isSome then .update else .remove

/-- A line that differs from its image is filed once, over new line images alone. -/
theorem publishLine_of_differs {s : State} {key : Nat} (h : s.lineImage key ≠ computeLine s key) :
    ∃ l, publishLine key s = file (.boardLine key) (lineForm s key) (s.withLines l) := by
  unfold publishLine lineForm
  cases hi : s.lineImage key <;> cases hc : computeLine s key
  case none.none => rw [hi, hc] at h; exact absurd rfl h
  case none.some l => exact ⟨_, rfl⟩
  case some.none old => exact ⟨_, rfl⟩
  case some.some old l =>
    refine ⟨linesWith l s.board.lines, if_neg ?_⟩
    rintro rfl
    rw [hi, hc] at h
    exact h rfl

theorem publishLine_journal {s : State} {key : Nat} (h : s.lineImage key ≠ computeLine s key) :
    (publishLine key s).journal = s.journal.filed (.boardLine key) (lineForm s key) := by
  obtain ⟨l, hl⟩ := publishLine_of_differs h
  rw [hl, file_journal]
  rfl

theorem publishLine_titles (key : Nat) (s : State) : (publishLine key s).board.titles = s.board.titles := by
  by_cases h : s.lineImage key = computeLine s key
  · rw [publishLine_of_served h]
  · obtain ⟨l, hl⟩ := publishLine_of_differs h
    rw [hl, file_board]
    rfl

theorem publishLine_blocks (key : Nat) (s : State) (t : State) (ht : t = publishLine key s) :
    t = { s with board := t.board, journal := t.journal, link := t.link, ports := t.ports } := by
  subst ht
  apply state_eq <;> simp

/-! ### Publication of a door line -/

theorem publishDoor_of_served {s : State} {aud : Nat} (h : s.doorImage aud = computeDoor s aud) :
    publishDoor aud s = s := if_pos h

/-- A door line that differs from its image is filed once, over new door images alone. -/
theorem publishDoor_of_differs {s : State} {aud : Nat} (h : s.doorImage aud ≠ computeDoor s aud) :
    ∃ d, publishDoor aud s = file (.door aud) .update (s.withBoard { s.board with doors := d }) :=
  ⟨_, if_neg h⟩

theorem publishDoor_journal {s : State} {aud : Nat} (h : s.doorImage aud ≠ computeDoor s aud) :
    (publishDoor aud s).journal = s.journal.filed (.door aud) .update := by
  obtain ⟨d, hd⟩ := publishDoor_of_differs h
  rw [hd, file_journal]
  rfl

theorem publishDoor_images (aud : Nat) (s : State) :
    (publishDoor aud s).board.lines = s.board.lines ∧ (publishDoor aud s).board.titles = s.board.titles := by
  by_cases h : s.doorImage aud = computeDoor s aud
  · rw [publishDoor_of_served h]
    exact ⟨rfl, rfl⟩
  · obtain ⟨d, hd⟩ := publishDoor_of_differs h
    rw [hd, file_board]
    exact ⟨rfl, rfl⟩

theorem publishDoor_blocks (aud : Nat) (s : State) (t : State) (ht : t = publishDoor aud s) :
    t = { s with board := t.board, journal := t.journal, link := t.link, ports := t.ports } := by
  subst ht
  apply state_eq <;> simp

theorem computeDoor_none {s : State} {aud : Nat} (h : s.doorShow aud = none) : computeDoor s aud = none := by
  rw [computeDoor, h, Option.bind_none]

theorem computeDoor_some {s : State} {aud k : Nat} {sh : Show} (h : s.doorShow aud = some k)
    (hf : s.findShow k = some sh) :
    computeDoor s aud = some ⟨k, sh.title, sh.start + sh.delay, statusWord sh, sh.figure⟩ := by
  obtain rfl := findShow_key hf
  rw [computeDoor, h, Option.bind_some, hf]
  rfl

/-! ### The status word -/

/-- A show neither cancelled nor running has its word from its band, its state and its delay, in the order of R79. -/
theorem statusWord_offered {sh : Show} (hc : sh.state ≠ .cancelled) (hr : sh.state ≠ .running) :
    statusWord sh =
      if sh.band = .soldOut then .soldOut
      else if sh.state = .seating then .seatingNow
      else if 0 < sh.delay then .delayed
      else if sh.band = .fewLeft then .fewLeft
      else if sh.band = .filling then .filling
      else .onSale := by
  rw [statusWord, if_neg hc, if_neg hr]

/-- With seats left, neither seating nor delayed, the band gives the word (R79). -/
theorem statusWord_punctual {sh : Show} (hc : sh.state ≠ .cancelled) (hr : sh.state ≠ .running)
    (hb : sh.band ≠ .soldOut) (hs : sh.state ≠ .seating) (hd : sh.delay = 0) :
    statusWord sh = if sh.band = .fewLeft then .fewLeft else if sh.band = .filling then .filling else .onSale := by
  rw [statusWord_offered hc hr, if_neg hb, if_neg hs, if_neg (by omega)]

theorem statusWord_words (sh : Show) :
    (sh.state = .cancelled → statusWord sh = .cancelled) ∧ (sh.state = .running → statusWord sh = .started) ∧
    (sh.state ≠ .cancelled → sh.state ≠ .running →
      (sh.band = .soldOut → statusWord sh = .soldOut) ∧
      (sh.band ≠ .soldOut →
        (sh.state = .seating → statusWord sh = .seatingNow) ∧
        (sh.state ≠ .seating →
          (0 < sh.delay → statusWord sh = .delayed) ∧
          (sh.delay = 0 → (sh.band = .fewLeft → statusWord sh = .fewLeft) ∧
            (sh.band = .filling → statusWord sh = .filling) ∧ (sh.band = .open_ → statusWord sh = .onSale))))) := by
  refine ⟨fun h => if_pos h, fun h => by simp [statusWord, h], fun hc hr => ⟨fun hb => ?_, fun hb => ⟨fun hs => ?_,
    fun hs => ⟨fun hd => ?_, fun hd => ⟨fun hw => ?_, fun hw => ?_, fun hw => ?_⟩⟩⟩⟩⟩
  · rw [statusWord_offered hc hr, if_pos hb]
  · rw [statusWord_offered hc hr, if_neg hb, if_pos hs]
  · rw [statusWord_offered hc hr, if_neg hb, if_neg hs, if_pos hd]
  all_goals simp [statusWord_punctual hc hr hb hs hd, hw]

/-- Settles O38, clause by clause: the filing, the board line, the status word, the door line, and the two publications. -/
theorem publicationByDifference : Obligations.PublicationByDifference := by
  refine ⟨fun t f s hs => file_taken t f s hs.2.2.2.2.2.2.2.2.2.1, fun s key h => computeLine_none h,
    fun s key sh hf => ⟨?_, fun l hl => ?_⟩, statusWord_words,
    fun s aud => ⟨computeDoor_none, fun k sh hd hf => computeDoor_some hd hf⟩, fun key s t ht => ?_,
    fun aud s t hlen h1 h16 ht => ?_⟩
  · rw [computeLine_isSome hf, isMember_iff]
  · obtain rfl := computeLine_eq_some hf hl
    exact ⟨findShow_key hf, rfl, rfl, rfl, rfl, rfl, rfl, fun x => hintOf_eq_some⟩
  · have hblocks := publishLine_blocks key s t ht
    subst ht
    have himage := fun k => publishLine_image key k s
    exact ⟨publishLine_of_served, fun h => ⟨(himage key).trans (if_pos rfl), publishLine_journal h⟩,
      fun k hk => (himage k).trans (if_neg hk), publishLine_doors key s, publishLine_titles key s, hblocks,
      by simp, by simp, publishLine_onlyForced key s⟩
  · have hblocks := publishDoor_blocks aud s t ht
    subst ht
    have himage := fun a => publishDoor_image aud a s hlen h1 h16
    obtain ⟨hlines, htitles⟩ := publishDoor_images aud s
    exact ⟨publishDoor_of_served, fun h => ⟨(himage aud h1).trans (if_pos rfl), publishDoor_journal h⟩,
      fun a ha hne => (himage a ha).trans (if_neg hne), hlines, htitles, hblocks,
      by simp, by simp, publishDoor_onlyForced aud s⟩

end Sys2Proof.Machine

/-! ## Sold, refunded, offered and withheld seats (O35, O36) -/

namespace Sys2Proof.Machine

/-! ### The tests of the requests on counts -/

/-- Steps 1 to 5 of R56, the first that holds. -/
theorem saleRefusal_eq (s : State) (key zone count : Nat) :
    saleRefusal s key zone count = firstRefusal (saleTests s key zone count) := by
  unfold saleRefusal saleTests
  cases zoneOf zone with
  | none => rfl
  | some z =>
    by_cases hcount : count < 1 ∨ 16 < count
    · rcases hcount with h | h <;> simp [firstRefusal, h]
    · obtain ⟨h1, h16⟩ := not_or.mp hcount
      cases s.findShow key <;> simp [firstRefusal, h1, h16]

/-- The tests of R63. -/
def refundTests (s : State) (key zone count : Nat) : List (Bool × Result) :=
  [((zoneOf zone).isNone || decide (count < 1) || decide (16 < count), .badArgument),
   ((s.findShow key).isNone, .noSuchShow),
   ((s.findShow key).any (fun sh => sh.state == .ended), .notRefundable),
   (onZone s key zone (fun x => decide (x.sold < count)), .notSold)]

theorem refundRefusal_eq (s : State) (key zone count : Nat) :
    refundRefusal s key zone count = firstRefusal (refundTests s key zone count) := by
  unfold refundRefusal refundTests onZone
  cases zoneOf zone with
  | none => rfl
  | some z =>
    by_cases hcount : count < 1 ∨ 16 < count
    · rcases hcount with h | h <;> simp [firstRefusal, h]
    · obtain ⟨h1, h16⟩ := not_or.mp hcount
      cases s.findShow key <;> simp [firstRefusal, h1, h16]

/-! ### A request that changes one zone's counts -/

/-- The request is answered with a body, the Hold Table stays, and one show's counts change (R35, R41). -/
def CountsTaken (c : Instr) (s : State) (h : Hdr) (kind key : Nat) (g : Show → Show) (body : List Byte) : Prop :=
  ∃ t, Takes c s h kind (okWith body) t ∧ t.seat = s.seat ∧ Recounted h.port key g s t

/-- A request that changes a show's counts, from its tests (R30 to R33, R62, R63). -/
theorem takenOrRefused_counts {c : Instr} {h : Hdr} {k key : Nat} {b body : List Byte} {s : State}
    {tests : List (Bool × Result)} {g : Show → Show} (owner : Owner) (hs : Sized s) (hg : ∀ x, (g x).key = x.key)
    (he : exec c s = request c owner s) (hb : requestBody c = some (h, k, b))
    (ho : ∀ q, owner (s.withPorts q) = tested tests (s.withPorts q) (countsChanged key g body (s.withPorts q))) :
    TakenOrRefused c h k s tests (CountsTaken c s h k key g body) :=
  takenOrRefused_of owner (fun u => availability key (u.modifyShow key g)) (okWith body) he hb ho
    fun s1 t _ a hx f => ⟨t, ⟨hx, f.answered⟩, by
      rw [f.seat, ← a.seat]
      simp, recounted_of hs a f rfl (availability_computed key g s1 hg)⟩

/-! ### Selling and refunding -/

theorem sellNow_tested (key zone count : Nat) (s : State) :
    sellNow key zone count s = tested (saleTests s key zone count) s
      (countsChanged key (addSold (zoneAt zone) count) (wSeats key (zoneAt zone) count) s) := by
  rw [sellNow, saleRefusal_eq, tested]
  cases firstRefusal (saleTests s key zone count) <;> rfl

theorem refundSeats_tested (key zone count : Nat) (s : State) :
    refundSeats key zone count s = tested (refundTests s key zone count) s
      (countsChanged key (subSold (zoneAt zone) count) (wSeats key (zoneAt zone) count) s) := by
  rw [refundSeats, refundRefusal_eq, tested]
  cases firstRefusal (refundTests s key zone count) <;> rfl

/-- Settles O35: both requests are tests before a change of counts. -/
theorem seatsAreSoldAndRefunded : Obligations.SeatsAreSoldAndRefunded := by
  intro h key zone count s hs
  constructor
  · exact (takenOrRefused_counts (sellNow key zone count) hs (addSold_key _ _) rfl rfl
      fun q => sellNow_tested key zone count (s.withPorts q)).imp fun _ ht z hz => zoneAt_of hz ▸ ht
  · exact (takenOrRefused_counts (refundSeats key zone count) hs (subSold_key _ _) rfl rfl
      fun q => refundSeats_tested key zone count (s.withPorts q)).imp fun _ ht z hz => zoneAt_of hz ▸ ht

/-! ### Capacity and withholding -/

theorem tested_nil (u : State) (done : State × Reply) : tested [] u done = done := rfl

theorem tested_cons (b : Bool) (code : Result) (l : List (Bool × Result)) (u : State) (done : State × Reply) :
    tested ((b, code) :: l) u done = if b then deny code u else tested l u done := by
  cases b <;> rfl

theorem onZone_of {s : State} {key zone : Nat} {sh : Show} {z : Zone} (hf : s.findShow key = some sh)
    (hz : zoneOf zone = some z) (p : ZoneCounts → Bool) : onZone s key zone p = p (sh.zone z) := by
  rw [onZone, hf, hz]
  rfl

/-- A request on a zone of a loaded show: the tests of R30 on the show and the zone stand before its own. -/
theorem zoneRequest_tested {key zone : Nat} {act : Show → Zone → Owner} {tests : List (Bool × Result)} {s : State}
    {done : State × Reply}
    (ha : ∀ sh z, s.findShow key = some sh → zoneOf zone = some z → act sh z s = tested tests s done) :
    zoneRequest key zone act s = tested (zoneTests s key zone ++ tests) s done := by
  unfold zoneRequest zoneTests
  cases hf : s.findShow key with
  | none => rfl
  | some sh =>
    cases hz : zoneOf zone with
    | none => rfl
    | some z => exact ha sh z hf hz

theorem withhold_tested (key zone n : Nat) (s : State) :
    withhold key zone n s = tested (zoneTests s key zone ++
        [(decide (n < 1 ∨ 1023 < n), .badArgument),
         (onZone s key zone (fun x => decide (x.available < n)), .notEnough)]) s
      (countsChanged key (addWithheld (zoneAt zone) n) [] s) :=
  zoneRequest_tested fun sh z hf hz => by simp [tested_cons, tested_nil, onZone_of hf hz, zoneAt_of hz]

theorem unwithhold_tested (key zone n : Nat) (s : State) :
    unwithhold key zone n s = tested (zoneTests s key zone ++
        [(decide (n < 1 ∨ 1023 < n), .badArgument),
         (onZone s key zone (fun x => decide (x.withheld < n)), .notWithheld)]) s
      (countsChanged key (subWithheld (zoneAt zone) n) [] s) :=
  zoneRequest_tested fun sh z hf hz => by simp [tested_cons, tested_nil, onZone_of hf hz, zoneAt_of hz]

/-- The tests of R31. -/
def capacityTests (s : State) (key zone n : Nat) : List (Bool × Result) :=
  zoneTests s key zone ++
    [(decide (1023 < n), .badArgument),
     (onZone s key zone (fun x => decide (n < x.sold + x.held + x.withheld)), .belowCommitted)]

/-- Set Capacity with the value the zone has: nothing changes (R31). -/
theorem setCapacity_same {key zone n : Nat} {s : State} (h : onZone s key zone (fun x => decide (x.cap = n)) = true) :
    setCapacity key zone n s = tested (capacityTests s key zone n) s (s, okWith []) :=
  zoneRequest_tested fun sh z hf hz => by
    have hcap : n = (sh.zone z).cap := by
      rw [onZone_of hf hz] at h
      exact (of_decide_eq_true h).symm
    simp only [tested_cons, tested_nil, onZone_of hf hz, decide_eq_true_eq, if_pos hcap, ZoneCounts.committed]

/-- Set Capacity with another value. -/
theorem setCapacity_other {key zone n : Nat} {s : State} (h : onZone s key zone (fun x => decide (x.cap = n)) = false) :
    setCapacity key zone n s = tested (capacityTests s key zone n) s
      (countsChanged key (setCap (zoneAt zone) n) [] s) :=
  zoneRequest_tested fun sh z hf hz => by
    have hcap : ¬ n = (sh.zone z).cap := by
      rw [onZone_of hf hz] at h
      exact fun e => of_decide_eq_false h e.symm
    simp only [tested_cons, tested_nil, onZone_of hf hz, decide_eq_true_eq, if_neg hcap, ZoneCounts.committed,
      zoneAt_of hz]

/-- Settles O36: Set Capacity by whether the zone has the value already, the other two as changes of counts. -/
theorem capacityAndWithholding : Obligations.CapacityAndWithholding := by
  intro h key zone n s hs
  refine ⟨?_, ?_, ?_⟩
  · cases hsame : onZone s key zone (fun x => decide (x.cap = n)) with
    | true =>
      refine (takenOrRefused_reads (setCapacity key zone n) rfl rfl
        fun q => setCapacity_same (s := s.withPorts q) hsame).imp
          fun _ hreads z sh hz hf => ⟨fun _ => hreads, fun hne => ?_⟩
      rw [onZone_of hf hz] at hsame
      exact absurd (of_decide_eq_true hsame) hne
    | false =>
      refine (takenOrRefused_counts (setCapacity key zone n) hs (fun x => withZone_key x _ _) rfl rfl
        fun q => setCapacity_other (s := s.withPorts q) hsame).imp
          fun _ ht z sh hz hf => ⟨fun he => ?_, fun _ => zoneAt_of hz ▸ ht⟩
      rw [onZone_of hf hz] at hsame
      exact absurd he (of_decide_eq_false hsame)
  · exact (takenOrRefused_counts (withhold key zone n) hs (fun x => withZone_key x _ _) rfl rfl
      fun q => withhold_tested key zone n (s.withPorts q)).imp fun _ ht z hz => zoneAt_of hz ▸ ht
  · exact (takenOrRefused_counts (unwithhold key zone n) hs (fun x => withZone_key x _ _) rfl rfl
      fun q => unwithhold_tested key zone n (s.withPorts q)).imp fun _ ht z hz => zoneAt_of hz ▸ ht

end Sys2Proof.Machine

/-! ## Holds (O17, O32, O33, O34) and the status reads (O30) -/

namespace Sys2Proof.Machine

/-! ### Requests whose answer is read with the request in execution -/

/-- A request's statement from its tests and from what its owner does and answers on the state it finds. -/
theorem takenOrRefused_done {c : Instr} {h : Hdr} {k : Nat} {b : List Byte} {s : State} {tests : List (Bool × Result)}
    {taken : Prop} (owner done : Owner) (he : exec c s = request c owner s) (hb : requestBody c = some (h, k, b))
    (ho : ∀ q, owner (s.withPorts q) = tested tests (s.withPorts q) (done (s.withPorts q)))
    (ht : ∀ s1 t, firstRefusal tests = none → Seated h s s1 → exec c s = .next t →
      Finished h k (done s1).2 (done s1).1 t → taken) : TakenOrRefused c h k s tests taken := by
  intro hready
  refine ⟨fun code hc => refuses_of owner he hb hready fun s1 a => ?_, fun hn => ?_⟩
  · rw [a.eq_withPorts, ho, tested_refuses hc]
  · obtain ⟨s1, t, a, hx, f⟩ := request_taken owner hb hready
    rw [a.eq_withPorts, ho, tested_passes hn, ← a.eq_withPorts] at f
    exact ht s1 t hn a (he.trans hx) f

theorem nothingChanged_of_finished {h : Hdr} {k : Nat} {r : Reply} {s s1 t : State} (a : Seated h s s1)
    (f : Finished h k r s1 t) : NothingChanged h.port s t :=
  ⟨by rw [f.blocks, a.blocks], quietly_of a f rfl⟩

theorem firstRefusal_append (l m : List (Bool × Result)) :
    firstRefusal (l ++ m) = (firstRefusal l).or (firstRefusal m) := by
  induction l with
  | nil => rfl
  | cons x l ih => cases hx : x.1 <;> simp [firstRefusal, hx, ih]

theorem Seated.holdSlot {h : Hdr} {s s1 : State} (a : Seated h s s1) (i : Nat) : s1.holdSlot i = s.holdSlot i := by
  rw [State.holdSlot, a.seat, State.holdSlot]

theorem Sized.slots_length {s : State} (hs : Sized s) : s.seat.slots.length = 192 := by
  obtain ⟨-, -, hslots, -⟩ := hs
  exact hslots

theorem Sized.panels_length {s : State} (hs : Sized s) : s.link.panels.length = 24 := by
  obtain ⟨-, -, -, -, -, -, -, -, -, hpanels, -⟩ := hs
  exact hpanels

/-! ### The Hold Table (R46 to R52) -/

theorem getElem?_of_active {s : State} {i life : Nat} {info : HoldInfo} (hu : (s.holdSlot i).use = .active info life)
    (hl : i < s.seat.slots.length) : (s.seat.slots)[i]? = some ⟨(s.holdSlot i).gen, .active info life⟩ := by
  rw [← hu, State.holdSlot, List.getElem?_eq_getElem hl]
  rfl

theorem holdSlot_of_slots {s t : State} {i : Nat} {x : HoldSlot} (ht : t.seat.slots = s.seat.slots.set i x)
    (hl : i < s.seat.slots.length) (j : Nat) : t.holdSlot j = if j = i then x else s.holdSlot j := by
  rw [State.holdSlot, ht, List.getElem?_set]
  by_cases hj : j = i
  · simp [hj, hl]
  · rw [if_neg (Ne.symm hj), if_neg hj, State.holdSlot]

@[simp] theorem withPortCount_highWater (u : SeatUnit) (p : Port) (n : Nat) :
    (u.withPortCount p n).highWater = u.highWater := by
  cases p <;> rfl

theorem portCount_withPortCount_other (u : SeatUnit) {p q : Port} (n : Nat) (hq : q ≠ p) :
    (u.withPortCount p n).portCount q = u.portCount q := by
  by_cases hp : p = .programme
  · rw [hp]
    rfl
  · rw [portCount_withPortCount u n hp, if_neg hq]

/-- An ACTIVE hold's slot becomes FREE with an end reason at the tail of the free list, and its port's count falls
(R48, R50). -/
structure HoldOver (slot gen : Nat) (info : HoldInfo) (r : EndReason) (s t : State) : Prop where
  ended : t.holdSlot slot = ⟨gen, .ended info r⟩
  others : ∀ i, i ≠ slot → t.holdSlot i = s.holdSlot i
  free : t.seat.free = s.seat.free ++ [slot]
  count : t.seat.portCount info.port = s.seat.portCount info.port - 1
  counts : ∀ p, p ≠ info.port → t.seat.portCount p = s.seat.portCount p
  highWater : t.seat.highWater = s.seat.highWater

theorem release_active {u : SeatUnit} {i g life : Nat} {info : HoldInfo}
    (hx : (u.slots)[i]? = some ⟨g, .active info life⟩) (r : EndReason) :
    u.release i r = ({ u with slots := u.slots.set i ⟨g, .ended info r⟩, free := u.free ++ [i] }).withPortCount info.port
      (u.portCount info.port - 1) := by
  rw [SeatUnit.release, hx]

theorem holdOver_of_release {s t : State} {slot life : Nat} {info : HoldInfo} {r : EndReason}
    (hl : slot < s.seat.slots.length) (hu : (s.holdSlot slot).use = .active info life)
    (ht : t.seat = s.seat.release slot r) : HoldOver slot (s.holdSlot slot).gen info r s t := by
  rw [release_active (getElem?_of_active hu hl)] at ht
  have hslot := holdSlot_of_slots (t := t) (by rw [ht, withPortCount_slots]) hl
  refine ⟨by rw [hslot, if_pos rfl], fun i hi => by rw [hslot, if_neg hi], by rw [ht, withPortCount_free], ?_,
    fun p hp => ?_, by rw [ht, withPortCount_highWater]⟩
  · by_cases hport : info.port = .programme
    · rw [hport]
      rfl
    · rw [ht, portCount_withPortCount _ _ hport, if_pos rfl]
  · rw [ht, portCount_withPortCount_other _ _ hp]
    cases p <;> rfl

/-! ### Expiry (R67) -/

theorem holdLapsed_bit {p : Port} {n : Nat} (h : Cause.bit p .holdLapsed = some n) : n = 0 := by
  cases p <;> cases h <;> rfl

/-- The state that the availability computation of an expiry finds, but for the held count. -/
def lapsed (slot : Nat) (p : Port) (s : State) : State :=
  raise p .holdLapsed (s.withSeat (s.seat.release slot .expired))

theorem expireHold_active {s : State} {slot life : Nat} {info : HoldInfo}
    (hu : (s.holdSlot slot).use = .active info life) : expireHold slot s =
      availability info.key ((lapsed slot info.port s).modifyShow info.key (subHeld info.zone info.seats)) := by
  unfold expireHold
  rw [endHold_active hu, hu]
  rfl

theorem exec_holdExpiry_due {s : State} {slot life : Nat} {info : HoldInfo} (hp : s.phase ≠ .inReset)
    (ha : s.house.alert = .normal) (hlife : life ≤ 1) (hu : (s.holdSlot slot).use = .active info life) :
    exec (.holdExpiry slot) s = .next (expireHold slot s) := by
  have hexec : exec (.holdExpiry slot) s = .next (whenTicking (expiryDue slot) s) := rfl
  rw [hexec, whenTicking, if_neg hp, expiryDue, hu]
  simp only [ha, hlife, and_self, if_true]

theorem lapsed_causeBit {s : State} {slot n : Nat} {p q : Port} (h : ¬ (q = p ∧ n = 0)) :
    causeBit q n (lapsed slot p s) = causeBit q n s := by
  rw [lapsed, raise_causeBit]
  by_cases hb : q = p ∧ Cause.bit p .holdLapsed = some n
  · exact absurd ⟨hb.1, holdLapsed_bit hb.2⟩ h
  · rw [show (decide (q = p) && decide (Cause.bit p .holdLapsed = some n)) = false by simpa using hb]
    simp [causeBit, portAt_eq]

theorem lapsed_causeSet (slot : Nat) {p : Port} (s : State) (hp : p ≠ .programme) :
    causeSet p .holdLapsed (lapsed slot p s) = true := by
  refine raise_sets _ _ _ ?_
  cases p with
  | programme => exact absurd rfl hp
  | salesA | salesB => rfl

/-- Settles O17: the expiry is a change of the show's held count over the freed slot and the raised cause. -/
theorem holdExpires : Obligations.HoldExpires := by
  intro slot s info life hl hp ha hlife hu
  have c := availability_computed info.key (subHeld info.zone info.seats) (lapsed slot info.port s) (subHeld_key _ _)
  rw [← expireHold_active hu] at c
  have hseat : (expireHold slot s).seat = s.seat.release slot .expired := by
    rw [c.blocks]
    simp [lapsed]
  have o := holdOver_of_release hl hu hseat
  refine ⟨_, exec_holdExpiry_due hp ha hlife hu, o.ended, o.others, o.free, o.count, o.highWater, fun hport => ?_,
    fun q n hf hc => ?_, ?_, fun k hk => ?_, ?_, ?_, ?_⟩
  · exact c.forced.stay.causeSet (by decide) (lapsed_causeSet slot s hport)
  · rw [c.forced q n hf, lapsed_causeBit hc]
  · exact c.same
  · exact c.other k hk
  · rw [hseat]
    exact c.blocks
  · rw [c.steady]
    rfl
  · simp

/-! ### The lookup (R49) -/

/-- What a request on a hold is answered once the tests of the lookup have passed (R49). -/
def holdFound (slot : Nat) (act : HoldInfo → Nat → Owner) : Owner := fun s =>
  match (s.holdSlot slot).use with
  | .never => deny .unknownHold s
  | .ended _ r => (s, holdEnded r)
  | .active info life => act info life s

theorem holdRequest_tested (p : Port) (slot gen : Nat) (act : HoldInfo → Nat → Owner) (s : State) :
    holdRequest p slot gen act s = tested (lookupTests s p slot gen) s (holdFound slot act s) := by
  unfold holdRequest lookupHold lookupTests holdFound
  by_cases hslot : 192 ≤ slot
  · simp [tested_cons, Config.holdSlots, hslot, deny]
  by_cases hgen : (s.holdSlot slot).gen = gen
  · cases hu : (s.holdSlot slot).use with
    | never => simp [tested_cons, Config.holdSlots, hslot, hgen, deny]
    | ended info _ | active info _ =>
      by_cases hport : info.port = p <;>
        simp [tested_cons, tested_nil, Config.holdSlots, HoldUse.info, hslot, hgen, hport, deny]
  · simp [tested_cons, Config.holdSlots, hslot, hgen, deny]

theorem lookup_passed {s : State} {p : Port} {slot gen : Nat} (hn : firstRefusal (lookupTests s p slot gen) = none) :
    slot < 192 ∧ (s.holdSlot slot).gen = gen := by
  have hall := firstRefusal_eq_none.mp hn
  have hslot := hall (decide (192 ≤ slot), .badArgument) (by simp [lookupTests])
  have hgen := hall ((s.holdSlot slot).gen != gen || (s.holdSlot slot).use == .never, .unknownHold)
    (by simp [lookupTests])
  simp only [decide_eq_false_iff_not, Nat.not_le] at hslot
  simp only [Bool.or_eq_false_iff, bne_eq_false_iff_eq] at hgen
  exact ⟨hslot, hgen.1⟩

/-- A request on a hold: its tests, HOLD_ENDED with the reason of a hold that has ended, or what is done to an ACTIVE
one (R49). -/
theorem takenOrRefused_hold {c : Instr} {h : Hdr} {k slot : Nat} {b : List Byte} {s : State}
    {tests : List (Bool × Result)} {taken : HoldInfo → Nat → Prop} (owner : Owner) (act : HoldInfo → Nat → Owner)
    (he : exec c s = request c owner s) (hb : requestBody c = some (h, k, b))
    (ho : ∀ q, owner (s.withPorts q) = tested tests (s.withPorts q) (holdFound slot act (s.withPorts q)))
    (ht : ∀ info life s1 t, firstRefusal tests = none → (s.holdSlot slot).use = .active info life → Seated h s s1 →
      exec c s = .next t → Finished h k (act info life s1).2 (act info life s1).1 t → taken info life) :
    TakenOrRefused c h k s tests
      (AnswersEnded c s h k slot ∧ ∀ info life, (s.holdSlot slot).use = .active info life → taken info life) := by
  refine takenOrRefused_done owner (holdFound slot act) he hb ho fun s1 t hn a hx f =>
    ⟨fun info r hu => ?_, fun info life hu => ?_⟩
  · rw [holdFound, a.holdSlot, hu] at f
    exact ⟨t, ⟨hx, f.answered⟩, nothingChanged_of_finished a f⟩
  · rw [holdFound, a.holdSlot, hu] at f
    exact ht info life s1 t hn hu a hx f

/-! ### Confirming and releasing (R58, R59) -/

/-- An ACTIVE hold that a request has ended: the answer, the freed slot and the show's counts. -/
def HoldTaken (c : Instr) (s : State) (h : Hdr) (kind slot gen : Nat) (info : HoldInfo) (r : EndReason)
    (g : Show → Show) : Prop :=
  ∃ t, Takes c s h kind (okWith (wSeats info.key info.zone info.seats)) t ∧ t.holdSlot slot = ⟨gen, .ended info r⟩ ∧
    (∀ i, i ≠ slot → t.holdSlot i = s.holdSlot i) ∧ t.seat.free = s.seat.free ++ [slot] ∧
    t.seat.portCount info.port = s.seat.portCount info.port - 1 ∧
    (∀ p, p ≠ info.port → t.seat.portCount p = s.seat.portCount p) ∧ t.seat.highWater = s.seat.highWater ∧
    Recounted h.port info.key g s t

/-- A request that ends an ACTIVE hold by `ends`, which frees its slot and changes its show's counts by `g`. -/
theorem takenOrRefused_end {c : Instr} {h : Hdr} {k slot gen : Nat} {b : List Byte} {s : State} {r : EndReason}
    {ends : HoldInfo → State → State} {g : HoldInfo → Show → Show} (hs : Sized s)
    (hg : ∀ info x, (g info x).key = x.key)
    (hends : ∀ {u info life}, (u.holdSlot slot).use = .active info life →
      ends info u = (u.withSeat (u.seat.release slot r)).modifyShow info.key (g info))
    (he : exec c s = request c (holdRequest h.port slot gen fun info _ u =>
      (availability info.key (ends info u), okWith (wSeats info.key info.zone info.seats))) s)
    (hb : requestBody c = some (h, k, b)) :
    TakenOrRefused c h k s (lookupTests s h.port slot gen) (AnswersEnded c s h k slot ∧
      ∀ info life, (s.holdSlot slot).use = .active info life → HoldTaken c s h k slot gen info r (g info)) := by
  refine takenOrRefused_hold _ _ he hb (fun q => holdRequest_tested _ _ _ _ (s.withPorts q))
    fun info life s1 t hn hu a hx f => ?_
  obtain ⟨hslot, hgen⟩ := lookup_passed hn
  rw [hends (show (s1.holdSlot slot).use = .active info life by rw [a.holdSlot, hu])] at f
  have o : HoldOver slot gen info r s t := hgen ▸ holdOver_of_release (hs.slots_length.symm ▸ hslot) hu (by
    rw [f.seat, ← a.seat]
    simp)
  exact ⟨t, ⟨hx, f.answered⟩, o.ended, o.others, o.free, o.count, o.counts, o.highWater,
    recounted_of hs a f rfl (availability_computed info.key (g info) _ (hg info))⟩

theorem endHold_confirmed {s : State} {slot life : Nat} {info : HoldInfo}
    (hu : (s.holdSlot slot).use = .active info life) :
    (endHold slot .confirmed s).modifyShow info.key (addSold info.zone info.seats) =
      (s.withSeat (s.seat.release slot .confirmed)).modifyShow info.key
        fun sh => addSold info.zone info.seats (subHeld info.zone info.seats sh) := by
  rw [endHold_active hu, modifyShow_twice _ _ _ _ (subHeld_key _ _)]

/-- Settles O33: both requests free the slot over a change of the show's counts. -/
theorem holdsAreConfirmedAndReleased : Obligations.HoldsAreConfirmedAndReleased := by
  intro h slot gen s hs
  constructor
  · exact takenOrRefused_end hs (fun info x => by rw [addSold_key, subHeld_key]) endHold_confirmed rfl rfl
  · exact takenOrRefused_end hs (fun info => subHeld_key _ _) (fun hu => endHold_active hu .released) rfl rfl

/-! ### Extending and reading (R60, R61) -/

/-- The tests of R60 before EXTEND_LIMIT. -/
def extendTests (s : State) (p : Port) (slot gen : Nat) : List (Bool × Result) :=
  [(decide (192 ≤ slot), .badArgument), (s.house.alert != .normal, .houseAlert)] ++ lookupTests s p slot gen

/-- What Extend Hold does to an ACTIVE hold (R60). -/
def extendFound (slot gen : Nat) (info : HoldInfo) (_life : Nat) : Owner := fun s =>
  if s.policy.holdExtends ≤ info.extensions then deny .extendLimit s
  else
    (s.withHoldSlot slot ⟨gen, .active { info with extensions := info.extensions + 1 } s.policy.holdLife⟩,
      okWith (w2 s.policy.holdLife ++ w1 (s.policy.holdExtends - (info.extensions + 1))))

theorem extendHold_tested (p : Port) (slot gen : Nat) (s : State) :
    extendHold p slot gen s = tested (extendTests s p slot gen) s (holdFound slot (extendFound slot gen) s) := by
  rw [extendTests, List.cons_append, List.cons_append, List.nil_append, tested_cons, tested_cons, ← holdRequest_tested]
  simp only [decide_eq_true_eq, bne_iff_ne]
  rfl

theorem extend_passed {s : State} {p : Port} {slot gen : Nat} (hn : firstRefusal (extendTests s p slot gen) = none) :
    slot < 192 ∧ (s.holdSlot slot).gen = gen := by
  rw [extendTests, firstRefusal_append, Option.or_eq_none_iff] at hn
  exact lookup_passed hn.2

/-- An extension counted on an ACTIVE hold, with its life set anew. -/
def Extended (s : State) (h : Hdr) (slot gen : Nat) (info : HoldInfo) : Prop :=
  ∃ t, Takes (.extendHold h slot gen) s h 4
      (okWith (w2 s.policy.holdLife ++ w1 (s.policy.holdExtends - (info.extensions + 1)))) t ∧
    t.holdSlot slot = ⟨gen, .active { info with extensions := info.extensions + 1 } s.policy.holdLife⟩ ∧
    (∀ i, i ≠ slot → t.holdSlot i = s.holdSlot i) ∧
    t = { s with seat := { s.seat with slots := t.seat.slots }, ports := t.ports } ∧ Quietly h.port s t

theorem extendFound_limit {slot gen life : Nat} {info : HoldInfo} {u : State}
    (hlimit : u.policy.holdExtends ≤ info.extensions) : extendFound slot gen info life u = deny .extendLimit u :=
  if_pos hlimit

theorem extendFound_room {slot gen life : Nat} {info : HoldInfo} {u : State}
    (hroom : info.extensions < u.policy.holdExtends) : extendFound slot gen info life u =
      (u.withHoldSlot slot ⟨gen, .active { info with extensions := info.extensions + 1 } u.policy.holdLife⟩,
        okWith (w2 u.policy.holdLife ++ w1 (u.policy.holdExtends - (info.extensions + 1)))) :=
  if_neg (Nat.not_le.mpr hroom)

/-- Settles O34: Extend Hold by whether extensions are left, Query Hold as a reading. -/
theorem holdsAreExtendedAndQueried : Obligations.HoldsAreExtendedAndQueried := by
  intro h slot gen s hs
  constructor
  · refine takenOrRefused_hold (extendHold h.port slot gen) (extendFound slot gen) rfl rfl
      (fun q => extendHold_tested h.port slot gen (s.withPorts q))
      fun info life s1 t hn _ a hx f => ⟨fun hlimit => ?_, fun hroom => ?_⟩
    · rw [extendFound_limit (by rw [a.policy]; exact hlimit)] at f
      exact ⟨t, ⟨hx, f.answered⟩, nothingChanged_of_finished a f⟩
    · rw [extendFound_room (by rw [a.policy]; exact hroom), a.policy] at f
      have hslots := holdSlot_of_slots (t := t) (s := s) (by rw [f.seat, ← a.seat]; rfl)
        (hs.slots_length.symm ▸ (extend_passed hn).1)
      refine ⟨t, ⟨hx, f.answered⟩, by rw [hslots, if_pos rfl], fun i hi => by rw [hslots, if_neg hi], ?_,
        quietly_of a f rfl⟩
      rw [f.blocks, a.blocks]
      rfl
  · exact takenOrRefused_hold _ _ rfl rfl (fun q => holdRequest_tested h.port slot gen _ (s.withPorts q))
      fun _ _ _ _ _ _ a hx f => reads_of_finished a hx f

/-! ### Holding seats (R56, R57) -/

/-- A FREE slot becomes ACTIVE with the next generation (R47, R50, R52, R57). -/
structure HoldBegun (slot life : Nat) (info : HoldInfo) (s t : State) : Prop where
  begun : t.holdSlot slot = ⟨((s.holdSlot slot).gen + 1) % 256, .active info life⟩
  others : ∀ i, i ≠ slot → t.holdSlot i = s.holdSlot i
  free : t.seat.free = s.seat.free.tail
  count : t.seat.portCount info.port = s.seat.portCount info.port + 1
  counts : ∀ p, p ≠ info.port → t.seat.portCount p = s.seat.portCount p
  highWater : t.seat.highWater = Nat.max s.seat.highWater t.activeHolds

theorem grant_slots (u : SeatUnit) (slot : Nat) (info : HoldInfo) (life : Nat) : (u.grant slot info life).slots =
    u.slots.set slot ⟨(((u.slots)[slot]?.getD ⟨0, .never⟩).gen + 1) % 256, .active info life⟩ :=
  withPortCount_slots _ _ _

theorem holdBegun_of_grant {s t : State} {slot life : Nat} {info : HoldInfo} (hl : slot < s.seat.slots.length)
    (hport : info.port ≠ .programme) (ht : t.seat = s.seat.grant slot info life) : HoldBegun slot life info s t := by
  have hslots : t.seat.slots = s.seat.slots.set slot ⟨((s.holdSlot slot).gen + 1) % 256, .active info life⟩ := by
    rw [ht, grant_slots]
    rfl
  have hslot := holdSlot_of_slots hslots hl
  refine ⟨by rw [hslot, if_pos rfl], fun i hi => by rw [hslot, if_neg hi], ?_, ?_, fun p hp => ?_, ?_⟩
  · rw [ht, SeatUnit.grant, withPortCount_free]
  · rw [ht, SeatUnit.grant, portCount_withPortCount _ _ hport, if_pos rfl]
  · rw [ht, SeatUnit.grant, portCount_withPortCount_other _ _ hp]
    cases p <;> rfl
  · rw [State.activeHolds, ht, grant_slots, SeatUnit.grant, withPortCount_highWater]

/-- Steps 1 to 7 of R56. -/
def holdTests (s : State) (p : Port) (key zone count : Nat) : List (Bool × Result) :=
  saleTests s key zone count ++
    [(decide (s.policy.quota p ≤ s.seat.portCount p), .quotaFull), (s.seat.free.isEmpty, .tableFull)]

theorem holdRefusal_eq (s : State) (p : Port) (key zone count : Nat) :
    holdRefusal s p key zone count = firstRefusal (holdTests s p key zone count) := by
  rw [holdRefusal, saleRefusal_eq, holdTests, firstRefusal_append]
  cases firstRefusal (saleTests s key zone count) with
  | some c => rfl
  | none => simp [firstRefusal]

/-- The Programme Port has no quota, so no hold is granted on it (R50). -/
theorem salesPort_of_passed {s : State} {p : Port} {key zone count : Nat}
    (hn : firstRefusal (holdTests s p key zone count) = none) : p ≠ .programme := by
  rintro rfl
  have hquota := firstRefusal_eq_none.mp hn
    (decide (s.policy.quota .programme ≤ s.seat.portCount .programme), .quotaFull) (by simp [holdTests])
  exact of_decide_eq_false hquota (Nat.le_refl 0)

/-- The grant of R57 with its computation and its answer. -/
def granted (h : Hdr) (key zone count : Nat) : Owner := fun s =>
  (availability key (grantHold h key zone count s),
    okWith (w1 (s.seat.free.headD 0) ++ w1 ((grantHold h key zone count s).holdSlot (s.seat.free.headD 0)).gen ++
      w2 s.policy.holdLife))

theorem holdSeats_tested (h : Hdr) (key zone count : Nat) (s : State) :
    holdSeats h key zone count s = tested (holdTests s h.port key zone count) s (granted h key zone count s) := by
  rw [holdSeats, holdRefusal_eq, tested]
  cases firstRefusal (holdTests s h.port key zone count) <;> rfl

theorem grantHold_head {h : Hdr} {key zone count slot : Nat} {rest : List Nat} {z : Zone} {s : State}
    (hz : zoneOf zone = some z) (hfree : s.seat.free = slot :: rest) : grantHold h key zone count s =
      (s.withSeat (s.seat.grant slot ⟨key, z, count, h.port, h.terminal, 0⟩ s.policy.holdLife)).modifyShow key
        (addHeld z count) := by
  rw [grantHold, hfree, zoneAt_of hz]
  rfl

theorem granted_head {h : Hdr} {key zone count slot : Nat} {rest : List Nat} {z : Zone} {s : State}
    (hz : zoneOf zone = some z) (hfree : s.seat.free = slot :: rest) (hl : slot < s.seat.slots.length) :
    granted h key zone count s =
      (availability key ((s.withSeat
          (s.seat.grant slot ⟨key, z, count, h.port, h.terminal, 0⟩ s.policy.holdLife)).modifyShow key
            (addHeld z count)),
        okWith (w1 slot ++ w1 (((s.holdSlot slot).gen + 1) % 256) ++ w2 s.policy.holdLife)) := by
  have hhead : s.seat.free.headD 0 = slot := by rw [hfree]; rfl
  have hslot : (grantHold h key zone count s).holdSlot slot = _ :=
    (holdSlot_of_slots (by rw [grantHold_head hz hfree]; exact grant_slots _ _ _ _) hl slot).trans (if_pos rfl)
  rw [granted, hhead, hslot, grantHold_head hz hfree]
  rfl

/-- Settles O32: the head of the free list is granted, over a change of the show's held count. -/
theorem holdSeatsGrants : Obligations.HoldSeatsGrants := by
  intro h key zone count s hs
  refine takenOrRefused_done (holdSeats h key zone count) (granted h key zone count) rfl rfl
    (fun q => holdSeats_tested h key zone count (s.withPorts q))
    fun s1 t hn a hx f z slot rest hz hfree hslot => ?_
  have hl : slot < s.seat.slots.length := hs.slots_length.symm ▸ hslot
  rw [granted_head hz (by rw [a.seat, hfree]) (by rw [a.seat]; exact hl), a.holdSlot, a.seat, a.policy] at f
  have o := holdBegun_of_grant (t := t) (life := s.policy.holdLife) (info := ⟨key, z, count, h.port, h.terminal, 0⟩) hl
    (salesPort_of_passed hn) (by rw [f.seat]; simp)
  exact ⟨t, _, rfl, ⟨hx, f.answered⟩, o.begun, o.others, by rw [o.free, hfree]; rfl, o.count, o.counts, o.highWater,
    recounted_of hs a f rfl (availability_computed key (addHeld z count) _ (addHeld_key _ _))⟩

/-! ### The status reads (R53, R189, R200) -/

/-- What a port keeps while a request in execution is answered on it or on another. -/
def PortState.counters (x : PortState) : Receiver × Word × Nat × Nat × Nat × Word :=
  (x.receiver, x.mask, x.frameErrors, x.busy, x.unanswered, x.causes)

theorem Finished.counters {h : Hdr} {k : Nat} {r : Reply} {u t : State} (f : Finished h k r u t) (q : Port) :
    (t.portAt q).counters = (u.portAt q).counters := by
  by_cases hq : q = h.port
  · subst hq
    obtain ⟨hrec, hmask, hframe, hbusy, hun, hcauses⟩ := f.own _ rfl _ rfl
    simp only [PortState.counters, hrec, hmask, hframe, hbusy, hun, hcauses]
  · rw [f.others q hq]

theorem Seated.counters {h : Hdr} {s s1 : State} (a : Seated h s s1) (q : Port) :
    (s1.portAt q).counters = (s.portAt q).counters := by
  by_cases hq : q = h.port
  · subst hq
    obtain ⟨e, he⟩ := a.own
    rw [he]
    rfl
  · rw [a.others q hq]

theorem selectedPort_isNone (own : Port) (selector : Nat) :
    (selectedPort own selector).isNone = decide (3 < selector) := by
  match selector with
  | 0 | 1 | 2 | 3 => rfl
  | n + 4 => exact (decide_eq_true (by omega)).symm

/-- The tests of R200. -/
def portStatusTests (own : Port) (selector : Nat) : List (Bool × Result) :=
  [(decide (3 < selector), .badArgument),
   (decide (own ≠ .programme) && (selectedPort own selector).any (fun q => decide (q ≠ own)), .notPermitted)]

/-- The reading of a port's status and the clearing of its counts (R200). -/
def portStatus (clear : Bool) (q : Port) : Owner := fun s =>
  (if clear then s.withPortAt q (s.portAt q).cleared else s, okWith (wPort q (s.portAt q)))

theorem readPortStatus_tested (own : Port) (selector : Nat) (clear : Bool) (s : State) :
    readPortStatus own selector clear s = tested (portStatusTests own selector) s
      (portStatus clear ((selectedPort own selector).getD own) s) := by
  rw [portStatusTests, ← selectedPort_isNone, readPortStatus]
  cases selectedPort own selector with
  | none => rfl
  | some q => simp [tested_cons, tested_nil, portStatus]

/-- Only the counts of the port named are cleared. -/
theorem portStatus_portAt (clear : Bool) (q r : Port) (s : State) : ((portStatus clear q s).1).portAt r =
    if r = q ∧ clear = true then (s.portAt q).cleared else s.portAt r := by
  cases clear
  · simp [portStatus]
  · simp [portStatus, portAt_withPortAt]

theorem portStatus_blocks (clear : Bool) (q : Port) (s : State) :
    (portStatus clear q s).1 = { s with ports := ((portStatus clear q s).1).ports } := by
  cases clear <;> rfl

theorem portStatus_causes (clear : Bool) (q r : Port) (s : State) :
    (((portStatus clear q s).1).portAt r).causes = (s.portAt r).causes := by
  rw [portStatus_portAt]
  split
  · rename_i h
    rw [h.1]
    rfl
  · rfl

/-- The body of Read Port Status on the request's own port, whose request stands in execution. -/
theorem wPort_seated {h : Hdr} {s s1 : State} (a : Seated h s s1) {x : PortState} (hx : x = s.portAt h.port) :
    wPort h.port (s1.portAt h.port) = w1 x.frameErrors ++ w1 x.busy ++ w1 x.unanswered ++ w1 x.waiting.length ++ w1 1 ++
      w1 x.answers.length ++ w1 x.receiver.code ++ wCauses h.port x.causes ++ wCauses h.port x.mask := by
  obtain ⟨e, he⟩ := a.own
  rw [he, hx]
  rfl

theorem port_status_read (h : Hdr) (clear : Bool) (s : State) (selector : Nat) :
    TakenOrRefused (.readPortStatus h selector clear) h 16 s (portStatusTests h.port selector)
      (∀ q, selectedPort h.port selector = some q → ∃ t body,
        Takes (.readPortStatus h selector clear) s h 16 (okWith body) t ∧
        (∀ x, x = s.portAt q → q ≠ h.port → body = wPort q x) ∧
        (∀ x, x = s.portAt q → q = h.port → body = w1 x.frameErrors ++ w1 x.busy ++ w1 x.unanswered ++
          w1 x.waiting.length ++ w1 1 ++ w1 x.answers.length ++ w1 x.receiver.code ++ wCauses q x.causes ++
          wCauses q x.mask) ∧
        (clear = false → NothingChanged h.port s t) ∧
        (clear = true → (t.portAt q).frameErrors = 0 ∧ (t.portAt q).busy = 0 ∧ (t.portAt q).unanswered = 0 ∧
          (t.portAt q).receiver = (s.portAt q).receiver ∧ (t.portAt q).mask = (s.portAt q).mask) ∧
        t = { s with ports := t.ports } ∧ CausesKept s t ∧
        ∀ r, r ≠ h.port → r ≠ q → t.portAt r = s.portAt r) := by
  refine takenOrRefused_done _ _ rfl rfl (fun q => readPortStatus_tested h.port selector clear (s.withPorts q))
    fun s1 t _ a hx f q hq => ?_
  rw [hq, Option.getD_some] at f
  refine ⟨t, _, ⟨hx, f.answered⟩, fun x hxs hne => ?_, fun x hxs he => ?_, fun hc => ?_, fun hc => ?_, ?_,
    fun r => ?_, fun r hrh hrq => ?_⟩
  · rw [a.others q hne, hxs]
  · subst he
    exact wPort_seated a hxs
  · subst hc
    exact nothingChanged_of_finished a f
  · have hf := f.counters q
    rw [portStatus_portAt, if_pos ⟨rfl, hc⟩] at hf
    have ha := a.counters q
    simp only [PortState.counters, PortState.cleared, Prod.mk.injEq] at hf ha
    obtain ⟨hrec, hmask, hframe, hbusy, hun, -⟩ := hf
    exact ⟨hframe, hbusy, hun, hrec.trans ha.1, hmask.trans ha.2.1⟩
  · rw [f.blocks, portStatus_blocks, a.blocks]
  · rw [f.causes, portStatus_causes, a.causes]
  · rw [f.others r hrh, portStatus_portAt, if_neg fun h => hrq h.1, a.others r hrh]

/-- The fields of R53 in its order. -/
def seatStatus (s : State) : List Byte :=
  w1 s.activeHolds ++ w1 s.seat.free.length ++ w1 s.seat.countA ++ w1 s.seat.countB ++ w1 s.policy.quotaA ++
    w1 s.policy.quotaB ++ w1 s.seat.highWater

/-- The Seat Unit after Read Seat Status (R53). -/
def seatRead (clear : Bool) (s : State) : SeatUnit :=
  { s.seat with highWater := if clear then s.activeHolds else s.seat.highWater }

theorem readSeatStatus_eq (clear : Bool) (s : State) :
    readSeatStatus clear s = (s.withSeat (seatRead clear s), okWith (seatStatus s)) := by
  cases clear <;> rfl

theorem seat_status_read (h : Hdr) (clear : Bool) (s : State) :
    TakenOrRefused (.readSeatStatus h clear) h 51 s [] (∃ t,
      Takes (.readSeatStatus h clear) s h 51 (okWith (seatStatus s)) t ∧ t.seat = seatRead clear s ∧
      t = { s with seat := t.seat, ports := t.ports } ∧ Quietly h.port s t) :=
  takenOrRefused_of (readSeatStatus clear) (fun u => u.withSeat (seatRead clear s)) (okWith (seatStatus s)) rfl rfl
    (fun q => readSeatStatus_eq clear (s.withPorts q))
    fun s1 t _ a hx f => ⟨t, ⟨hx, f.answered⟩, f.seat, by rw [f.blocks, a.blocks]; rfl, quietly_of a f rfl⟩

theorem panelAt_withPanelAt {s : State} {addr a : Nat} (h1 : 1 ≤ addr) (hl : addr ≤ s.link.panels.length) (ha : 1 ≤ a)
    (x : Panel) : (s.withPanelAt addr x).panelAt a = if a = addr then x else s.panelAt a := by
  simp only [State.panelAt, withPanelAt_link, List.getElem?_set]
  by_cases he : a = addr
  · subst he
    rw [if_pos rfl, if_pos rfl, if_pos (by omega), Option.getD_some]
  · rw [if_neg (by omega), if_neg he]

/-- Read Panel's clear flag on the panel's error record (R189). -/
def Panel.readOut (clear : Bool) (p : Panel) : Panel := { p with error := if clear then .clear else p.error }

/-- What Read Panel does to the link (R189). -/
def panelRead (addr : Nat) (clear : Bool) (s : State) : State :=
  if clear then s.withPanelAt addr ((s.panelAt addr).readOut true) else s

theorem panelRead_panelAt {addr a : Nat} {s : State} (h1 : 1 ≤ addr) (hl : addr ≤ s.link.panels.length) (ha : 1 ≤ a)
    (clear : Bool) :
    (panelRead addr clear s).panelAt a = if a = addr then (s.panelAt addr).readOut clear else s.panelAt a := by
  cases clear with
  | true => exact panelAt_withPanelAt h1 hl ha _
  | false =>
    split
    · rename_i he
      rw [he]
      rfl
    · rfl

theorem panelRead_blocks (addr : Nat) (clear : Bool) (s : State) :
    panelRead addr clear s = { s with link := { s.link with panels := (panelRead addr clear s).link.panels } } := by
  cases clear <;> rfl

theorem readPanel_tested (addr : Nat) (clear : Bool) (s : State) :
    readPanel addr clear s = tested [(decide (addr = 0 ∨ 24 < addr), .badArgument)] s
      (panelRead addr clear s, okWith (wPanel (s.panelAt addr) s.link)) := by
  rw [tested_cons, tested_nil, readPanel]
  simp only [decide_eq_true_eq]
  rfl

theorem panel_read (h : Hdr) (clear : Bool) (s : State) (hs : Sized s) (addr : Nat) :
    TakenOrRefused (.readPanel h addr clear) h 106 s [(decide (addr = 0 ∨ 24 < addr), .badArgument)] (∃ t,
      Takes (.readPanel h addr clear) s h 106 (okWith (wPanel (s.panelAt addr) s.link)) t ∧
      t.panelAt addr = (s.panelAt addr).readOut clear ∧
      (∀ a, 1 ≤ a → a ≠ addr → t.panelAt a = s.panelAt a) ∧
      t = { s with link := { s.link with panels := t.link.panels }, ports := t.ports } ∧ Quietly h.port s t) := by
  refine takenOrRefused_of (readPanel addr clear) (panelRead addr clear) (okWith (wPanel (s.panelAt addr) s.link)) rfl
    rfl (fun q => readPanel_tested addr clear (s.withPorts q)) fun s1 t hn a hx f => ?_
  have haddr : ¬ (addr = 0 ∨ 24 < addr) := of_decide_eq_false (firstRefusal_eq_none.mp hn _ (List.mem_singleton_self _))
  have hlen : s1.link.panels.length = 24 := by
    rw [a.link, hs.panels_length]
  have hpanel : ∀ b, 1 ≤ b → t.panelAt b = if b = addr then (s.panelAt addr).readOut clear else s.panelAt b :=
    fun b hb => by
      rw [panelAt_link f.link, panelRead_panelAt (by omega) (by omega) hb, panelAt_link a.link, panelAt_link a.link]
  have hports : (panelRead addr clear s1).ports = s1.ports := by rw [panelRead_blocks]
  refine ⟨t, ⟨hx, f.answered⟩, by rw [hpanel addr (by omega), if_pos rfl],
    fun b hb hne => by rw [hpanel b hb, if_neg hne], ?_, quietly_of a f hports⟩
  rw [f.blocks, panelRead_blocks, a.blocks]

/-- Settles O30: the three readings, each with what its clear flag clears. -/
theorem statusReads : Obligations.StatusReads := fun h clear s hs =>
  ⟨port_status_read h clear s, seat_status_read h clear s, panel_read h clear s hs⟩

end Sys2Proof.Machine

/-! ## The grant of the link (O52) -/

namespace Sys2Proof.Machine

/-! ### What is relevant to a view (R160, R161) -/

theorem relevant_iff (c : PanelConfig) (t : Target) : relevant c t = true ↔ t = .notices ∨ t = .alert ∨
    (c.view = .board ∧ ((∃ k, t = .boardLine k) ∨ ∃ i, t = .title i)) ∨
    (c.view = .door ∧ (t = .door c.aud ∨ ∃ i, t = .title i)) ∨ (c.view = .spot ∧ t = .reel c.reel) := by
  cases hv : c.view with
  | board => cases t <;> simp [relevant, hv]
  | door => cases t <;> simp [relevant, hv]
  | spot => cases t <;> simp [relevant, hv]
  | blank => cases t <;> simp [relevant, hv]

theorem journal_second_iff (j : Journal) (v : Nat) (c : PanelConfig) :
    j.second v c = true ↔ j.relevantAbove v c ≠ [] := by
  simp only [Journal.second, Journal.relevantAbove, List.any_eq_true, ne_eq, List.filter_eq_nil_iff, not_forall, not_not,
    exists_prop]

/-! ### Which panel is served next (R174, R175) -/

theorem panel_waiting_iff (pol : Policy) (p : Panel) : p.waiting pol = true ↔ p.state ≠ .absent ∧
    (p.batch.isSome = true ∨ 0 < p.retry ∨ p.state = .unknown ∨ p.state = .syncing ∨ p.state = .behind ∨
      (p.state = .current ∧ pol.pollInterval ≤ p.idle) ∨ (p.state = .offline ∧ pol.probeInterval ≤ p.idle)) := by
  cases hs : p.state <;> simp [Panel.waiting, hs, or_assoc]

/-- The first 24 - last places of the order are the addresses above the last served one; the rest come round from 1. -/
theorem arbiterOrder_eq {last : Nat} (h : last ≤ 24) : arbiterOrder last =
    (List.range (24 - last)).map (fun i => last + 1 + i) ++ (List.range last).map (fun i => i + 1) := by
  have hsplit : Config.panelCount = (24 - last) + last := (Nat.sub_add_cancel h).symm
  have hcount : Config.panelCount = 24 := rfl
  rw [arbiterOrder, hsplit, List.range_add, List.map_append, List.map_map, ← hsplit, hcount]
  congr 1
  · refine List.map_congr_left fun i hi => ?_
    rw [List.mem_range] at hi
    omega
  · refine List.map_congr_left fun i hi => ?_
    rw [List.mem_range] at hi
    simp only [Function.comp_apply]
    omega

theorem arbiterOrder_bounds {last a : Nat} (h : a ∈ arbiterOrder last) : 1 ≤ a ∧ a ≤ 24 := by
  obtain ⟨i, -, rfl⟩ := List.mem_map.mp h
  have := Nat.mod_lt (last + i) (show 0 < Config.panelCount by decide)
  exact ⟨Nat.le_add_left _ _, this⟩

theorem nextWaiting_eq_none {s : State} (h : ∀ b, 1 ≤ b → b ≤ 24 → (s.panelAt b).waiting s.policy = false) :
    nextWaiting s = none := by
  refine List.find?_eq_none.mpr fun b hb => ?_
  obtain ⟨h1, h24⟩ := arbiterOrder_bounds hb
  rw [h b h1 h24]
  exact Bool.false_ne_true

/-- The panel found waits, and no panel before it in the order does. -/
theorem nextWaiting_eq_some {s : State} {a : Nat} (h : nextWaiting s = some a) :
    (s.panelAt a).waiting s.policy = true ∧ (1 ≤ a ∧ a ≤ 24) ∧
    ∃ pre post, arbiterOrder s.link.lastServed = pre ++ a :: post ∧
      ∀ b ∈ pre, (s.panelAt b).waiting s.policy = false := by
  obtain ⟨hw, pre, post, horder, hpre⟩ := List.find?_eq_some_iff_append.mp h
  refine ⟨hw, arbiterOrder_bounds (List.mem_of_find?_eq_some h), pre, post, horder, fun b hb => ?_⟩
  simpa using hpre b hb

/-! ### The refresh list (R77, R178) -/

theorem boardBefore_iff (start start' aud aud' key key' : Nat) : boardBefore (start, aud, key) (start', aud', key') = true ↔
    start < start' ∨ (start = start' ∧ (aud < aud' ∨ (aud = aud' ∧ key < key'))) := by
  simp only [boardBefore, Bool.or_eq_true, Bool.and_eq_true, decide_eq_true_eq, beq_iff_eq]

theorem boardOrder_perm (s : State) : (boardOrder s).Perm s.board.lines := sortBy_perm _ _

theorem boardOrder_pairwise (s : State) : (boardOrder s).Pairwise (fun a b =>
    a.start < b.start ∨ (a.start = b.start ∧ (a.aud < b.aud ∨ (a.aud = b.aud ∧ a.key ≤ b.key)))) := by
  refine sortBy_pairwise _ _ (fun a b c => ?_) (fun a b h => ?_) (fun a b h => ?_) _
  · omega
  · rw [boardBefore_iff] at h
    omega
  · rw [← Bool.not_eq_true, boardBefore_iff] at h
    omega

theorem refreshList_view (s : State) (c : PanelConfig) :
    (c.view = .board → refreshList s c =
      .alert :: .notices :: ((List.range 64).map .title ++ (boardOrder s).map (fun l => .boardLine l.key))) ∧
    (c.view = .door → refreshList s c = .alert :: .notices :: ((List.range 64).map .title ++ [.door c.aud])) ∧
    (c.view = .spot → refreshList s c = [.alert, .notices, .reel c.reel]) ∧
    (c.view = .blank → refreshList s c = [.alert, .notices]) := by
  refine ⟨fun hv => ?_, fun hv => ?_, fun hv => ?_, fun hv => ?_⟩ <;>
    simp only [refreshList, hv, List.cons_append, List.nil_append]

/-! ### What a grant makes of its panel (R174, R177 to R179) -/

theorem toSyncing_state (p : Panel) : p.toSyncing.state = .syncing := by
  unfold Panel.toSyncing
  split <;> rfl

theorem toSyncing_config (p : Panel) : p.toSyncing.config = p.config := by
  unfold Panel.toSyncing
  split <;> rfl

theorem grantPanel_of_batch (s : State) {p : Panel} {b : Batch} (hb : p.batch = some b) :
    grantPanel s p = (p, b.kind.frame) := by
  simp only [grantPanel, hb]

theorem grantPanel_of_syncing (s : State) {p : Panel} (hb : p.batch = none) (hp : p.state = .unknown ∨ p.state = .syncing) :
    grantPanel s p = (grantRefresh s p, (((grantRefresh s p).batch).map (·.kind.frame)).getD .refreshBegin) := by
  rcases hp with hp | hp <;> simp only [grantPanel, hb, hp]

theorem grantRefresh_begins (s : State) {p : Panel}
    (hr : p.refresh = none ∨ ∃ r, p.refresh = some r ∧ r.restart = true) : grantRefresh s p = beginRefresh s p := by
  rcases hr with hr | ⟨r, hr, hrestart⟩
  · simp only [grantRefresh, hr]
  · simp only [grantRefresh, hr, hrestart, if_true]

theorem grantRefresh_continues (s : State) {p : Panel} {r : Refresh} (hr : p.refresh = some r) (hrestart : r.restart = false) :
    grantRefresh s p = { p with batch := some (nextRefreshBatch s p r) } := by
  simp only [grantRefresh, hr, hrestart, Bool.false_eq_true, if_false]

/-- The UPDATE is FINAL when the eight records it may hold reach the end of the list (R179). -/
theorem nextRefreshBatch_eq (s : State) (p : Panel) (r : Refresh) : nextRefreshBatch s p r =
    ⟨.refreshUpdate (decide (r.targets.length ≤ r.position + 8)),
      ((r.targets.drop r.position).take 8).map (readTarget s p.config), none⟩ := by
  have hfinal : (r.targets.length ≤ r.position + ((r.targets.drop r.position).take 8).length) ↔
      r.targets.length ≤ r.position + 8 := by
    rw [List.length_take, List.length_drop]
    omega
  simp only [nextRefreshBatch, hfinal]

theorem grantPanel_below_floor (s : State) {p : Panel} (hb : p.batch = none) (hp : p.state = .behind)
    (hf : p.shown < s.journal.floor) : grantPanel s p = (beginRefresh s p.toSyncing, .refreshBegin) := by
  simp only [grantPanel, hb, hp, Journal.first, if_pos hf]

/-- The entries of a BEHIND panel's UPDATE are the first eight it is behind; its revision is the last one's, or the current
one when none remains (R177). -/
theorem grantPanel_behind (s : State) {p : Panel} (hb : p.batch = none) (hp : p.state = .behind)
    (hf : s.journal.floor ≤ p.shown) {l : List Entry} (hl : l = s.journal.relevantAbove p.shown p.config) (hne : l ≠ []) :
    grantPanel s p = ({ p with
      batch := some ⟨.update, (l.take 8).map (readEntry s p.config),
        if 8 < l.length then (l.take 8).getLast?.map (·.rev) else some s.journal.cur⟩ }, .update) := by
  obtain ⟨e, rest, rfl⟩ := List.exists_cons_of_ne_nil hne
  have hfirst : s.journal.first p.shown p.config 8 =
      .entries (e :: rest.take 7) (decide (8 < (e :: rest).length)) s.journal.cur := by
    rw [Journal.first, if_neg (Nat.not_lt.mpr hf), ← hl]
    rfl
  simp only [grantPanel, hb, hp, hfirst, updateBatch, List.take_succ_cons, List.getLast?_cons, Option.map_some,
    Option.getD_some, decide_eq_true_eq, apply_ite some]

theorem grantPanel_current (s : State) {p : Panel} (hb : p.batch = none) (hp : p.state = .current) :
    grantPanel s p = (p, .poll) := by
  simp only [grantPanel, hb, hp]

theorem grantPanel_offline (s : State) {p : Panel} (hb : p.batch = none) (hp : p.state = .offline) :
    grantPanel s p = (p, .probe) := by
  simp only [grantPanel, hb, hp]

/-! ### The grant (R167, R175) -/

theorem freePoint_of_idle {s : State} (h : s.link.cond = .idle) : freePoint s = true := by
  rw [freePoint, h]
  rfl

theorem exec_panelGrant_of_some {s : State} {a : Nat} (hrun : s.phase = .running) (hidle : s.link.cond = .idle)
    (hbeacon : s.link.beaconPending = false) (hnext : nextWaiting s = some a) :
    exec .panelGrant s = .next (grantTo a s) := by
  have harm : exec .panelGrant s = .next (whenRunning panelGrant s) := rfl
  rw [harm, whenRunning, if_pos hrun, panelGrant, if_pos ⟨freePoint_of_idle hidle, hbeacon⟩, hnext]

theorem exec_panelGrant_of_none {s : State} (hnext : nextWaiting s = none) : exec .panelGrant s = .next s := by
  have harm : exec .panelGrant s = .next (whenRunning panelGrant s) := rfl
  rw [harm, whenRunning, panelGrant, hnext, ite_self, ite_self]

theorem grantTo_panelAt {s : State} (hs : Sized s) {a b : Nat} (h1 : 1 ≤ a) (h24 : a ≤ 24) (hb : 1 ≤ b) :
    (grantTo a s).panelAt b = if b = a then (grantPanel s (s.panelAt a)).1 else s.panelAt b :=
  panelAt_withPanelAt h1 (hs.panels_length ▸ h24) hb _

theorem grantTo_eq_withLink (a : Nat) (s : State) : grantTo a s = s.withLink (grantTo a s).link := rfl

/-- Settles O52: who waits and in which order, what a view is sent, and the frame a grant sends by its panel's state. -/
theorem grantServesTheNextPanel : Obligations.GrantServesTheNextPanel := by
  refine ⟨fun _ _ => rfl, relevant_iff, fun j v c => ⟨rfl, journal_second_iff j v c⟩, fun _ => arbiterOrder_eq,
    panel_waiting_iff, refreshList_view, fun s => ⟨boardOrder_perm s, boardOrder_pairwise s⟩,
    fun s _ _ _ hnone => exec_panelGrant_of_none (nextWaiting_eq_none hnone), ?_⟩
  intro s a p hs hrun hidle hbeacon hnext hp
  obtain ⟨hwaits, ⟨h1, h24⟩, horder⟩ := nextWaiting_eq_some hnext
  have hown : (grantTo a s).panelAt a = (grantPanel s p).1 := by
    rw [grantTo_panelAt hs h1 h24 h1, if_pos rfl, hp]
  have hothers : ∀ b, 1 ≤ b → b ≠ a → (grantTo a s).panelAt b = s.panelAt b := fun b hb hne => by
    rw [grantTo_panelAt hs h1 h24 hb, if_neg hne]
  refine ⟨grantTo a s, (grantPanel s p).1, (grantPanel s p).2, exec_panelGrant_of_some hrun hidle hbeacon hnext,
    hown.symm, horder, hp ▸ hwaits, h1, h24, hp ▸ rfl, rfl, hp ▸ rfl, fun b hb => ?_,
    fun hb hstate => ⟨fun hr => ?_, fun r hr hrestart => ?_⟩, fun hb hstate => ⟨fun hf => ?_, fun l hf hl hne => ?_⟩,
    fun hb hstate => ?_, fun hb hstate => ?_, hothers, hbeacon, grantTo_eq_withLink a s⟩
  · rw [grantPanel_of_batch s hb]
    exact ⟨rfl, rfl⟩
  · rw [grantPanel_of_syncing s hb hstate, grantRefresh_begins s hr]
    exact ⟨rfl, rfl⟩
  · rw [grantPanel_of_syncing s hb hstate, grantRefresh_continues s hr hrestart, nextRefreshBatch_eq]
    exact ⟨rfl, rfl⟩
  · rw [grantPanel_below_floor s hb hstate hf]
    exact ⟨rfl, toSyncing_state p, by rw [beginRefresh, toSyncing_config]⟩
  · rw [grantPanel_behind s hb hstate hf hl hne]
    exact ⟨rfl, rfl⟩
  · rw [grantPanel_current s hb hstate]
    exact ⟨rfl, rfl⟩
  · rw [grantPanel_offline s hb hstate]
    exact ⟨rfl, rfl⟩

end Sys2Proof.Machine

/-! ## Cue searches and the ends of items (O18, O19) -/

namespace Sys2Proof.Machine

/-! ### One lap over a cyclic list -/

/-- The `n` places of a lap from place `o` on, wrapping. -/
def lap (o n : Nat) : List Nat := (List.range n).map (fun i => (o + i) % n)

theorem lap_length (o n : Nat) : (lap o n).length = n := by simp [lap]

/-- A lap comes to every place: to place `i` after the distance from the start to `i`. -/
theorem mem_lap {o n i : Nat} : i ∈ lap o n ↔ i < n := by
  simp only [lap, List.mem_map, List.mem_range]
  constructor
  · rintro ⟨j, hj, rfl⟩
    exact Nat.mod_lt _ (by omega)
  · intro hi
    have hn : 0 < n := by omega
    refine ⟨(i + (n - o % n)) % n, Nat.mod_lt _ hn, ?_⟩
    have hle : o % n < n := Nat.mod_lt _ hn
    calc (o + (i + (n - o % n)) % n) % n = (o % n + (i + (n - o % n))) % n := by rw [Nat.add_mod_mod, Nat.mod_add_mod]
      _ = (i + n) % n := by congr 1; omega
      _ = i := by rw [Nat.add_mod_right, Nat.mod_eq_of_lt hi]

/-! ### Eligibility (R102) -/

theorem advertises_iff {sh : Show} {title : Nat} : sh.advertises title = true ↔
    sh.title = title ∧ (sh.state = .onSale ∨ sh.state = .seating) ∧ sh.band ≠ .soldOut := by
  simp [Show.advertises, and_assoc]

theorem eligible_iff {s : State} {key : Nat} : eligible s key = true ↔ ∃ sp, s.findSpot key = some sp ∧
    (sp.title = none ∨ ∃ ti, sp.title = some ti ∧ ∃ sh ∈ s.shows.shows, sh.title = ti ∧
      (sh.state = .onSale ∨ sh.state = .seating) ∧ sh.band ≠ .soldOut) := by
  unfold eligible
  cases s.findSpot key with
  | none => simp
  | some sp =>
    cases ht : sp.title with
    | none => simp [ht]
    | some ti =>
      simp only [List.any_eq_true, advertises_iff, Option.some.injEq, exists_eq_left', ht, reduceCtorEq, false_or]

theorem findSpot_of_eligible {s : State} {key : Nat} (h : eligible s key = true) : ∃ sp, s.findSpot key = some sp :=
  (eligible_iff.mp h).imp fun _ hsp => hsp.1

/-! ### The lap of a search, and what it finds (R103) -/

theorem searchOrder_eq (starting : Bool) (x : Reel) :
    searchOrder starting x = lap (x.cursor + if starting then 0 else 1) x.slots.length := by
  unfold searchOrder lap
  cases starting
  · simp only [Bool.false_eq_true, if_false, Nat.add_assoc, Nat.add_comm 1]
  · rfl

/-- The spot a search takes at a slot: the slot's own, when eligible. -/
def spotAtSlot (s : State) (x : Reel) (i : Nat) : Option (Nat × Spot) :=
  ((x.slots)[i]?).bind fun key => if eligible s key then (s.findSpot key).map (fun sp => (i, sp)) else none

theorem searchSlot_eq (s : State) (starting : Bool) (x : Reel) :
    searchSlot s starting x = (searchOrder starting x).findSome? (spotAtSlot s x) := by
  unfold searchSlot
  congr 1
  funext i
  unfold spotAtSlot
  cases (x.slots)[i]? <;> rfl

theorem spotAtSlot_eq_some {s : State} {x : Reel} {i j : Nat} {sp : Spot} : spotAtSlot s x i = some (j, sp) ↔
    i = j ∧ ∃ key, (x.slots)[i]? = some key ∧ eligible s key = true ∧ s.findSpot key = some sp := by
  simp only [spotAtSlot, Option.bind_eq_some_iff, Option.ite_none_right_eq_some, Option.map_eq_some_iff, Prod.mk.injEq]
  constructor
  · rintro ⟨key, hkey, hel, sp', hsp, rfl, rfl⟩
    exact ⟨rfl, key, hkey, hel, hsp⟩
  · rintro ⟨rfl, key, hkey, hel, hsp⟩
    exact ⟨key, hkey, hel, sp, hsp, rfl, rfl⟩

theorem spotAtSlot_eq_none {s : State} {x : Reel} {i : Nat} :
    spotAtSlot s x i = none ↔ ∀ key, (x.slots)[i]? = some key → eligible s key = false := by
  constructor
  · intro h key hkey
    by_contra hel
    rw [Bool.not_eq_false] at hel
    obtain ⟨sp, hsp⟩ := findSpot_of_eligible hel
    rw [spotAtSlot_eq_some.mpr ⟨rfl, key, hkey, hel, hsp⟩] at h
    cases h
  · intro h
    cases hkey : (x.slots)[i]? with
    | none => simp [spotAtSlot, hkey]
    | some key => simp [spotAtSlot, hkey, h key hkey]

theorem searchSlot_eq_none {s : State} {starting : Bool} {x : Reel} : searchSlot s starting x = none ↔
    ∀ i key, i ∈ searchOrder starting x → (x.slots)[i]? = some key → eligible s key = false := by
  rw [searchSlot_eq, List.findSome?_eq_none_iff]
  exact ⟨fun h i key hi => spotAtSlot_eq_none.mp (h i hi) key,
    fun h i hi => spotAtSlot_eq_none.mpr fun key => h i key hi⟩

/-- A search that finds a spot finds it at the first slot of its order whose spot is eligible. -/
theorem searchSlot_first {s : State} {starting : Bool} {x : Reel} {i : Nat} {sp : Spot}
    (h : searchSlot s starting x = some (i, sp)) :
    (∃ pre post, searchOrder starting x = pre ++ i :: post ∧
      ∀ j ∈ pre, ∀ key, (x.slots)[j]? = some key → eligible s key = false) ∧
    ∃ key, (x.slots)[i]? = some key ∧ eligible s key = true ∧ s.findSpot key = some sp := by
  rw [searchSlot_eq, List.findSome?_eq_some_iff] at h
  obtain ⟨pre, j, post, horder, hfound, hpre⟩ := h
  obtain ⟨rfl, hslot⟩ := spotAtSlot_eq_some.mp hfound
  exact ⟨⟨pre, post, horder, fun j hj => spotAtSlot_eq_none.mp (hpre j hj)⟩, hslot⟩

theorem cued_of_some {s : State} {starting : Bool} {x : Reel} {i : Nat} {sp : Spot}
    (h : searchSlot s starting x = some (i, sp)) : cued s starting x =
      { x with cursor := i, item := .spot sp.media sp.duration, countdown := sp.duration, state := .playing,
               plays := (x.plays + 1) % 65536 } := by
  simp [cued, h, nextPlay]

theorem cued_of_none {s : State} {starting : Bool} {x : Reel} (h : searchSlot s starting x = none) :
    cued s starting x =
      { x with item := .filler s.policy.fillerMedia s.policy.fillerDuration, countdown := s.policy.fillerDuration,
               state := .filler, plays := (x.plays + 1) % 65536 } := by
  simp [cued, h, nextPlay]

/-- Settles O19: eligibility, the lap of a search, and its first eligible spot. -/
theorem cueSearch : Obligations.CueSearch := by
  intro s starting x
  refine ⟨fun _ => eligible_iff, by rw [searchOrder_eq, lap_length], fun i hi => by simp [searchOrder, hi],
    fun i sp h => ?_, fun h => ?_, fun i key hi hkey hel => ?_, fun _ i => by rw [searchOrder_eq, mem_lap]⟩
  · obtain ⟨hfirst, hslot⟩ := searchSlot_first h
    exact ⟨hfirst, hslot, cued_of_some h⟩
  · exact cued_of_none (searchSlot_eq_none.mpr h)
  · rw [Option.isSome_iff_ne_none]
    intro hnone
    rw [searchSlot_eq_none.mp hnone i key hi hkey] at hel
    cases hel

/-- A search reads the shows, the spots and the settings alone. -/
theorem cued_congr {s t : State} (hshows : t.shows = s.shows) (hspots : t.reel.spots = s.reel.spots)
    (hpolicy : t.policy = s.policy) (starting : Bool) (x : Reel) : cued t starting x = cued s starting x := by
  have hfind : t.findSpot = s.findSpot := by
    funext key
    rw [State.findSpot, hspots, State.findSpot]
  have hel : eligible t = eligible s := by
    funext key
    rw [eligible, hfind, hshows, eligible]
  have hsearch : searchSlot t starting x = searchSlot s starting x := by
    rw [searchSlot, hel, hfind, searchSlot]
  rw [cued, hsearch, hpolicy, cued]

/-! ### One reel written -/

/-- Reel `r` stands as `x` and the journal as `j`; the other reels, the spots and, but for what a filing touches, the other
blocks stay. -/
structure ReelChanged (r : Nat) (x : Reel) (j : Journal) (s u : State) : Prop where
  own : u.reelAt r = x
  others : ∀ q, q ≠ r → u.reelAt q = s.reelAt q
  spots : u.reel.spots = s.reel.spots
  journal : u.journal = j
  blocks : u = { s with reel := u.reel, journal := u.journal, link := u.link, ports := u.ports }
  steady : u.link.steady = s.link.steady
  quiet : u.ports.quiet = s.ports.quiet
  causes : OnlyForced s u

theorem Sized.reels_length {s : State} (hs : Sized s) : s.reel.reels.length = 4 := by
  obtain ⟨-, -, -, -, -, hreels, -⟩ := hs
  exact hreels

theorem reelChanged_refl (r : Nat) (s : State) : ReelChanged r (s.reelAt r) s.journal s s :=
  ⟨rfl, fun _ _ => rfl, rfl, rfl, rfl, rfl, rfl, OnlyForced.refl s⟩

theorem ReelChanged.trans {r : Nat} {x y : Reel} {j k : Journal} {s u v : State} (a : ReelChanged r x j s u)
    (b : ReelChanged r y k u v) : ReelChanged r y k s v where
  own := b.own
  others := fun q hq => (b.others q hq).trans (a.others q hq)
  spots := b.spots.trans a.spots
  journal := b.journal
  blocks := by rw [b.blocks, a.blocks]
  steady := b.steady.trans a.steady
  quiet := b.quiet.trans a.quiet
  causes := a.causes.trans b.causes

theorem reelChanged_write {r : Nat} {s : State} (hs : Sized s) (hr : r < 4) (x : Reel) :
    ReelChanged r x s.journal s (s.withReelAt r x) where
  own := by rw [reelAt_withReelAt (hs.reels_length ▸ hr), if_pos rfl]
  others := fun q hq => by rw [reelAt_withReelAt (hs.reels_length ▸ hr), if_neg hq]
  spots := rfl
  journal := rfl
  blocks := rfl
  steady := rfl
  quiet := rfl
  causes := fun _ _ _ => rfl

/-- A filing of REEL(r) leaves every reel. -/
theorem reelChanged_file (r : Nat) (s : State) :
    ReelChanged r (s.reelAt r) (s.journal.filed (.reel r) .update) s (fileReel r s) where
  own := reelAt_congr (by simp [fileReel]) r
  others := fun q _ => reelAt_congr (by simp [fileReel]) q
  spots := by simp [fileReel]
  journal := file_journal _ _ s
  blocks := by apply state_eq <;> simp [fileReel]
  steady := by simp [fileReel]
  quiet := by simp [fileReel]
  causes := file_onlyForced _ _ s

/-- A reel written and filed. -/
theorem reelChanged_filed {r : Nat} {s : State} (hs : Sized s) (hr : r < 4) (x : Reel) :
    ReelChanged r x (s.journal.filed (.reel r) .update) s (fileReel r (s.withReelAt r x)) := by
  have hwrite := reelChanged_write hs hr x
  have hfile := reelChanged_file r (s.withReelAt r x)
  rw [hwrite.own] at hfile
  exact hwrite.trans hfile

theorem cueReel_changed {r : Nat} {s : State} (hs : Sized s) (hr : r < 4) (starting : Bool) :
    ReelChanged r (cued s starting (s.reelAt r)) (s.journal.filed (.reel r) .update) s (cueReel starting r s) :=
  reelChanged_filed hs hr _

/-- Settles O18: the item's end is a cue of the reel. -/
theorem reelItemEnds : Obligations.ReelItemEnds := by
  intro r s hs hr hphase halert hruns hcount
  have m := cueReel_changed hs hr false
  refine ⟨cueReel false r s, ?_, m.own, m.others, m.journal, m.blocks, m.steady, m.quiet⟩
  show execReelItemEnd r s = _
  rw [execReelItemEnd, whenTicking, if_neg hphase, itemEndDue, if_pos ⟨halert, hruns, hcount⟩]

end Sys2Proof.Machine

/-! ## Reels built, cleared, stopped and started (O46, O47) -/

namespace Sys2Proof.Machine

/-! ### What a request leaves of the reels -/

section
variable {h : Hdr} {k r : Nat} {reply : Reply} {x : Reel} {j : Journal} {s s1 u t : State}

theorem Seated.reel (a : Seated h s s1) : s1.reel = s.reel := by rw [a.blocks]

theorem Sized.of_seated (hs : Sized s) (a : Seated h s s1) : Sized s1 := by
  rw [a.eq_withPorts]
  exact hs

/-- A reel's change by a request's owner, seen after the answer. -/
theorem ReelChanged.answered (m : ReelChanged r x j s1 u) (a : Seated h s s1) (f : Finished h k reply u t) :
    t.reelAt r = x ∧ (∀ q, q ≠ r → t.reelAt q = s.reelAt q) ∧ t.reel.spots = s.reel.spots ∧ t.journal = j ∧
      t = { s with reel := t.reel, journal := t.journal, link := t.link, ports := t.ports } ∧ FilesOnly h.port s t := by
  refine ⟨(reelAt_congr f.reel r).trans m.own, fun q hq => ?_, ?_, f.journal.trans m.journal, ?_, ?_,
    buffersKept_of a f m.quiet, onlyForced_of a f m.causes⟩
  · rw [reelAt_congr f.reel, m.others q hq, reelAt_congr a.reel]
  · rw [f.reel, m.spots, a.reel]
  · rw [f.blocks, m.blocks, a.blocks]
  · rw [f.link, m.steady, a.link]

end

/-- The reel as a starting cue leaves it, or held while the alert state is not NORMAL (R100, R110). -/
def cuedOrHeld (s : State) (x : Reel) : Reel :=
  if s.house.alert = .normal then cued s true x else { x with state := .held }

theorem cueOrHold_changed {r : Nat} {s : State} (hs : Sized s) (hr : r < 4) :
    ReelChanged r (cuedOrHeld s (s.reelAt r)) (s.journal.filed (.reel r) .update) s (cueOrHold r s) := by
  unfold cuedOrHeld cueOrHold
  split
  · exact cueReel_changed hs hr true
  · exact reelChanged_filed hs hr _

theorem cuedOrHeld_normal {s : State} (h : s.house.alert = .normal) (x : Reel) : cuedOrHeld s x = cued s true x :=
  if_pos h

theorem cuedOrHeld_held {s : State} (h : s.house.alert ≠ .normal) (x : Reel) :
    cuedOrHeld s x = { x with state := .held } := if_neg h

/-- A request that passes the test of its reel number names one of the four reels. -/
theorem lt_four_of_tests {r : Nat} {code : Result} {tests : List (Bool × Result)} (hn : firstRefusal tests = none)
    (hm : (decide (3 < r), code) ∈ tests) : r < 4 := by
  have htest := firstRefusal_eq_none.mp hn _ hm
  simpa [Nat.lt_succ_iff] using htest

/-! ### Stopping and starting (R109, R110) -/

theorem reelStopped (h : Hdr) (r : Nat) (s : State) (hs : Sized s) :
    TakenOrRefused (.stopReel h r) h 68 s [(decide (3 < r), .badArgument)]
      (((s.reelAt r).state = .stopped → Reads (.stopReel h r) s h 68 []) ∧
        ((s.reelAt r).state ≠ .stopped → ∃ t, Takes (.stopReel h r) s h 68 (okWith []) t ∧
          t.reelAt r = { s.reelAt r with item := .none, countdown := 0, state := .stopped } ∧
          (∀ q, q ≠ r → t.reelAt q = s.reelAt q) ∧ t.reel.spots = s.reel.spots ∧
          t.journal = s.journal.filed (.reel r) .update ∧
          t = { s with reel := t.reel, journal := t.journal, link := t.link, ports := t.ports } ∧
          FilesOnly h.port s t)) := by
  refine takenOrRefused_of (stopReel r) (fun u => if (u.reelAt r).state = .stopped then u
    else fileReel r (u.withReelAt r { u.reelAt r with item := .none, countdown := 0, state := .stopped })) (okWith [])
    rfl rfl (fun q => ?_) fun s1 t hn a hx f => ?_
  · simp only [stopReel, tested_cons, tested_nil, decide_eq_true_eq]
  · have hr : r < 4 := lt_four_of_tests (code := .badArgument) hn (by simp)
    rw [reelAt_congr a.reel] at f
    refine ⟨fun hst => ?_, fun hst => ⟨t, ⟨hx, f.answered⟩, ?_⟩⟩
    · rw [if_pos hst] at f
      exact reads_of_finished a hx f
    · rw [if_neg hst] at f
      rw [← a.journal]
      exact (reelChanged_filed (hs.of_seated a) hr _).answered a f

theorem reelStarted (h : Hdr) (r : Nat) (s : State) (hs : Sized s) :
    TakenOrRefused (.startReel h r) h 69 s
      [(decide (3 < r), .badArgument), (decide ((s.reelAt r).slots = []), .reelEmpty)]
      (((s.reelAt r).state ≠ .stopped → Reads (.startReel h r) s h 69 []) ∧
        ((s.reelAt r).state = .stopped → ∃ t, Takes (.startReel h r) s h 69 (okWith []) t ∧
          (s.house.alert = .normal → t.reelAt r = cued s true (s.reelAt r)) ∧
          (s.house.alert ≠ .normal → t.reelAt r = { s.reelAt r with state := .held }) ∧
          (∀ q, q ≠ r → t.reelAt q = s.reelAt q) ∧ t.reel.spots = s.reel.spots ∧
          t.journal = s.journal.filed (.reel r) .update ∧
          t = { s with reel := t.reel, journal := t.journal, link := t.link, ports := t.ports } ∧
          FilesOnly h.port s t)) := by
  refine takenOrRefused_of (startReel r) (fun u => if (u.reelAt r).state = .stopped then cueOrHold r u else u)
    (okWith []) rfl rfl (fun q => ?_) fun s1 t hn a hx f => ?_
  · have hreel : (s.withPorts q).reelAt r = s.reelAt r := rfl
    simp only [startReel, tested_cons, tested_nil, decide_eq_true_eq, hreel]
  · have hr : r < 4 := lt_four_of_tests (code := .badArgument) hn (by simp)
    rw [reelAt_congr a.reel] at f
    refine ⟨fun hst => ?_, fun hst => ⟨t, ⟨hx, f.answered⟩, ?_⟩⟩
    · rw [if_neg hst] at f
      exact reads_of_finished a hx f
    · rw [if_pos hst] at f
      have hown : cuedOrHeld s1 (s1.reelAt r) = cuedOrHeld s (s.reelAt r) := by rw [a.eq_withPorts]; rfl
      obtain ⟨hreel, hrest⟩ := (cueOrHold_changed (hs.of_seated a) hr).answered a f
      rw [hown] at hreel
      rw [a.journal] at hrest
      exact ⟨fun hn => hreel.trans (cuedOrHeld_normal hn _), fun hn => hreel.trans (cuedOrHeld_held hn _), hrest⟩

/-- Settles O47: both requests by their tests, then by the state the reel is in. -/
theorem reelsAreStoppedAndStarted : Obligations.ReelsAreStoppedAndStarted := fun h r s hs =>
  ⟨reelStopped h r s hs, reelStarted h r s hs⟩

/-! ### Placing the items (R99) -/

theorem reelStep_eq (n k : Nat) :
    reelStep n k = if n ≤ k then (if k % n = 0 then 1 else k % n) else if k = 0 then 1 else k := by
  unfold reelStep
  by_cases h : n ≤ k <;> simp [h]

/-- The first free place of the lap from `o`, when a place is free. -/
theorem freeFrom_first {places : List (Option Nat)} {o q : Nat} (hq : places[q]? = some none) :
    ∃ m, freeFrom places o = (o + m) % places.length ∧ places[freeFrom places o]? = some none ∧
      ∀ j, j < m → places[(o + j) % places.length]? ≠ some none := by
  have hlt : q < places.length := (List.getElem?_eq_some_iff.mp hq).1
  have hfree : ∀ i, (((places)[(o + i) % places.length]?).join.isNone = true ↔
      places[(o + i) % places.length]? = some none) := fun i => by
    rw [List.getElem?_eq_getElem (Nat.mod_lt _ (by omega))]
    simp
  obtain ⟨i, hi, rfl⟩ := List.mem_map.mp (mem_lap.mpr hlt : q ∈ lap o places.length)
  dsimp only [freeFrom]
  rw [List.find?_map]
  cases hf : (List.range places.length).find? ((fun q => ((places)[q]?).join.isNone) ∘ fun i => (o + i) % places.length) with
  | none => exact absurd ((hfree i).mpr hq) (List.find?_eq_none.mp hf i hi)
  | some m =>
    rw [List.find?_range_eq_some] at hf
    obtain ⟨hm, -, hbefore⟩ := hf
    exact ⟨m, rfl, (hfree m).mp hm, fun j hj hn => by simpa [(hfree j).mpr hn] using hbefore j hj⟩

/-- Writing an item in a free place adds it to those that stand. -/
theorem filterMap_set_perm {places : List (Option Nat)} {p x : Nat} (h : places[p]? = some none) :
    ((places.set p (some x)).filterMap id).Perm (x :: places.filterMap id) := by
  induction places generalizing p with
  | nil => cases h
  | cons y l ih =>
    cases p with
    | zero =>
      obtain rfl : y = none := by simpa using h
      simp
    | succ p =>
      have hl := ih (by simpa using h)
      cases y with
      | none => simpa using hl
      | some z => simpa using (hl.cons z).trans (List.Perm.swap x z _)

/-- Fewer items than places leave a place free. -/
theorem exists_free {places : List (Option Nat)} (h : (places.filterMap id).length < places.length) :
    ∃ q : Nat, places[q]? = some none := by
  by_contra hne
  refine absurd (List.filterMap_length_eq_length.mpr fun y hy => ?_) (Nat.ne_of_lt h)
  obtain ⟨q, hq⟩ := List.mem_iff_getElem?.mp hy
  cases y with
  | none => exact absurd ⟨q, hq⟩ hne
  | some z => rfl

/-- The items of `l` up to item `c` stand, item `i` at place `pos i`, as R99 places them with step `st`. -/
structure Laid (l : List Nat) (st c : Nat) (pos : Nat → Nat) (places : List (Option Nat)) : Prop where
  inside : c < l.length
  length : places.length = l.length
  first : pos 0 = 0
  filled : ∀ i, i ≤ c → places[pos i]? = some l[i]?
  taken : ∀ q, q < l.length → places[q]? ≠ some none → ∃ e, e ≤ c ∧ pos e = q
  inj : ∀ i j, i ≤ c → j ≤ c → pos i = pos j → i = j
  stands : (places.filterMap id).Perm (l.take (c + 1))
  steps : ∀ i, i < c → ∃ m, pos (i + 1) = (pos i + st + m) % l.length ∧
    ∀ j, j < m → ∃ e, e ≤ i ∧ pos e = (pos i + st + j) % l.length

/-- The first item stands at place 0. -/
theorem laid_first (x st : Nat) (rest : List Nat) : Laid (x :: rest) st 0 (fun _ => 0)
    ((List.replicate (rest.length + 1) none).set 0 (some x)) where
  inside := by simp
  length := by simp
  first := rfl
  filled := fun i hi => by simp [Nat.le_zero.mp hi]
  taken := fun q hq hne => by
    refine ⟨0, le_refl 0, ?_⟩
    by_contra h0
    refine hne ?_
    rw [List.getElem?_set_ne h0, List.getElem?_replicate, if_pos (by simpa using hq)]
  inj := fun i j hi hj _ => by omega
  stands := by simp [List.replicate_succ]
  steps := fun i hi => by omega

/-- The next item, put at the first free place from the last one's on by the step. -/
theorem Laid.next {l : List Nat} {st c x : Nat} {pos : Nat → Nat} {places : List (Option Nat)} {p : Nat}
    (a : Laid l st c pos places) (hx : l[c + 1]? = some x)
    (hp : p = freeFrom places ((pos c + st) % places.length)) :
    Laid l st (c + 1) (Function.update pos (c + 1) p) (places.set p (some x)) := by
  have hc : c + 1 < l.length := (List.getElem?_eq_some_iff.mp hx).1
  have hcount : (places.filterMap id).length < places.length := by
    rw [a.stands.length_eq, a.length, List.length_take]
    omega
  obtain ⟨q, hq⟩ := exists_free hcount
  obtain ⟨m, hm, hfree, hbefore⟩ := freeFrom_first (o := (pos c + st) % places.length) hq
  rw [← hp] at hm hfree
  have hlt : p < places.length := (List.getElem?_eq_some_iff.mp hfree).1
  have hold : ∀ i, i ≤ c → Function.update pos (c + 1) p i = pos i := fun i hi =>
    Function.update_of_ne (by omega) _ _
  have hnew : Function.update pos (c + 1) p (c + 1) = p := Function.update_self _ _ _
  have hne : ∀ i, i ≤ c → pos i ≠ p := fun i hi he => by
    have hfill := a.filled i hi
    rw [he, hfree, List.getElem?_eq_getElem (by omega)] at hfill
    cases hfill
  constructor
  case inside => exact hc
  case length => rw [List.length_set, a.length]
  case first => rw [hold 0 (by omega), a.first]
  case filled =>
    intro i hi
    rcases Nat.le_succ_iff.mp hi with hi | rfl
    · rw [hold i hi, List.getElem?_set_ne (hne i hi).symm, a.filled i hi]
    · rw [hnew, List.getElem?_set_self hlt, hx]
  case taken =>
    intro q hq hq'
    by_cases hqp : p = q
    · exact ⟨c + 1, le_refl _, hnew.trans hqp⟩
    · rw [List.getElem?_set_ne hqp] at hq'
      obtain ⟨e, he, hpos⟩ := a.taken q hq hq'
      exact ⟨e, by omega, (hold e he).trans hpos⟩
  case inj =>
    intro i j hi hj he
    rcases Nat.le_succ_iff.mp hi with hi | rfl <;> rcases Nat.le_succ_iff.mp hj with hj | rfl
    · rw [hold i hi, hold j hj] at he
      exact a.inj i j hi hj he
    · rw [hold i hi, hnew] at he
      exact absurd he (hne i hi)
    · rw [hold j hj, hnew] at he
      exact absurd he.symm (hne j hj)
    · rfl
  case stands =>
    have hsnoc : l.take (c + 1 + 1) = l.take (c + 1) ++ [x] := by
      rw [List.take_add_one, hx]
      rfl
    rw [hsnoc]
    exact ((filterMap_set_perm hfree).trans (a.stands.cons x)).trans (List.perm_append_singleton x _).symm
  case steps =>
    intro i hi
    rcases Nat.lt_succ_iff_lt_or_eq.mp hi with hi | rfl
    · obtain ⟨m, hm, hbefore⟩ := a.steps i hi
      refine ⟨m, by rw [hold (i + 1) hi, hold i (by omega), hm], fun j hj => ?_⟩
      obtain ⟨e, he, hpos⟩ := hbefore j hj
      exact ⟨e, he, by rw [hold e (by omega), hold i (by omega), hpos]⟩
    · rw [a.length] at hm hbefore
      refine ⟨m, by rw [hnew, hold i (le_refl i), hm, Nat.mod_add_mod], fun j hj => ?_⟩
      obtain ⟨e, he, hpos⟩ := a.taken _ (Nat.mod_lt _ (by omega)) (hbefore j hj)
      exact ⟨e, he, by rw [hold e he, hold i (le_refl i), hpos, Nat.mod_add_mod]⟩

/-- The items that are left follow one after the other, until all stand. -/
theorem placeRest_laid {l : List Nat} {st : Nat} (rest : List Nat) : ∀ {c : Nat} {pos : Nat → Nat}
    {places : List (Option Nat)}, rest = l.drop (c + 1) → Laid l st c pos places →
    ∃ d pos', d + 1 = l.length ∧ Laid l st d pos' (placeRest st rest (pos c) places) := by
  induction rest with
  | nil =>
    intro c pos places hrest a
    have := List.drop_eq_nil_iff.mp hrest.symm
    have := a.inside
    exact ⟨c, pos, by omega, a⟩
  | cons x rest ih =>
    intro c pos places hrest a
    have hx : l[c + 1]? = some x := by
      rw [← List.head?_drop, ← hrest]
      rfl
    have hdrop : rest = l.drop (c + 1 + 1) := by
      rw [← List.tail_drop, ← hrest]
      rfl
    have hnext := a.next hx rfl
    have hlast : Function.update pos (c + 1) (freeFrom places ((pos c + st) % places.length)) (c + 1) = _ :=
      Function.update_self _ _ _
    obtain ⟨d, pos', hd, hlaid⟩ := ih hdrop hnext
    rw [hlast] at hlaid
    exact ⟨d, pos', hd, hlaid⟩

theorem buildSlots_laid {items : List (Nat × Nat)} (k : Nat) (h : 0 < (expandItems items).length) :
    ∃ d pos places, d + 1 = (expandItems items).length ∧ buildSlots items k = places.filterMap id ∧
      Laid (expandItems items) (reelStep (expandItems items).length k) d pos places := by
  unfold buildSlots
  cases hl : expandItems items with
  | nil => simp [hl] at h
  | cons x rest =>
    obtain ⟨d, pos, hd, hlaid⟩ := placeRest_laid rest rfl (laid_first x (reelStep (rest.length + 1) k) rest)
    exact ⟨d, pos, _, hd, rfl, hlaid⟩

/-- The slots of a build are the items, in another order. -/
theorem buildSlots_perm (items : List (Nat × Nat)) (k : Nat) : (buildSlots items k).Perm (expandItems items) := by
  rcases Nat.eq_zero_or_pos (expandItems items).length with h | h
  · rw [List.length_eq_zero_iff] at h
    rw [buildSlots, h]
  · obtain ⟨d, pos, places, hd, hslots, a⟩ := buildSlots_laid k h
    have hstands := a.stands
    rwa [hd, List.take_length, ← hslots] at hstands

/-- With every item placed no place is left free, so a slot's key is the item at its place. -/
theorem Laid.slot {l : List Nat} {st d : Nat} {pos : Nat → Nat} {places : List (Option Nat)}
    (a : Laid l st d pos places) (hd : d + 1 = l.length) {i : Nat} (hi : i ≤ d) :
    (places.filterMap id)[pos i]? = l[i]? := by
  have hlen : (places.filterMap id).length = places.length := by
    rw [a.stands.length_eq, a.length, List.length_take]
    omega
  have hmap : (places.filterMap id).map some = places := by
    have hsome := List.filterMap_length_eq_length.mp hlen
    clear hlen a
    induction places with
    | nil => rfl
    | cons y l ih =>
      obtain ⟨z, rfl⟩ := Option.isSome_iff_exists.mp (hsome y (by simp))
      have := ih fun y hy => hsome y (by simp [hy])
      simpa using this
  have hfill := a.filled i hi
  rw [← hmap, List.getElem?_map, Option.map_eq_some_iff] at hfill
  obtain ⟨z, hz, hl⟩ := hfill
  rw [hz, hl]

/-- R99 in one statement: where each item of a build stands. -/
theorem buildSlots_placed {items : List (Nat × Nat)} {k n : Nat} (hn : n = (expandItems items).length) (h : 0 < n) :
    (buildSlots items k).length = n ∧ ∃ pos : Nat → Nat, pos 0 = 0 ∧
      (∀ i, i < n → pos i < n ∧ (buildSlots items k)[pos i]? = (expandItems items)[i]?) ∧
      (∀ i j, i < n → j < n → pos i = pos j → i = j) ∧
      ∀ i, i + 1 < n → ∃ m, pos (i + 1) = (pos i + reelStep n k + m) % n ∧
        ∀ j, j < m → ∃ e, e ≤ i ∧ pos e = (pos i + reelStep n k + j) % n := by
  subst hn
  obtain ⟨d, pos, places, hd, hslots, a⟩ := buildSlots_laid k h
  refine ⟨(buildSlots_perm items k).length_eq, pos, a.first, fun i hi => ⟨?_, ?_⟩,
    fun i j hi hj => a.inj i j (by omega) (by omega), fun i hi => a.steps i (by omega)⟩
  · rw [← a.length]
    exact (List.getElem?_eq_some_iff.mp (a.filled i (by omega))).1
  · rw [hslots, a.slot hd (by omega)]

theorem reelStep_one {n : Nat} (h : 0 < n) : reelStep n 1 = 1 := by
  rw [reelStep_eq]
  by_cases h1 : n = 1
  · simp [h1]
  · rw [if_neg (by omega), if_neg (by omega)]

/-- At step 1 every item stands at its own place. -/
theorem buildSlots_one (items : List (Nat × Nat)) : buildSlots items 1 = expandItems items := by
  rcases Nat.eq_zero_or_pos (expandItems items).length with h | h
  · rw [List.length_eq_zero_iff] at h
    rw [buildSlots, h]
  · obtain ⟨hlen, pos, hzero, hslot, -, hsteps⟩ := buildSlots_placed (k := 1) rfl h
    rw [reelStep_one h] at hsteps
    have hpos : ∀ i, i < (expandItems items).length → pos i = i := fun i => by
      induction i using Nat.strong_induction_on with
      | h i ih =>
        intro hi
        cases i with
        | zero => exact hzero
        | succ i =>
          obtain ⟨m, hm, hbefore⟩ := hsteps i hi
          rw [ih i (by omega) (by omega)] at hm hbefore
          cases m with
          | zero => rw [hm, Nat.add_zero, Nat.mod_eq_of_lt hi]
          | succ m =>
            obtain ⟨e, he, hpos⟩ := hbefore 0 (by omega)
            rw [ih e (by omega) (by omega), Nat.add_zero, Nat.mod_eq_of_lt hi] at hpos
            omega
    refine List.ext_getElem? fun i => ?_
    by_cases hi : i < (expandItems items).length
    · have hat := (hslot i hi).2
      rwa [hpos i hi] at hat
    · rw [List.getElem?_eq_none (by omega), List.getElem?_eq_none (by omega)]

/-! ### Building and clearing (R98, R100, R101) -/

/-- The tests of R98. -/
def buildTests (s : State) (r : Nat) (items : List (Nat × Nat)) : List (Bool × Result) :=
  [(s.store.state != .idle, .storeBusy),
   (decide (3 < r) || items.any (fun x => decide (x.2 < 1) || decide (4 < x.2) || (s.findSpot x.1).isNone),
      .badArgument),
   (decide ((items.map (·.2)).sum = 0), .reelEmpty), (decide (24 < (items.map (·.2)).sum), .reelTooLong)]

theorem buildRefusal_eq (s : State) (r : Nat) (items : List (Nat × Nat)) :
    buildRefusal s r items = firstRefusal (buildTests s r items) := by
  have hb : (s.store.state != .idle) = storeBusy s := rfl
  have hn : (items.map (·.2)).sum = weightSum items := rfl
  simp only [buildRefusal, buildTests, firstRefusal, hn, hb, Bool.or_eq_true, decide_eq_true_eq]

/-- The reel built, cued or held, on the state its slots are written in. -/
def reelBuilt (r : Nat) (slots : List Nat) (s : State) : State :=
  cueOrHold r (s.withReelAt r ((s.reelAt r).replaced slots))

theorem buildReel_tested (r : Nat) (items : List (Nat × Nat)) (step : Nat) (s : State) :
    buildReel r items step s = tested (buildTests s r items) s
      (reelBuilt r (buildSlots items step) s, okWith (wList w2 (buildSlots items step))) := by
  rw [buildReel, buildRefusal_eq, tested]
  cases firstRefusal (buildTests s r items) <;> rfl

theorem reelBuilt_changed {r : Nat} {s : State} (hs : Sized s) (hr : r < 4) (slots : List Nat) :
    ReelChanged r (cuedOrHeld s ((s.reelAt r).replaced slots)) (s.journal.filed (.reel r) .update) s
      (reelBuilt r slots s) := by
  have hwrite := reelChanged_write hs hr ((s.reelAt r).replaced slots)
  have hcue := cueOrHold_changed (hs.of_extents (withReelAt_extents s r ((s.reelAt r).replaced slots))) hr
  rw [hwrite.own] at hcue
  exact hwrite.trans hcue

theorem reelIsBuilt (h : Hdr) (r : Nat) (s : State) (hs : Sized s) (items : List (Nat × Nat)) (k : Nat) :
    TakenOrRefused (.buildReel h r items k) h 66 s (buildTests s r items)
      (∃ t slots, Takes (.buildReel h r items k) s h 66 (okWith (wList w2 slots)) t ∧ slots = buildSlots items k ∧
        slots.Perm (items.flatMap (fun x => List.replicate x.2 x.1)) ∧
        (k = 1 → slots = items.flatMap (fun x => List.replicate x.2 x.1)) ∧
        (s.house.alert = .normal → t.reelAt r = cued s true
          { s.reelAt r with slots := slots, cursor := 0, item := .none, countdown := 0, state := .stopped }) ∧
        (s.house.alert ≠ .normal → t.reelAt r =
          { s.reelAt r with slots := slots, cursor := 0, item := .none, countdown := 0, state := .held }) ∧
        (∀ q, q ≠ r → t.reelAt q = s.reelAt q) ∧ t.reel.spots = s.reel.spots ∧
        t.journal = s.journal.filed (.reel r) .update ∧
        t = { s with reel := t.reel, journal := t.journal, link := t.link, ports := t.ports } ∧
        FilesOnly h.port s t) := by
  refine takenOrRefused_of (buildReel r items k) (reelBuilt r (buildSlots items k)) _ rfl rfl
    (fun q => buildReel_tested r items k (s.withPorts q)) fun s1 t hn a hx f => ?_
  have hr : r < 4 := by
    have htest : ∀ x ∈ buildTests s r items, x.1 = false := firstRefusal_eq_none.mp hn
    have := htest _ (List.mem_cons_of_mem _ List.mem_cons_self)
    simp only [Bool.or_eq_false_iff, decide_eq_false_iff_not] at this
    omega
  have hown : cuedOrHeld s1 ((s1.reelAt r).replaced (buildSlots items k)) =
      cuedOrHeld s ((s.reelAt r).replaced (buildSlots items k)) := by
    rw [a.eq_withPorts]
    rfl
  obtain ⟨hreel, hrest⟩ := (reelBuilt_changed (hs.of_seated a) hr _).answered a f
  rw [hown] at hreel
  rw [a.journal] at hrest
  exact ⟨t, _, ⟨hx, f.answered⟩, rfl, buildSlots_perm items k, fun hk => hk ▸ buildSlots_one items,
    fun hn => hreel.trans (cuedOrHeld_normal hn _), fun hn => hreel.trans (cuedOrHeld_held hn _), hrest⟩

/-- The reel emptied, and filed unless it was empty and STOPPED (R101). -/
def reelEmptied (r : Nat) (s : State) : State :=
  if (s.reelAt r).state = .stopped ∧ (s.reelAt r).slots = [] then s.withReelAt r ((s.reelAt r).replaced [])
  else fileReel r (s.withReelAt r ((s.reelAt r).replaced []))

theorem reelEmptied_changed {r : Nat} {s : State} (hs : Sized s) (hr : r < 4) :
    ReelChanged r ((s.reelAt r).replaced []) (if (s.reelAt r).state = .stopped ∧ (s.reelAt r).slots = [] then s.journal
      else s.journal.filed (.reel r) .update) s (reelEmptied r s) := by
  unfold reelEmptied
  split
  · exact reelChanged_write hs hr _
  · exact reelChanged_filed hs hr _

theorem reelIsCleared (h : Hdr) (r : Nat) (s : State) (hs : Sized s) :
    TakenOrRefused (.clearReel h r) h 67 s
      [(s.store.state != .idle, .storeBusy), (decide (3 < r), .badArgument)]
      (∃ t, Takes (.clearReel h r) s h 67 (okWith []) t ∧
        t.reelAt r = { s.reelAt r with slots := [], cursor := 0, item := .none, countdown := 0, state := .stopped } ∧
        (∀ q, q ≠ r → t.reelAt q = s.reelAt q) ∧ t.reel.spots = s.reel.spots ∧
        t.journal = (if (s.reelAt r).state = .stopped ∧ (s.reelAt r).slots = [] then s.journal
          else s.journal.filed (.reel r) .update) ∧
        t = { s with reel := t.reel, journal := t.journal, link := t.link, ports := t.ports } ∧
        FilesOnly h.port s t) := by
  refine takenOrRefused_of (clearReel r) (reelEmptied r) (okWith []) rfl rfl (fun q => ?_) fun s1 t hn a hx f => ?_
  · have hb : storeBusy (s.withPorts q) = (s.store.state != .idle) := rfl
    simp only [clearReel, reelEmptied, tested_cons, tested_nil, decide_eq_true_eq, hb]
  · have hr : r < 4 := lt_four_of_tests (code := .badArgument) hn (by simp)
    have m := (reelEmptied_changed (hs.of_seated a) hr).answered a f
    rw [reelAt_congr a.reel, a.journal] at m
    exact ⟨t, ⟨hx, f.answered⟩, m⟩

/-- Settles O46: the placement of R99, and the two requests by what they write of the reel. -/
theorem reelsAreBuiltAndCleared : Obligations.ReelsAreBuiltAndCleared := by
  refine ⟨fun items k n st l hl hn hpos hst => ?_,
    fun h r s hs => ⟨reelIsBuilt h r s hs, reelIsCleared h r s hs⟩⟩
  subst hl
  rw [hst, ← reelStep_eq]
  exact buildSlots_placed hn hpos

end Sys2Proof.Machine

/-! ## Clear Alert (O51) -/

namespace Sys2Proof.Machine

/-! ### Held reels at the return to NORMAL (R112) -/

/-- A reel after the return to NORMAL (R112). -/
def resumed (s : State) (x : Reel) : Reel :=
  if x.state = .held then
    match x.item with
    | .spot _ _ => { x with state := .playing }
    | .filler _ _ => { x with state := .filler }
    | .none => cued s true x
  else x

theorem resumed_congr {s t : State} (hshows : t.shows = s.shows) (hspots : t.reel.spots = s.reel.spots)
    (hpolicy : t.policy = s.policy) (x : Reel) : resumed t x = resumed s x := by
  rw [resumed, cued_congr (by rw [hshows]) hspots hpolicy, resumed]

theorem resumed_other {s : State} {x : Reel} (h : x.state ≠ .held) : resumed s x = x := if_neg h

theorem resumed_spot {s : State} {x : Reel} (h : x.state = .held) {media duration : Nat}
    (hi : x.item = .spot media duration) : resumed s x = { x with state := .playing } := by
  simp [resumed, h, hi]

theorem resumed_filler {s : State} {x : Reel} (h : x.state = .held) {media duration : Nat}
    (hi : x.item = .filler media duration) : resumed s x = { x with state := .filler } := by
  simp [resumed, h, hi]

theorem resumed_none {s : State} {x : Reel} (h : x.state = .held) (hi : x.item = .none) :
    resumed s x = cued s true x := by
  simp [resumed, h, hi]

theorem resumeReel_changed {r : Nat} {s : State} (hs : Sized s) (hr : r < 4) :
    ∃ j, ReelChanged r (resumed s (s.reelAt r)) j s (resumeReel r s) := by
  unfold resumeReel
  by_cases hheld : (s.reelAt r).state = .held
  · rw [if_pos hheld]
    refine ⟨s.journal.filed (.reel r) .update, ?_⟩
    cases hi : (s.reelAt r).item with
    | spot media duration =>
      rw [resumed_spot hheld hi]
      exact reelChanged_filed hs hr _
    | filler media duration =>
      rw [resumed_filler hheld hi]
      exact reelChanged_filed hs hr _
    | none =>
      rw [resumed_none hheld hi]
      exact cueReel_changed hs hr true
  · rw [if_neg hheld, resumed_other hheld]
    exact ⟨s.journal, reelChanged_refl r s⟩

/-- What the resumption of one reel leaves for that of another: the tables' sizes and what a search reads. -/
structure Resumable (s u : State) : Prop where
  sized : Sized u
  shows : u.shows = s.shows
  spots : u.reel.spots = s.reel.spots
  policy : u.policy = s.policy

/-- Reel `r` stands as `x` in a state the resumptions have come to. -/
def ResumedTo (s : State) (r : Nat) (x : Reel) (u : State) : Prop := Resumable s u ∧ u.reelAt r = x

theorem Resumable.next {s u : State} (a : Resumable s u) {q : Nat} (hq : q < 4) : Resumable s (resumeReel q u) := by
  obtain ⟨j, m⟩ := resumeReel_changed a.sized hq
  exact ⟨a.sized.of_extents (resumeReel_extents q u), by rw [m.blocks, a.shows], m.spots.trans a.spots,
    by rw [m.blocks, a.policy]⟩

theorem ResumedTo.own {s u : State} {r : Nat} (hr : r < 4) (a : ResumedTo s r (s.reelAt r) u) :
    ResumedTo s r (resumed s (s.reelAt r)) (resumeReel r u) := by
  obtain ⟨hu, hreel⟩ := a
  obtain ⟨j, m⟩ := resumeReel_changed hu.sized hr
  exact ⟨hu.next hr, by rw [m.own, hreel, resumed_congr hu.shows hu.spots hu.policy]⟩

theorem ResumedTo.other {s u : State} {q r : Nat} {x : Reel} (hq : q < 4) (hne : q ≠ r) (a : ResumedTo s r x u) :
    ResumedTo s r x (resumeReel q u) := by
  obtain ⟨hu, hreel⟩ := a
  obtain ⟨j, m⟩ := resumeReel_changed hu.sized hq
  exact ⟨hu.next hq, (m.others r hne.symm).trans hreel⟩

/-- Each reel resumes by what it was held at, whatever the reels before it did. -/
theorem resumeReels_reelAt {s : State} (hs : Sized s) {r : Nat} (hr : r < 4) :
    (resumeReels s).reelAt r = resumed s (s.reelAt r) := by
  have hfold : resumeReels s = (List.finRange 4).foldl (fun u q => resumeReel q u) s := rfl
  rw [hfold]
  exact (foldl_once (ResumedTo s r (s.reelAt r)) (ResumedTo s r (resumed s (s.reelAt r))) (⟨r, hr⟩ : Fin 4)
    (fun _ a => a.own hr) (fun _ q hq a => a.other q.isLt fun he => hq (Fin.ext he))
    (fun _ q hq a => a.other q.isLt fun he => hq (Fin.ext he)) (List.nodup_finRange 4) (List.mem_finRange _)
    ⟨⟨hs, rfl, rfl, rfl⟩, rfl⟩).2

/-! ### The return to NORMAL (R130, R142, R146) -/

/-- Every port has ALERT_CHANGE in its table (R197). -/
theorem raiseAll_alertChange (s : State) : AlertChangeRaised (raiseAll .alertChange s) := fun p => by
  cases p
  all_goals
    rw [causeSet_eq_causeBit rfl, raiseAll_causeBit]
    simp [Cause.bit]

/-- Of the notices the return takes the EVACUATE notice alone (R130). -/
theorem alertReturn_notice (s : State) : (alertReturn s).notice = s.notice.drop 31 := by
  simp [alertReturn, fileNotices, dropEvacuate, Config.evacuateSlot, State.withAlert]

theorem alertReturn_reel (s : State) : (alertReturn s).reel = (resumeReels (s.withAlert .normal)).reel := by
  simp [alertReturn, fileNotices, dropEvacuate]

theorem alertReturn_house (s : State) : (alertReturn s).house = { s.house with alert := .normal } := by
  simp [alertReturn, fileNotices, dropEvacuate, State.withAlert]

/-- ALERT is filed last (log 6). -/
theorem alertReturn_newest (s : State) : (alertReturn s).journal.entries.getLast? =
    some ⟨(alertReturn s).journal.cur, .alert, .update⟩ := by
  simp [alertReturn, file_journal]

theorem alertReturn_blocks (s : State) : alertReturn s =
    { s with house := (alertReturn s).house, notice := (alertReturn s).notice, reel := (alertReturn s).reel,
             journal := (alertReturn s).journal, link := (alertReturn s).link, ports := (alertReturn s).ports } := by
  apply state_eq <;> simp

theorem alertReturn_reelAt {s : State} (hs : Sized s) {r : Nat} (hr : r < 4) :
    (alertReturn s).reelAt r = resumed s (s.reelAt r) := by
  rw [reelAt_congr (alertReturn_reel s), resumeReels_reelAt (s := s.withAlert .normal) hs hr]
  exact resumed_congr rfl rfl rfl _

/-! ### The request (R143) -/

theorem clearAlert_notPermitted {p : Port} {f : Frame} (hp : p ≠ .programme) (hk : f.kind = 90#8) :
    portCheck p f = some .notPermitted := by
  cases p with
  | programme => exact absurd rfl hp
  | _ => simp [portCheck, standing, permitted, hk]

theorem clearAlert_tested (s : State) : clearAlert s =
    tested [(s.house.alert == .normal, .noAlert), (s.house.alert == .alert, .alertActive)] s
      (alertReturn s, okWith []) := by
  unfold clearAlert
  cases s.house.alert <;> rfl

theorem alertCleared (h : Hdr) (s : State) (hs : Sized s) : TakenOrRefused (.clearAlert h) h 90 s
    [(s.house.alert == .normal, .noAlert), (s.house.alert == .alert, .alertActive)]
    (∃ t, Takes (.clearAlert h) s h 90 (okWith []) t ∧ s.house.alert = .held ∧ t.house.alert = .normal ∧
      t.house = { s.house with alert := .normal } ∧ AlertChangeRaised t ∧
      t.noticeSlot 31 = ⟨(s.noticeSlot 31).gen, none⟩ ∧ (∀ i, i ≠ 31 → t.noticeSlot i = s.noticeSlot i) ∧
      (∀ r, r < 4 →
        ((s.reelAt r).state ≠ .held → t.reelAt r = s.reelAt r) ∧
        ((s.reelAt r).state = .held →
          (∀ m d, (s.reelAt r).item = .spot m d → t.reelAt r = { s.reelAt r with state := .playing }) ∧
          (∀ m d, (s.reelAt r).item = .filler m d → t.reelAt r = { s.reelAt r with state := .filler }) ∧
          ((s.reelAt r).item = .none → t.reelAt r = cued s true (s.reelAt r)))) ∧
      t.journal.entries.getLast? = some ⟨t.journal.cur, .alert, .update⟩ ∧
      t = { s with house := t.house, notice := t.notice, reel := t.reel, journal := t.journal, link := t.link,
                   ports := t.ports } ∧
      t.link.steady = s.link.steady ∧ BuffersKept h.port s t) := by
  refine takenOrRefused_of clearAlert alertReturn (okWith []) rfl rfl (fun q => clearAlert_tested (s.withPorts q))
    fun s1 t hn a hx f => ?_
  have hheld : s.house.alert = .held := by
    cases halert : s.house.alert with
    | held => rfl
    | _ => simp [halert, firstRefusal] at hn
  have hhouse : t.house = { s.house with alert := .normal } := by rw [f.house, alertReturn_house, a.house]
  have hnotice : t.notice = s.notice.drop 31 := by rw [f.notice, alertReturn_notice, a.notice]
  have hslot : ∀ i, t.noticeSlot i = if i = 31 then (s.noticeSlot i).emptied else s.noticeSlot i := fun i => by
    rw [noticeSlot_eq, hnotice, drop_at, noticeSlot_eq]
  have hreel : ∀ r, r < 4 → t.reelAt r = resumed s (s.reelAt r) := fun r hr => by
    rw [reelAt_congr f.reel, alertReturn_reelAt (hs.of_seated a) hr, reelAt_congr a.reel]
    exact resumed_congr a.shows (by rw [a.reel]) a.policy _
  refine ⟨t, ⟨hx, f.answered⟩, hheld, by rw [hhouse], hhouse, fun p => ?_, by rw [hslot, if_pos rfl]; rfl,
    fun i hi => by rw [hslot, if_neg hi], fun r hr => ?_, by rw [f.journal, alertReturn_newest], ?_, ?_,
    buffersKept_of a f (by simp)⟩
  · rw [f.causeSet_eq]
    exact raiseAll_alertChange _ p
  · rw [hreel r hr]
    exact ⟨resumed_other, fun hst =>
      ⟨fun _ _ hi => resumed_spot hst hi, fun _ _ hi => resumed_filler hst hi, resumed_none hst⟩⟩
  · rw [f.blocks, alertReturn_blocks, a.blocks]
  · rw [f.link, ← a.link]
    simp

/-- Settles O51: the two refusals by the alert state, else the return to NORMAL. -/
theorem clearAlertAnswersByState : Obligations.ClearAlertAnswersByState := fun h s hs =>
  ⟨rfl, fun _ _ => clearAlert_notPermitted, alertCleared h s hs⟩

end Sys2Proof.Machine

/-! ## The chime (O23) -/

namespace Sys2Proof.Machine

/-! ### How a pass begins (R134) -/

theorem begin_cons {c : ChimeUnit} {p : ChimePattern} {n : Note} {rest : List Note}
    (h : c.patternNotes p = n :: rest) :
    c.begin_ p = { c with playing := some ⟨p, n :: rest, 0, n.length * 50⟩ } := by
  rw [ChimeUnit.begin_, h]
  rfl

/-! ### Triggers (R134 to R136) -/

theorem trigger_off (c : ChimeUnit) (p : ChimePattern) : c.trigger false p = c := rfl

theorem trigger_idle {c : ChimeUnit} {p : ChimePattern} (hp : p ≠ .alarm) (h : c.playing = none) :
    c.trigger true p = c.begin_ p := by
  cases p with
  | alarm => exact absurd rfl hp
  | _ => simp [ChimeUnit.trigger, h]

theorem trigger_waits {c : ChimeUnit} {p : ChimePattern} {pl : Playing} (hp : p ≠ .alarm) (h : c.playing = some pl)
    (hpl : pl.pattern ≠ .alarm) : c.trigger true p = { c with pending := some p } := by
  cases p with
  | alarm => exact absurd rfl hp
  | _ => simp [ChimeUnit.trigger, h, hpl]

/-- An ALARM pass in progress goes on, whatever triggers come. -/
theorem trigger_during_alarm {c : ChimeUnit} {pl : Playing} (h : c.playing = some pl) (hpl : pl.pattern = .alarm)
    (p : ChimePattern) : c.trigger true p = c := by
  cases p <;> simp [ChimeUnit.trigger, h, hpl]

theorem trigger_alarm {c : ChimeUnit} (h : ∀ pl, c.playing = some pl → pl.pattern ≠ .alarm) :
    c.trigger true .alarm = { c with pending := none }.begin_ .alarm := by
  cases hp : c.playing with
  | none => simp [ChimeUnit.trigger, hp]
  | some pl => simp [ChimeUnit.trigger, hp, h pl hp]

/-! ### The end of a note (R134) -/

theorem noteEnd_next {c : ChimeUnit} {pl : Playing} {n : Note} (h : c.playing = some pl)
    (hn : (pl.copy)[pl.note + 1]? = some n) (al : AlertState) :
    c.noteEnd al = { c with playing := some { pl with note := pl.note + 1, left := n.length * 50 } } := by
  simp [ChimeUnit.noteEnd, h, hn, Note.ms]

theorem noteEnd_last {c : ChimeUnit} {pl : Playing} (h : c.playing = some pl) (hn : (pl.copy)[pl.note + 1]? = none)
    (al : AlertState) : c.noteEnd al = c.passEnd al pl.pattern := by
  simp [ChimeUnit.noteEnd, h, hn]

theorem passEnd_again (c : ChimeUnit) : c.passEnd .alert .alarm = c.begin_ .alarm := rfl

theorem passEnd_pending {c : ChimeUnit} {al : AlertState} {p q : ChimePattern} (h : ¬ (p = .alarm ∧ al = .alert))
    (hq : c.pending = some q) : c.passEnd al p = { c with pending := none }.begin_ q := by
  rw [ChimeUnit.passEnd, if_neg h, hq]

theorem passEnd_idle {c : ChimeUnit} {al : AlertState} {p : ChimePattern} (h : ¬ (p = .alarm ∧ al = .alert))
    (hq : c.pending = none) : c.passEnd al p = { c with playing := none } := by
  rw [ChimeUnit.passEnd, if_neg h, hq]

theorem tick_last {c : ChimeUnit} {pl : Playing} (h : c.playing = some pl) (hl : pl.left ≤ 1) (al : AlertState) :
    c.tick al = c.noteEnd al := by
  simp [ChimeUnit.tick, h, hl]

theorem exec_chimeNoteEnd {s : State} {pl : Playing} (hphase : s.phase ≠ .inReset) (h : s.chime.playing = some pl)
    (hl : pl.left ≤ 1) : exec .chimeNoteEnd s = .next (chimeTick s) := by
  have hdue : noteDue s = chimeTick s := by rw [noteDue, h]; exact if_pos hl
  show execChimeNoteEnd s = _
  rw [execChimeNoteEnd, whenTicking, if_neg hphase, hdue]

/-- Settles O23: a pass begins by its notes, a trigger acts by the pass in progress, a note's end by the copy. -/
theorem chimeNoteEnds : Obligations.ChimeNoteEnds := by
  refine ⟨fun c n rest => ⟨begin_cons (p := .attention), begin_cons (p := .reminder), begin_cons (p := .alarm)⟩,
    fun c p => ⟨trigger_off c p, fun hp => ⟨trigger_idle hp,
      fun pl h => ⟨trigger_waits hp h, fun hpl => trigger_during_alarm h hpl p⟩⟩, trigger_alarm,
      fun pl h hpl => trigger_during_alarm h hpl .alarm⟩, fun s pl hphase h hl => ?_⟩
  have hchime : (chimeTick s).chime = s.chime.noteEnd s.house.alert := tick_last h hl _
  refine ⟨chimeTick s, exec_chimeNoteEnd hphase h hl, rfl, fun n hn => hchime.trans (noteEnd_next h hn _), fun hn => ?_⟩
  rw [hchime, noteEnd_last h hn]
  refine ⟨fun ⟨hp, ha⟩ => ?_, fun hpass => ⟨fun q hq => passEnd_pending hpass hq, passEnd_idle hpass⟩⟩
  rw [hp, ha]
  exact passEnd_again s.chime

end Sys2Proof.Machine

/-! ## Notices at a minute boundary (O24) -/

namespace Sys2Proof.Machine

/-! ### What is due (R125, R126) -/

theorem lifeDue_iff (n : Notice) : lifeDue n = true ↔ ∃ l, n.life = .once l ∧ l ≤ 1 := by
  unfold lifeDue
  cases n.life <;> simp

theorem intervalDue_iff (n : Notice) : intervalDue n = true ↔ ∃ v l, n.life = .repeats v l ∧ l ≤ 1 := by
  unfold intervalDue
  cases n.life <;> simp

theorem reminderDue_iff (n : Notice) :
    reminderDue n = true ↔ n.prio = .high ∧ ∃ v l, n.life = .repeats v l ∧ l ≤ 1 := by
  rw [reminderDue, Bool.and_eq_true, intervalDue_iff, beq_iff_eq, and_comm]

/-! ### Whether a notice is due -/

theorem slotsWhere_isEmpty (q : NoticeQueue) (f : Notice → Bool) :
    (q.slotsWhere f).isEmpty = !(liveNotices q).any (fun x => f x.2.2) := by
  rw [Bool.eq_iff_iff]
  simp [NoticeQueue.slotsWhere, List.filter_eq_nil_iff]

theorem noticesWhere_isEmpty (q : NoticeQueue) (f : Notice → Bool) :
    (noticesWhere q f).isEmpty = !(liveNotices q).any (fun x => f x.2.2) := by
  rw [← slotsWhere_isEmpty, noticesWhere, NoticeQueue.slotsWhere, List.filter_map, List.isEmpty_map, List.isEmpty_map]
  rfl

theorem any_liveNotices {q : NoticeQueue} {f : Notice → Bool} :
    (liveNotices q).any (fun x => f x.2.2) = true ↔ ∃ i n, (q.at_ i).notice = some n ∧ f n = true := by
  rw [← Bool.not_eq_false, ← Bool.not_eq_true', ← slotsWhere_isEmpty, List.isEmpty_iff, slotsWhere_eq_nil]
  simp

/-! ### The queue without the notices that leave -/

theorem dropWhere_filter (q : NoticeQueue) (f : Notice → Bool) (i : Nat) :
    (q.dropAll (q.slotsWhere f)).at_ i = ⟨(q.at_ i).gen, (q.at_ i).notice.filter (fun n => !f n)⟩ := by
  rw [dropWhere_at]
  obtain ⟨gen, o⟩ := q.at_ i
  cases o with
  | none => rfl
  | some n => cases hf : f n <;> simp [hf, NoticeSlot.emptied, Option.filter_some]

/-- A sales port's count of live notices, as an origin's notice comes or leaves (R122). -/
theorem countOrigin_portLive (q : NoticeQueue) (o : Origin) (f : Nat → Nat)
    (h0 : f 0 = 0 ∨ ∀ tm, o ≠ .sales .programme tm) (p : Port) :
    (q.countOrigin o f).portLive p = if o.isPort p then f (q.portLive p) else q.portLive p := by
  cases o with
  | sales r tm =>
    cases r with
    | programme =>
      have h0 := h0.resolve_right fun h => h tm rfl
      cases p <;> simp [NoticeQueue.countOrigin, NoticeQueue.withPortLive, NoticeQueue.portLive, Origin.isPort, h0]
    | _ => cases p <;> simp [NoticeQueue.countOrigin, NoticeQueue.withPortLive, NoticeQueue.portLive, Origin.isPort]
  | _ => rfl

theorem drop_portLive {q : NoticeQueue} {i gen : Nat} {n : Notice} (h : (q.slots)[i]? = some ⟨gen, some n⟩) (p : Port) :
    (q.drop i).portLive p = if n.origin.isPort p then q.portLive p - 1 else q.portLive p := by
  have hq : ∀ l, ({ q with slots := l } : NoticeQueue).portLive p = q.portLive p := fun l => by cases p <;> rfl
  rw [NoticeQueue.drop, h]
  exact (countOrigin_portLive _ _ _ (.inl rfl) p).trans (by rw [hq])

theorem drop_getElem_other {q : NoticeQueue} {i j : Nat} (h : j ≠ i) : ((q.drop i).slots)[j]? = (q.slots)[j]? := by
  unfold NoticeQueue.drop
  split
  · rw [countOrigin_slots, List.getElem?_set_ne (Ne.symm h)]
  · rfl

/-- Live notices of different slots leave: each port's count falls by its own. -/
theorem dropAll_portLive (p : Port) (l : List (Nat × Nat × Notice)) (q : NoticeQueue) (hn : (l.map (·.1)).Nodup)
    (hl : ∀ x ∈ l, (q.slots)[x.1]? = some ⟨x.2.1, some x.2.2⟩) :
    (q.dropAll (l.map (·.1))).portLive p = q.portLive p - l.countP (fun x => x.2.2.origin.isPort p) := by
  induction l generalizing q with
  | nil => rfl
  | cons x l ih =>
    obtain ⟨hx, hn⟩ := List.nodup_cons.mp hn
    have hrest : ∀ y ∈ l, ((q.drop x.1).slots)[y.1]? = some ⟨y.2.1, some y.2.2⟩ := fun y hy => by
      rw [drop_getElem_other fun he => hx (List.mem_map.mpr ⟨y, hy, he⟩), hl y (.tail _ hy)]
    have hstep : (q.dropAll ((x :: l).map (·.1))) = (q.drop x.1).dropAll (l.map (·.1)) := rfl
    rw [hstep, ih _ hn hrest, drop_portLive (hl x (.head _)), List.countP_cons]
    split <;> omega

theorem liveNotices_slots_nodup (q : NoticeQueue) : ((liveNotices q).map (·.1)).Nodup := by
  refine (liveNotices_nodup q).map_on ?_
  rintro ⟨i, gen, n⟩ hx ⟨j, gen', n'⟩ hy rfl
  have hsame := ((mem_liveNotices q i gen n).mp hx).symm.trans ((mem_liveNotices q i gen' n').mp hy)
  simp only [Option.some.injEq, NoticeSlot.mk.injEq] at hsame
  rw [hsame.1, hsame.2]

theorem dropWhere_portLive (q : NoticeQueue) (f : Notice → Bool) (p : Port) :
    (q.dropAll (q.slotsWhere f)).portLive p =
      q.portLive p - (liveNotices q).countP (fun x => f x.2.2 && x.2.2.origin.isPort p) := by
  have hsub : ((liveNotices q).filter (fun x => f x.2.2)).Sublist (liveNotices q) := List.filter_sublist
  rw [NoticeQueue.slotsWhere, dropAll_portLive p _ q ((hsub.map _).nodup (liveNotices_slots_nodup q))
    (fun x hx => (mem_liveNotices q _ _ _).mp (hsub.subset hx)), List.countP_filter]
  simp only [Bool.and_comm]

/-! ### ONCE notices that end (R125) -/

/-- The due notices gone from the queue and NOTICE_ENDED raised, before the filing. -/
def noticesEnded (s : State) : State :=
  raiseEnded (noticesWhere s.notice lifeDue) (s.withNotice (s.notice.dropAll (s.notice.slotsWhere lifeDue)))

theorem expireNotices_eq (s : State) : expireNotices s =
    if (liveNotices s.notice).any (fun x => lifeDue x.2.2) then fileNotices (noticesEnded s) else s := by
  have he := slotsWhere_isEmpty s.notice lifeDue
  unfold expireNotices noticesEnded
  dsimp only
  rw [he]
  cases (liveNotices s.notice).any (fun x => lifeDue x.2.2) <;> rfl

theorem expireNotices_none {s : State} (h : ∀ i n, (s.noticeSlot i).notice = some n → lifeDue n = false) :
    expireNotices s = s := by
  rw [expireNotices_eq, if_neg]
  rw [any_liveNotices]
  rintro ⟨i, n, hn, hd⟩
  rw [h i n hn] at hd
  cases hd

theorem expireNotices_some {s : State} (h : ∃ i n, (s.noticeSlot i).notice = some n ∧ lifeDue n = true) :
    expireNotices s = fileNotices (noticesEnded s) := by
  rw [expireNotices_eq, if_pos (any_liveNotices.mpr h)]

theorem expireNotices_notice (s : State) :
    (expireNotices s).notice = s.notice.dropAll (s.notice.slotsWhere lifeDue) := by
  simp only [expireNotices]
  split
  · rename_i he
    rw [List.isEmpty_iff.mp he]
    rfl
  · simp

theorem expireNotices_slot (s : State) (i : Nat) : (expireNotices s).noticeSlot i =
    ⟨(s.noticeSlot i).gen, (s.noticeSlot i).notice.filter (fun n => !lifeDue n)⟩ := by
  rw [noticeSlot_eq, expireNotices_notice, dropWhere_filter]
  rfl

theorem expireNotices_raises {s : State} {i : Nat} {n : Notice} {p : Port} {tm : Byte}
    (h : (s.noticeSlot i).notice = some n) (hd : lifeDue n = true) (ho : n.origin = .sales p tm) (hp : p ≠ .programme) :
    causeSet p .noticeEnded (expireNotices s) = true := by
  have hended : causeSet p .noticeEnded (noticesEnded s) = true :=
    raiseEnded_raises _ (mem_noticesWhere.mpr ⟨⟨i, h⟩, hd⟩) ho hp
  rw [expireNotices_some ⟨i, n, h, hd⟩]
  exact (fileNotices_onlyForced _).stay.causeSet (by decide) hended

theorem expireNotices_journal {s : State} (h : ∃ i n, (s.noticeSlot i).notice = some n ∧ lifeDue n = true) :
    (expireNotices s).journal = s.journal.filed .notices .update := by
  rw [expireNotices_some h, fileNotices, file_journal]
  simp [noticesEnded]

theorem exec_noticeExpiry {s : State} (hphase : s.phase ≠ .inReset) (hv : s.shows.clock.valid = true) :
    exec .noticeExpiry s = .next (expireNotices s) := by
  show execNoticeExpiry s = _
  rw [execNoticeExpiry, whenTicking, if_neg hphase, noticesDue, if_pos hv]

/-! ### REPEAT notices that reach their interval (R126) -/

theorem reachIntervals_eq (s : State) : reachIntervals s =
    if (liveNotices s.notice).any (fun x => reminderDue x.2.2)
    then chimeTrigger .reminder (s.withNotice (s.notice.mapNotices Notice.reloaded))
    else s.withNotice (s.notice.mapNotices Notice.reloaded) := by
  simp only [reachIntervals, noticesWhere_isEmpty, Bool.not_not]

theorem reachIntervals_slot (s : State) (i : Nat) :
    (reachIntervals s).noticeSlot i = ⟨(s.noticeSlot i).gen, (s.noticeSlot i).notice.map Notice.reloaded⟩ := by
  have hnotice : (reachIntervals s).notice = s.notice.mapNotices Notice.reloaded := by
    rw [reachIntervals_eq]
    split <;> simp
  rw [noticeSlot_eq, hnotice, mapNotices_at]
  rfl

theorem reachIntervals_chime (s : State) : (reachIntervals s).chime =
    if (liveNotices s.notice).any (fun x => reminderDue x.2.2)
    then s.chime.trigger s.policy.chimeEnable .reminder else s.chime := by
  rw [reachIntervals_eq]
  split <;> rfl

theorem exec_noticeInterval {s : State} (hphase : s.phase ≠ .inReset) (hv : s.shows.clock.valid = true) :
    exec .noticeInterval s = .next (reachIntervals s) := by
  show execNoticeInterval s = _
  rw [execNoticeInterval, whenTicking, if_neg hphase, intervalsDue, if_pos hv]

/-! ### The whole share of a boundary -/

theorem noticeBoundary_notice (s : State) : (noticeBoundary s).notice =
    (s.notice.dropAll (s.notice.slotsWhere fun n => lifeDue n || windowClosed s n)).mapNotices Notice.lowered := by
  have hfiled : (noticeBoundary s).notice = (noticesFiled s).notice := by
    rw [noticeBoundary_eq]
    split <;> simp
  rw [hfiled, (noticesFiled_frame s).1, noticesCounted, raiseEnded_notice]
  rfl

theorem noticeBoundary_filter (s : State) (i : Nat) : (noticeBoundary s).noticeSlot i = ⟨(s.noticeSlot i).gen,
    ((s.noticeSlot i).notice.filter (fun n => !lifeDue n && !windowClosed s n)).map
      (fun n => { n with life := n.life.minuteLater })⟩ := by
  rw [noticeSlot_eq, noticeBoundary_notice, mapNotices_at, dropWhere_filter, funext lowered_eq]
  simp only [Bool.not_or]
  rfl

theorem mapNotices_portLive (q : NoticeQueue) (f : Notice → Notice) (p : Port) :
    (q.mapNotices f).portLive p = q.portLive p := by cases p <;> rfl

theorem noticeBoundary_portLive (s : State) (p : Port) : (noticeBoundary s).notice.portLive p =
    s.notice.portLive p - (liveNotices s.notice).countP
      (fun x => (lifeDue x.2.2 || windowClosed s x.2.2) && x.2.2.origin.isPort p) := by
  rw [noticeBoundary_notice, mapNotices_portLive, dropWhere_portLive]

theorem noticeBoundary_counter (s : State) : (noticeBoundary s).notice.counter = s.notice.counter := by
  rw [noticeBoundary_notice]
  exact dropAll_counter _ _

theorem noticeBoundary_journal (s : State) : (noticeBoundary s).journal =
    if (liveNotices s.notice).any (fun x => lifeDue x.2.2 || windowClosed s x.2.2)
    then s.journal.filed .notices .update else s.journal := by
  have hlast : (noticeBoundary s).journal = (noticesFiled s).journal := by
    rw [noticeBoundary_eq]
    split <;> simp
  have hcounted : (noticesCounted s).journal = s.journal := by simp [noticesCounted]
  rw [hlast, noticesFiled, slotsWhere_isEmpty]
  cases (liveNotices s.notice).any fun x => lifeDue x.2.2 || windowClosed s x.2.2 with
  | false => exact hcounted
  | true => exact (file_journal _ _ _).trans (by rw [hcounted]; rfl)

/-- Settles O24: the queue, the counts, the filing and the chime of each of the two rows, then of the whole boundary. -/
theorem noticesAtABoundary : Obligations.NoticesAtABoundary := by
  refine ⟨fun n => ⟨lifeDue_iff n, reminderDue_iff n, fun s => windowClosed_iff s n⟩, fun s hphase hv =>
    ⟨⟨expireNotices s, exec_noticeExpiry hphase hv, fun i _ => expireNotices_slot s i,
      fun i n p tm => expireNotices_raises, expireNotices_none, expireNotices_journal, ?_⟩,
     reachIntervals s, exec_noticeInterval hphase hv, fun i => ?_, fun h => ?_, fun h => ?_, ?_⟩, ?_⟩
  · apply state_eq <;> simp
  · rw [reachIntervals_slot]
    congr 2
    funext n
    obtain ⟨_, _, _, _, _, life, _, _⟩ := n
    cases life with
    | repeats v l => by_cases hl : l ≤ 1 <;> simp [Notice.reloaded, hl]
    | _ => rfl
  · rw [reachIntervals_chime, if_pos (any_liveNotices.mpr h)]
  · rw [reachIntervals_chime, if_neg]
    rw [any_liveNotices]
    rintro ⟨i, n, hn, hd⟩
    rw [h i n hn] at hd
    cases hd
  · apply state_eq <;> simp
  · rintro s t rfl
    refine ⟨noticeBoundary_filter s, noticeBoundary_portLive s, noticeBoundary_counter s,
      fun i n p tm => noticeBoundary_raises, noticeBoundary_journal s, ?_, ?_⟩
    · rw [noticeBoundary_chime, noticesWhere_isEmpty, Bool.not_not]
    · apply state_eq <;> simp

end Sys2Proof.Machine

/-! ## DESK and INFO postings, and withdrawals (O48) -/

namespace Sys2Proof.Machine

/-! ### Postings that step 1 of R121 refuses -/

theorem classOf_eq_none (cls : Nat) : classOf cls = none ↔ 4 < cls := by
  rcases cls with _ | _ | _ | _ | _ | n <;> simp [classOf]

/-- A posting of no known class, or without a field its class needs. -/
theorem postingOf_missing {cls prio : Nat} {scope : ScopeArg} {text : List Byte} {life : LifeArg}
    {key minutes : Option Nat}
    (h : classOf cls = none ∨ ((classOf cls = some .delay ∨ classOf cls = some .cancel) ∧ key = none) ∨
      (classOf cls = some .delay ∧ minutes = none)) : postingOf cls prio scope text life key minutes = none := by
  unfold postingOf
  split
  · rename_i c _ _ _ hc _ _ _
    rw [if_pos]
    rcases h with h | ⟨h | h, hk⟩ | ⟨h, hm⟩
    · cases hc.symm.trans h
    · obtain rfl := Option.some.inj (hc.symm.trans h)
      exact .inr (.inr (.inl ⟨rfl, hk⟩))
    · obtain rfl := Option.some.inj (hc.symm.trans h)
      exact .inr (.inr (.inl ⟨rfl, hk⟩))
    · obtain rfl := Option.some.inj (hc.symm.trans h)
      exact .inr (.inr (.inr ⟨rfl, hm⟩))
  · rfl

theorem posting_refused (h : Hdr) (cls prio : Nat) (scope : ScopeArg) (text : List Byte) (life : LifeArg)
    (key minutes : Option Nat) (s : State)
    (hx : classOf cls = none ∨ ((classOf cls = some .delay ∨ classOf cls = some .cancel) ∧ key = none) ∨
      (classOf cls = some .delay ∧ minutes = none))
    (hr : Ready (.postNotice h cls prio scope text life key minutes) s = true) :
    Refuses (.postNotice h cls prio scope text life key minutes) s h 10 .badArgument :=
  refuses_of (postNotice h cls prio scope text life key minutes) rfl rfl hr fun s1 _ => by
    simp only [postNotice, postingOf_missing hx, deny]

/-! ### What a posting that links no show takes (R119, R122) -/

section
variable {cls prio : Nat} {scope : ScopeArg} {text : List Byte} {life : LifeArg} {key minutes : Option Nat}
  {c : NoticeClass} {pr : Priority} {sc : Scope} {li : Life}

theorem postingOf_plain (h : fieldsBad prio scope text life = false) (hc : classOf cls = some c) (hl : c.links = false)
    (hp : priorityOf prio = some pr) (hs : scopeOf scope = some sc) (hlife : lifeOf life = some li) :
    postingOf cls prio scope text life key minutes = some ⟨c, pr, sc, text, li, none, minutes.getD 0⟩ := by
  simp only [fieldsBad, Bool.or_eq_false_iff, decide_eq_false_iff_not] at h
  obtain ⟨⟨_, hlen⟩, htext⟩ := h
  have hd : c ≠ .delay := by rintro rfl; cases hl
  simp [postingOf, hc, hp, hs, hlife, hl, hlen, hd, textOk_eq, htext]

theorem postNotice_plain {h : Hdr} {x : Posting} (hx : postingOf cls prio scope text life key minutes = some x)
    (hl : x.cls.links = false) (hk : x.key = none) (s : State) :
    postNotice h cls prio scope text life key minutes s =
      tested [(x.cls == .evacuate, .notPermitted),
          (decide (h.port ≠ .programme) && decide (8 ≤ s.notice.portLive h.port), .noticeLimit),
          ((List.range 31).all (fun i => (s.noticeSlot i).notice.isSome), .noticeFull)] s
        (postPlain h x s, postAnswer s life x) := by
  have hnamed : namedShow s x = none := by rw [namedShow, hk]; rfl
  have hperm : (classPermitted h.port x.cls = false) = ((x.cls == .evacuate) = true) := by
    cases hcls : x.cls <;> cases h.port <;> simp_all [classPermitted, NoticeClass.links]
  have hqueue : queueFor x s.notice = s.notice := by
    cases hcls : x.cls <;> simp_all [queueFor, NoticeClass.links]
  have hposts : postsNotice x none = true := by
    cases hcls : x.cls <;> simp [postsNotice, hcls]
  have hplain : showPosted h x none s = postPlain h x s := by
    cases hcls : x.cls <;> simp [showPosted, hcls]
  have hfull : (List.range 31).all (fun i => (s.noticeSlot i).notice.isSome) = s.notice.freeSlot.isNone :=
    (freeSlot_isNone s.notice).symm
  simp only [postNotice, hx, postRefusal, hnamed, hperm, hl, hqueue, hposts, hfull, tested_cons, tested_nil,
    Bool.false_eq_true, false_and, true_and, if_false, Option.bind_none, Bool.and_eq_true, decide_eq_true_eq]
  by_cases he : (x.cls == .evacuate) = true
  · simp only [if_pos he]
  · by_cases hlim : h.port ≠ .programme ∧ 8 ≤ s.notice.portLive h.port
    · simp [he, hlim, Config.noticeLimit]
    · by_cases hfree : s.notice.freeSlot.isNone = true
      · simp [he, hlim, Config.noticeLimit, hfree]
      · simp only [if_neg he, Config.noticeLimit, if_neg hlim, if_neg hfree]
        exact congrArg (fun u => (u, postAnswer s life x)) hplain

end

theorem advance_of_lt {q : NoticeQueue} (h : q.counter < 65535) : q.advance = { q with counter := q.counter + 1 } := by
  rw [NoticeQueue.advance, if_neg (Nat.not_le.mpr h)]

theorem advance_portLive (q : NoticeQueue) (p : Port) : q.advance.portLive p = q.portLive p := by
  unfold NoticeQueue.advance
  split <;> cases p <;> rfl

/-- No posting has the Programme Port as a sales port's. -/
theorem originOf_ne (h : Hdr) (tm : Byte) : originOf h ≠ .sales .programme tm := by
  rw [originOf]
  cases h.port <;> simp

theorem originOf_isPort (h : Hdr) (p : Port) :
    (originOf h).isPort p = (decide (h.port ≠ .programme) && decide (p = h.port)) := by
  rw [originOf]
  cases h.port <;> cases p <;> rfl

theorem post_portLive {q : NoticeQueue} {slot : Nat} {n : Notice} (hn : ∀ tm, n.origin ≠ .sales .programme tm)
    (p : Port) : (q.post slot n).portLive p = if n.origin.isPort p then q.portLive p + 1 else q.portLive p := by
  have hslots : ∀ l, ({ q.advance with slots := l } : NoticeQueue).portLive p = q.portLive p := fun l => by
    rw [← advance_portLive q p]
    cases p <;> rfl
  rw [NoticeQueue.post, countOrigin_portLive _ _ _ (.inr hn), hslots]

theorem post_counter_of_lt {q : NoticeQueue} {slot : Nat} {n : Notice} (h : q.counter < 65535) :
    (q.post slot n).counter = q.counter + 1 := by
  rw [post_counter, advance_of_lt h]

theorem post_at_other_of_lt {q : NoticeQueue} {slot i : Nat} {n : Notice} (h : q.counter < 65535) (hi : i ≠ slot) :
    (q.post slot n).at_ i = q.at_ i := by
  rw [post_at_other n hi, advance_of_lt h]
  rfl

/-- A posting leaves the other slots their generations, and LIVE or FREE as they were. -/
theorem post_other {q : NoticeQueue} {slot i : Nat} (n : Notice) (hi : i ≠ slot) :
    ((q.post slot n).at_ i).gen = (q.at_ i).gen ∧
      ((q.post slot n).at_ i).notice.isSome = (q.at_ i).notice.isSome := by
  obtain ⟨f, hf⟩ := advance_at q
  rw [post_at_other n hi, hf]
  exact ⟨rfl, Option.isSome_map⟩

theorem postPlain_eq (h : Hdr) (x : Posting) (s : State) : postPlain h x s =
    announcedFiled x (s.withNotice (s.notice.post (s.notice.freeSlot.getD 0) (x.notice h))) := rfl

theorem postAnswer_plain {x : Posting} {s : State} {slot : Nat} (hl : x.cls.links = false) (hk : x.key = none)
    (hslot : s.notice.freeSlot = some slot) (life : LifeArg) : postAnswer s life x =
      okMarked (lifeClamped life) (w1 slot ++ w1 (((s.noticeSlot slot).gen + 1) % 256) ++ w1 x.life.minutes) := by
  obtain ⟨cls, pr, sc, text, li, key, m⟩ := x
  obtain rfl : key = none := hk
  cases cls <;> simp_all [postAnswer, postsNotice, postedId, queueFor, NoticeClass.links]

theorem Sized.notices_length {s : State} (hs : Sized s) : s.notice.slots.length = 32 := by
  obtain ⟨-, -, -, -, -, -, hslots, -⟩ := hs
  exact hslots

/-! ### A DESK or INFO posting (R121) -/

theorem plainPosted (h : Hdr) (cls prio : Nat) (scope : ScopeArg) (text : List Byte) (life : LifeArg)
    (key minutes : Option Nat) (c : NoticeClass) (s : State) (hs : Sized s) (hc : classOf cls = some c)
    (hl : c.links = false) :
    TakenOrRefused (.postNotice h cls prio scope text life key minutes) h 10 s
      [(fieldsBad prio scope text life, .badArgument), (c == .evacuate, .notPermitted),
       (decide (h.port ≠ .programme) && decide (8 ≤ s.notice.portLive h.port), .noticeLimit),
       ((List.range 31).all (fun i => (s.noticeSlot i).notice.isSome), .noticeFull)]
      (∀ pr sc li, priorityOf prio = some pr → scopeOf scope = some sc → lifeOf life = some li → ∃ t slot gen,
        slot < 31 ∧ (s.noticeSlot slot).notice = none ∧ (∀ i, i < slot → (s.noticeSlot i).notice.isSome = true) ∧
        gen = ((s.noticeSlot slot).gen + 1) % 256 ∧
        Takes (.postNotice h cls prio scope text life key minutes) s h 10
          (okMarked (lifeClamped life) (w1 slot ++ w1 gen ++ w1 li.minutes)) t ∧
        t.noticeSlot slot = ⟨gen, some ⟨originOf h, c, pr, sc, text, li, none, t.notice.counter⟩⟩ ∧
        (s.notice.counter < 65535 → t.notice.counter = s.notice.counter + 1 ∧
          ∀ i, i ≠ slot → t.noticeSlot i = s.noticeSlot i) ∧
        (∀ i, i ≠ slot → (t.noticeSlot i).gen = (s.noticeSlot i).gen ∧
          (t.noticeSlot i).notice.isSome = (s.noticeSlot i).notice.isSome) ∧
        (h.port ≠ .programme → t.notice.portLive h.port = s.notice.portLive h.port + 1) ∧
        (∀ p, p ≠ h.port → t.notice.portLive p = s.notice.portLive p) ∧
        t.chime = (if pr = .high then s.chime.trigger s.policy.chimeEnable .attention else s.chime) ∧
        t.journal = s.journal.filed .notices .update ∧
        t = { s with notice := t.notice, chime := t.chime, journal := t.journal, link := t.link, ports := t.ports } ∧
        FilesOnly h.port s t) := by
  cases hb : fieldsBad prio scope text life with
  | true =>
    exact takenOrRefused_denied (postNotice h cls prio scope text life key minutes) rfl rfl fun q => by
      simp only [postNotice, postingOf_bad key hb]
  | false =>
    obtain ⟨⟨pr, hpr⟩, ⟨sc, hsc⟩, ⟨li, hli⟩⟩ := fieldsBad_eq_false hb
    have hx := postingOf_plain (key := key) (minutes := minutes) hb hc hl hpr hsc hli
    generalize hxd : (⟨c, pr, sc, text, li, none, minutes.getD 0⟩ : Posting) = x at hx
    have hcls : x.cls = c := by rw [← hxd]
    have hlinks : x.cls.links = false := by rw [hcls, hl]
    have hkey : x.key = none := by rw [← hxd]
    refine takenOrRefused_of (postNotice h cls prio scope text life key minutes) (postPlain h x) (postAnswer s life x)
      rfl rfl (fun q => ?_) fun s1 t hn a hxt f => ?_
    · rw [postNotice_plain hx hlinks hkey, hcls]
      rfl
    · rintro pr' sc' li' hpr' hsc' hli'
      obtain rfl : pr = pr' := Option.some.inj (hpr.symm.trans hpr')
      obtain rfl : sc = sc' := Option.some.inj (hsc.symm.trans hsc')
      obtain rfl : li = li' := Option.some.inj (hli.symm.trans hli')
      obtain ⟨slot, hslot⟩ : ∃ slot, s.notice.freeSlot = some slot := by
        have hfree : s.notice.freeSlot.isNone = false :=
          (freeSlot_isNone s.notice).trans
            (firstRefusal_eq_none.mp hn _ (.tail _ (.tail _ (.tail _ (.head _)))))
        exact Option.isSome_iff_exists.mp (by simpa using hfree)
      obtain ⟨hlt, hfree, hbelow⟩ := freeSlot_eq_some.mp hslot
      have hlen : slot < s.notice.slots.length := by
        have := hs.notices_length
        omega
      rw [postAnswer_plain hlinks hkey hslot, postPlain_eq, a.notice, hslot, Option.getD_some] at f
      have hblocks := announcedFiled_blocks x (s1.withNotice (s.notice.post slot (x.notice h)))
      obtain ⟨hsteady, hquiet, hforced⟩ := announcedFiled_steady x (s1.withNotice (s.notice.post slot (x.notice h)))
      generalize announcedFiled x (s1.withNotice (s.notice.post slot (x.notice h))) = u at *
      have hnotice : t.notice = s.notice.post slot (x.notice h) := by rw [f.notice, hblocks]; rfl
      have hat : ∀ i, t.noticeSlot i = (s.notice.post slot (x.notice h)).at_ i := fun i => by
        rw [noticeSlot_eq, hnotice]
      have hlive : ∀ p, t.notice.portLive p = if (originOf h).isPort p then s.notice.portLive p + 1
          else s.notice.portLive p := fun p => by
        rw [hnotice]
        exact post_portLive (originOf_ne h) p
      have hlife : x.life = li := by rw [← hxd]
      have hprio : x.prio = pr := by rw [← hxd]
      rw [hlife] at f
      refine ⟨t, slot, _, hlt, hfree, hbelow, rfl, ⟨hxt, f.answered⟩, ?_, fun hcount => ⟨?_, fun i hi => ?_⟩,
        fun i hi => ?_, fun hp => ?_, fun p hp => ?_, ?_, ?_, ?_, ?_, buffersKept_of a f hquiet,
        onlyForced_of a f hforced⟩
      · rw [hat, post_at_same _ hlen, hnotice, ← hxd]
        rfl
      · rw [hnotice, post_counter_of_lt hcount]
      · rw [hat, post_at_other_of_lt hcount hi]
        rfl
      · rw [hat]
        exact post_other _ hi
      · rw [hlive, originOf_isPort]
        simp [hp]
      · rw [hlive, originOf_isPort]
        simp [hp]
      · rw [f.chime, hblocks, hprio, ← a.chime, ← a.policy]
        rfl
      · rw [f.journal, hblocks, ← a.journal]
        rfl
      · rw [f.blocks, hblocks, a.blocks]
        rfl
      · rw [f.link, hsteady, ← a.link]
        rfl

/-! ### Withdraw Notice (R123) -/

/-- The notice of a LIVE slot withdrawn by a port. -/
def noticeWithdrawn (p : Port) (slot : Nat) (s : State) : State :=
  match (s.noticeSlot slot).notice with
  | some n => fileNotices (raiseWithdrawn p n (s.withNotice (s.notice.drop slot)))
  | none => s

theorem noticeWithdrawn_live {p : Port} {slot : Nat} {s : State} {n : Notice}
    (h : (s.noticeSlot slot).notice = some n) :
    noticeWithdrawn p slot s = fileNotices (raiseWithdrawn p n (s.withNotice (s.notice.drop slot))) := by
  rw [noticeWithdrawn, h]

theorem withdrawNotice_tested (p : Port) (slot gen : Nat) (s : State) : withdrawNotice p slot gen s =
    tested [(decide (31 < slot) || (s.noticeSlot slot).notice.isNone || decide ((s.noticeSlot slot).gen ≠ gen),
          .badArgument),
        (decide (slot = 31), .notPermitted),
        (decide (p ≠ .programme) && (s.noticeSlot slot).notice.any (fun n => !n.origin.isPort p), .notOwner)] s
      (noticeWithdrawn p slot s, okWith []) := by
  simp only [withdrawNotice, noticeWithdrawn, tested_cons, tested_nil]
  cases (s.noticeSlot slot).notice with
  | none => simp
  | some n =>
    by_cases hslot : 31 < slot
    · simp [hslot]
    · simp [hslot]

@[simp] theorem raiseWithdrawn_frame (p : Port) (n : Notice) (s : State) :
    (raiseWithdrawn p n s).phase = s.phase ∧
    (raiseWithdrawn p n s).storeInvalid = s.storeInvalid ∧
    (raiseWithdrawn p n s).shows = s.shows ∧
    (raiseWithdrawn p n s).seat = s.seat ∧
    (raiseWithdrawn p n s).board = s.board ∧
    (raiseWithdrawn p n s).reel = s.reel ∧
    (raiseWithdrawn p n s).notice = s.notice ∧
    (raiseWithdrawn p n s).chime = s.chime ∧
    (raiseWithdrawn p n s).house = s.house ∧
    (raiseWithdrawn p n s).journal = s.journal ∧
    (raiseWithdrawn p n s).link = s.link ∧
    (raiseWithdrawn p n s).policy = s.policy ∧
    (raiseWithdrawn p n s).store = s.store ∧
    (raiseWithdrawn p n s).pending = s.pending ∧
    (raiseWithdrawn p n s).ports.quiet = s.ports.quiet := by
  unfold raiseWithdrawn
  split
  all_goals simp

theorem raiseWithdrawn_other {p : Port} (h : p ≠ .programme) (n : Notice) (s : State) : raiseWithdrawn p n s = s := by
  unfold raiseWithdrawn
  split
  · exact absurd rfl h
  · rfl

theorem raiseWithdrawn_raises {n : Notice} {q : Port} {tm : Byte} (ho : n.origin = .sales q tm) (hq : q ≠ .programme)
    (s : State) : causeSet q .noticeEnded (raiseWithdrawn .programme n s) = true := by
  simp only [raiseWithdrawn, ho]
  exact raise_sets _ _ _ (by cases q <;> simp_all [Cause.bit])

theorem noticeWithdrawal (h : Hdr) (slot gen : Nat) (s : State) : TakenOrRefused (.withdrawNotice h slot gen) h 11 s
    [(decide (31 < slot) || (s.noticeSlot slot).notice.isNone || decide ((s.noticeSlot slot).gen ≠ gen), .badArgument),
     (decide (slot = 31), .notPermitted),
     (decide (h.port ≠ .programme) &&
        (s.noticeSlot slot).notice.any (fun n => !n.origin.isPort h.port), .notOwner)]
    (∀ n, (s.noticeSlot slot).notice = some n → ∃ t,
      Takes (.withdrawNotice h slot gen) s h 11 (okWith []) t ∧ t.noticeSlot slot = ⟨gen, none⟩ ∧
      (∀ i, i ≠ slot → t.noticeSlot i = s.noticeSlot i) ∧ t.notice.counter = s.notice.counter ∧
      (∀ q tm, n.origin = .sales q tm → t.notice.portLive q = s.notice.portLive q - 1 ∧
        (h.port = .programme → q ≠ .programme → causeSet q .noticeEnded t = true)) ∧
      (h.port ≠ .programme → OnlyForced s t) ∧ t.journal = s.journal.filed .notices .update ∧
      t = { s with notice := t.notice, journal := t.journal, link := t.link, ports := t.ports } ∧
      t.link.steady = s.link.steady ∧ BuffersKept h.port s t) := by
  refine takenOrRefused_of (withdrawNotice h.port slot gen) (noticeWithdrawn h.port slot) (okWith []) rfl rfl
    (fun q => withdrawNotice_tested _ _ _ _) fun s1 t hn a hx f n hlive => ?_
  have hgen : (s.noticeSlot slot).gen = gen := by
    have hfirst := firstRefusal_eq_none.mp hn _ (.head _)
    simp only [Bool.or_eq_false_iff, decide_eq_false_iff_not, Decidable.not_not] at hfirst
    exact hfirst.2
  rw [noticeWithdrawn_live ((congrArg NoticeSlot.notice (noticeSlot_congr a.notice slot)).trans hlive)] at f
  have hnotice : t.notice = s.notice.drop slot := by
    rw [f.notice, ← a.notice]
    simp
  have hat : ∀ i, t.noticeSlot i = if i = slot then (s.noticeSlot i).emptied else s.noticeSlot i := fun i => by
    rw [noticeSlot_eq, hnotice, drop_at, noticeSlot_eq]
  refine ⟨t, ⟨hx, f.answered⟩, ?_, fun i hi => by rw [hat, if_neg hi], by rw [hnotice, drop_counter],
    fun q tm ho => ⟨?_, fun hp hq => ?_⟩, fun hp => ?_, ?_, ?_, ?_, buffersKept_of a f ?_⟩
  · rw [hat, if_pos rfl, NoticeSlot.emptied, hgen]
  · have hslot : s.notice.at_ slot = ⟨(s.noticeSlot slot).gen, some n⟩ := by rw [← hlive]; rfl
    rw [hnotice, drop_portLive (at_eq_some.mp hslot), ho]
    simp [Origin.isPort]
  · rw [f.causeSet_eq, hp]
    exact (fileNotices_onlyForced _).stay.causeSet (by decide) (raiseWithdrawn_raises ho hq _)
  · rw [raiseWithdrawn_other hp] at f
    exact onlyForced_of a f (OnlyForced.of_ports rfl (fileNotices_onlyForced _))
  · rw [f.journal, fileNotices, file_journal, ← a.journal]
    simp
  · rw [f.blocks, a.blocks]
    apply state_eq <;> simp
  · rw [f.link, ← a.link]
    simp
  · simp

/-- Settles O48: a posting refused by its fields, one that takes the lowest FREE slot, and a notice withdrawn. -/
theorem noticesArePostedAndWithdrawn : Obligations.NoticesArePostedAndWithdrawn := by
  refine ⟨posting_refused, classOf_eq_none, fun h cls prio scope text life key minutes c s hs hc hd hcan => ?_,
    fun h slot gen s _ => noticeWithdrawal h slot gen s⟩
  have hl : c.links = false := by cases c <;> simp_all [NoticeClass.links]
  exact plainPosted h cls prio scope text life key minutes c s hs hc hl

end Sys2Proof.Machine

/-! ## Settings of the house (O50) -/

namespace Sys2Proof.Machine

/-! ### Reels held at the entry of an alert (R111) -/

/-- A reel after the entry of an alert. -/
def Reel.paused (x : Reel) : Reel := if x.runs then { x with state := .held } else x

theorem holdReel_changed {r : Nat} {s : State} (hs : Sized s) (hr : r < 4) :
    ∃ j, ReelChanged r (s.reelAt r).paused j s (holdReel r s) := by
  unfold holdReel Reel.paused
  split
  · exact ⟨_, reelChanged_filed hs hr _⟩
  · exact ⟨_, reelChanged_refl r s⟩

/-- Each running reel is held, whatever the reels before it did. -/
theorem holdReels_reelAt {s : State} (hs : Sized s) {r : Nat} (hr : r < 4) :
    (holdReels s).reelAt r = (s.reelAt r).paused := by
  have hsized : ∀ (u : State) q, Sized u → Sized (holdReel q u) := fun u q hu => hu.of_extents (holdReel_extents q u)
  have hother : ∀ (u : State) (q : Fin 4), q ≠ ⟨r, hr⟩ → Sized u → (holdReel q u).reelAt r = u.reelAt r := by
    intro u q hq hu
    obtain ⟨j, m⟩ := holdReel_changed hu q.isLt
    exact m.others r fun he => hq (Fin.ext he.symm)
  have hfold : holdReels s = (List.finRange 4).foldl (fun u q => holdReel q u) s := rfl
  rw [hfold]
  refine (foldl_once (fun u => Sized u ∧ u.reelAt r = s.reelAt r) (fun u => Sized u ∧ u.reelAt r = (s.reelAt r).paused)
    (⟨r, hr⟩ : Fin 4) (fun u ⟨hu, hreel⟩ => ⟨hsized u r hu, ?_⟩)
    (fun u q hq ⟨hu, hreel⟩ => ⟨hsized u q hu, (hother u q hq hu).trans hreel⟩)
    (fun u q hq ⟨hu, hreel⟩ => ⟨hsized u q hu, (hother u q hq hu).trans hreel⟩) (List.nodup_finRange 4)
    (List.mem_finRange _) ⟨hs, rfl⟩).2
  obtain ⟨j, m⟩ := holdReel_changed hu hr
  rw [m.own, hreel]

/-! ### NORMAL to ALERT (R130, R144) -/

theorem alertEntry_house (s : State) : (alertEntry s).house = { s.house with alert := .alert } := by
  simp [alertEntry, State.withAlert]

theorem alertEntry_chime (s : State) :
    (alertEntry s).chime = s.chime.trigger s.policy.chimeEnable .alarm := by
  simp [alertEntry, chimeTrigger]

theorem alertEntry_notice (s : State) : (alertEntry s).notice = s.notice.post 31 evacuateNotice := by
  simp [alertEntry, postEvacuate, Config.evacuateSlot]

theorem alertEntry_reelAt {s : State} (hs : Sized s) {r : Nat} (hr : r < 4) :
    (alertEntry s).reelAt r = (s.reelAt r).paused := by
  have hreel : (alertEntry s).reel = (holdReels (s.withAlert .alert)).reel := by simp [alertEntry]
  rw [reelAt_congr hreel, holdReels_reelAt (s := s.withAlert .alert) hs hr]
  rfl

/-- ALERT is filed last (log 6). -/
theorem alertEntry_newest (s : State) : (alertEntry s).journal.entries.getLast? =
    some ⟨(alertEntry s).journal.cur, .alert, .update⟩ := by
  simp [alertEntry, file_journal]

theorem alertEntry_evacuate {s : State} (hs : Sized s) : (alertEntry s).noticeSlot 31 =
    ⟨((s.noticeSlot 31).gen + 1) % 256, some { evacuateNotice with seq := (alertEntry s).notice.counter }⟩ := by
  have hlen : 31 < s.notice.slots.length := by
    have := hs.notices_length
    omega
  rw [noticeSlot_eq, alertEntry_notice, post_at_same _ hlen]
  rfl

/-! ### The reading of the alert line changes (R142) -/

theorem becomesActive_normal {s : State} (h : s.house.alert = .normal) : becomesActive s = alertEntry s := by
  rw [becomesActive, h]

theorem becomesActive_alert {s : State} (h : s.house.alert = .alert) : becomesActive s = s := by
  rw [becomesActive, h]

theorem becomesActive_held {s : State} (h : s.house.alert = .held) : becomesActive s = alertReentry s := by
  rw [becomesActive, h]

theorem becomesActive_house (s : State) : (becomesActive s).house = { s.house with alert := .alert } := by
  cases h : s.house.alert with
  | normal => rw [becomesActive_normal h, alertEntry_house]
  | alert => rw [becomesActive_alert h, ← h]
  | held =>
    rw [becomesActive_held h]
    simp [alertReentry, State.withAlert]

theorem becomesActive_chime {s : State} (h : s.house.alert ≠ .alert) :
    (becomesActive s).chime = s.chime.trigger s.policy.chimeEnable .alarm := by
  cases ha : s.house.alert with
  | normal => rw [becomesActive_normal ha, alertEntry_chime]
  | alert => exact absurd ha h
  | held =>
    rw [becomesActive_held ha]
    simp [alertReentry, chimeTrigger]

theorem becomesActive_raises {s : State} (h : s.house.alert ≠ .alert) : AlertChangeRaised (becomesActive s) := by
  cases ha : s.house.alert with
  | normal => rw [becomesActive_normal ha]; exact raiseAll_alertChange _
  | alert => exact absurd ha h
  | held => rw [becomesActive_held ha]; exact raiseAll_alertChange _

theorem becomesActive_again {s : State} (h : s.house.alert ≠ .normal) : (becomesActive s).notice = s.notice ∧
    (becomesActive s).reel = s.reel ∧ (becomesActive s).journal = s.journal := by
  cases ha : s.house.alert with
  | normal => exact absurd ha h
  | alert => rw [becomesActive_alert ha]; exact ⟨rfl, rfl, rfl⟩
  | held =>
    rw [becomesActive_held ha]
    simp

/-- The alert state once the line reads inactive (R142). -/
def AlertState.released (a : AlertState) : AlertState := if a = .alert then .held else a

theorem becomesInactive_other {s : State} (h : s.house.alert ≠ .alert) : becomesInactive s = s := by
  unfold becomesInactive
  split
  · exact absurd ‹_› h
  · rfl

theorem becomesInactive_house (s : State) :
    (becomesInactive s).house = { s.house with alert := s.house.alert.released } := by
  by_cases h : s.house.alert = .alert
  · simp [becomesInactive, h, alertHold, State.withAlert, AlertState.released]
  · rw [becomesInactive_other h, AlertState.released, if_neg h]

theorem becomesInactive_raises {s : State} (h : s.house.alert = .alert) : AlertChangeRaised (becomesInactive s) := by
  rw [becomesInactive, h]
  exact raiseAll_alertChange _

theorem becomesInactive_blocks (s : State) :
    becomesInactive s = { s with house := (becomesInactive s).house, ports := (becomesInactive s).ports } := by
  apply state_eq <;> simp

theorem readingChanged_true (s : State) : readingChanged true s = becomesActive s := rfl

theorem readingChanged_false (s : State) : readingChanged false s = becomesInactive s := rfl

/-- A change of the reading changes the alert state alone of the House Line Unit. -/
theorem readingChanged_house (b : Bool) (s : State) :
    (readingChanged b s).house = { s.house with alert := (readingChanged b s).house.alert } := by
  cases b with
  | false => rw [readingChanged_false, becomesInactive_house]
  | true => rw [readingChanged_true, becomesActive_house]

/-! ### A new polarity (R141) -/

theorem readsActive_iff (p : Polarity) (l : Level) : readsActive p l = true ↔ p.active = l := beq_iff_eq

/-- A level reads the other way under the other polarity. -/
theorem readsActive_ne {p q : Polarity} (h : p ≠ q) (l : Level) : readsActive p l ≠ readsActive q l := by
  cases p <;> cases q <;> cases l <;> simp_all [readsActive, Polarity.active]

/-- The alert line's settings written, the line not yet read anew. -/
def alertRewired (p : Polarity) (d : Nat) (s : State) : State := s.withHouse { s.house with alertEntry := ⟨p, d⟩ }

theorem writeAlertEntry_same {p : Polarity} {s : State} (h : p = s.house.alertEntry.polarity) (d : Nat) :
    writeAlertEntry p d s = alertRewired p d s := by
  rw [writeAlertEntry, if_pos (by rw [h])]
  rfl

theorem writeAlertEntry_turned {p : Polarity} {s : State} (h : p ≠ s.house.alertEntry.polarity) (d : Nat) :
    writeAlertEntry p d s = readingChanged (readsActive p s.house.alertLine.stable) (alertRewired p d s) := by
  rw [writeAlertEntry, if_neg (readsActive_ne h _).symm]
  rfl

theorem writeAlertEntry_active {p : Polarity} {s : State} (h : p ≠ s.house.alertEntry.polarity)
    (ha : p.active = s.house.alertLine.stable) (d : Nat) :
    writeAlertEntry p d s = becomesActive (alertRewired p d s) := by
  rw [writeAlertEntry_turned h, (readsActive_iff _ _).mpr ha, readingChanged_true]

theorem writeAlertEntry_inactive {p : Polarity} {s : State} (h : p ≠ s.house.alertEntry.polarity)
    (ha : p.active ≠ s.house.alertLine.stable) (d : Nat) :
    writeAlertEntry p d s = becomesInactive (alertRewired p d s) := by
  have hread : readsActive p s.house.alertLine.stable = false := by
    rw [← Bool.not_eq_true, readsActive_iff]
    exact ha
  rw [writeAlertEntry_turned h, hread, readingChanged_false]

/-- Writing the settings changes no more of the House Line Unit than them and the alert state. -/
theorem writeAlertEntry_house (p : Polarity) (d : Nat) (s : State) : (writeAlertEntry p d s).house =
    { s.house with alertEntry := ⟨p, d⟩, alert := (writeAlertEntry p d s).house.alert } := by
  by_cases h : p = s.house.alertEntry.polarity
  · rw [writeAlertEntry_same h]
    rfl
  · rw [writeAlertEntry_turned h, readingChanged_house]
    rfl

@[simp] theorem writeAlertEntry_frame (p : Polarity) (d : Nat) (s : State) :
    (writeAlertEntry p d s).shows = s.shows ∧
    (writeAlertEntry p d s).seat = s.seat ∧
    (writeAlertEntry p d s).board = s.board ∧
    (writeAlertEntry p d s).policy = s.policy ∧
    (writeAlertEntry p d s).store = s.store ∧
    (writeAlertEntry p d s).ports.quiet = s.ports.quiet := by
  simp only [writeAlertEntry]
  split
  all_goals simp

/-! ### Named values of the settings -/

theorem patternOf_isNone (n : Nat) : (patternOf n).isNone = decide (2 < n) := by
  rcases n with _ | _ | _ | n <;> simp [patternOf]

theorem edgeOf_isNone (n : Nat) : (edgeOf n).isNone = decide (1 < n) := by
  rcases n with _ | _ | n <;> simp [edgeOf]

theorem polarityOf_isNone (n : Nat) : (polarityOf n).isNone = decide (1 < n) := by
  rcases n with _ | _ | n <;> simp [polarityOf]

/-! ### Set Chime Pattern (R133) -/

theorem withPattern_notes (c : ChimeUnit) (p q : ChimePattern) (l : List Note) :
    (c.withPattern p l).patternNotes q = if q = p then l else c.patternNotes q := by
  cases p <;> cases q <;> rfl

theorem withPattern_pass (c : ChimeUnit) (p : ChimePattern) (l : List Note) :
    (c.withPattern p l).playing = c.playing ∧ (c.withPattern p l).pending = c.pending := by
  cases p <;> exact ⟨rfl, rfl⟩

/-- The notes of the pattern named, written. -/
def patternWritten (pattern : Nat) (notes : List (Nat × Nat)) (s : State) : State :=
  match patternOf pattern with
  | some p => s.withChime (s.chime.withPattern p (notes.map clampNote))
  | none => s

theorem setChimePattern_tested (pattern : Nat) (notes : List (Nat × Nat)) (s : State) :
    setChimePattern pattern notes s = tested [(s.store.state != .idle, .storeBusy),
        (decide (2 < pattern) || decide (notes.length < 1) || decide (4 < notes.length), .badArgument)] s
      (patternWritten pattern notes s,
        okMarked (notes.any (fun x => clampTo 16 255 x.1 != x.1 || clampTo 1 40 x.2 != x.2)) []) := by
  rw [← patternOf_isNone]
  simp only [setChimePattern, storeBusy, patternWritten, tested_cons, tested_nil]
  cases patternOf pattern with
  | none => simp
  | some p => simp [clampNote]

theorem chimePatternSet (h : Hdr) (s : State) (pattern : Nat) (notes : List (Nat × Nat)) :
    TakenOrRefused (.setChimePattern h pattern notes) h 80 s
      [(s.store.state != .idle, .storeBusy),
       (decide (2 < pattern) || decide (notes.length < 1) || decide (4 < notes.length), .badArgument)]
      (∀ pt l, patternOf pattern = some pt →
        l = notes.map (fun x => (⟨clampTo 16 255 x.1, clampTo 1 40 x.2⟩ : Note)) → ∃ t,
        Takes (.setChimePattern h pattern notes) s h 80
          (okMarked (notes.any (fun x => clampTo 16 255 x.1 != x.1 || clampTo 1 40 x.2 != x.2)) []) t ∧
        t.chime.patternNotes pt = l ∧ (∀ q, q ≠ pt → t.chime.patternNotes q = s.chime.patternNotes q) ∧
        t.chime.playing = s.chime.playing ∧ t.chime.pending = s.chime.pending ∧
        t = { s with chime := t.chime, ports := t.ports } ∧ Quietly h.port s t) := by
  refine takenOrRefused_of (setChimePattern pattern notes) (patternWritten pattern notes) _ rfl rfl
    (fun q => setChimePattern_tested pattern notes (s.withPorts q)) fun s1 t _ a hx f pt l hpt hl => ?_
  subst hl
  rw [patternWritten, hpt] at f
  have hchime : t.chime = s.chime.withPattern pt (notes.map clampNote) := by rw [f.chime, ← a.chime]; rfl
  obtain ⟨hplaying, hpending⟩ := withPattern_pass s.chime pt (notes.map clampNote)
  refine ⟨t, ⟨hx, f.answered⟩, ?_, fun q hq => ?_, by rw [hchime, hplaying], by rw [hchime, hpending], ?_,
    quietly_of a f rfl⟩
  · rw [hchime, withPattern_notes, if_pos rfl]
    rfl
  · rw [hchime, withPattern_notes, if_neg hq]
  · rw [f.blocks, a.blocks]
    rfl

/-! ### Set Start Line (R137) -/

theorem Sized.map_length {s : State} (hs : Sized s) : s.house.map.length = 16 := by
  obtain ⟨-, -, -, -, -, -, -, hmap, -⟩ := hs
  exact hmap

/-- An entry of the start-line map written. -/
def lineWritten (line aud edge debounce : Nat) (s : State) : State :=
  match edgeOf edge with
  | some e => s.withHouse { s.house with map := s.house.map.set line ⟨aud, e, clampTo 10 500 debounce⟩ }
  | none => s

theorem setStartLine_tested (line aud edge debounce : Nat) (s : State) : setStartLine line aud edge debounce s =
    tested [(s.store.state != .idle, .storeBusy), (decide (15 < line ∨ 16 < aud ∨ 1 < edge), .badArgument)] s
      (lineWritten line aud edge debounce s, okMarked (clampTo 10 500 debounce != debounce) []) := by
  have hedge : decide (15 < line ∨ 16 < aud ∨ 1 < edge) = (decide (15 < line ∨ 16 < aud) || (edgeOf edge).isNone) := by
    rw [Bool.eq_iff_iff]
    simp [edgeOf_isNone, or_assoc]
  rw [hedge]
  simp only [setStartLine, storeBusy, lineWritten, tested_cons, tested_nil]
  cases edgeOf edge with
  | none => simp
  | some e => simp

theorem startLineSet (h : Hdr) (s : State) (hs : Sized s) (line aud edge debounce : Nat) :
    TakenOrRefused (.setStartLine h line aud edge debounce) h 88 s
      [(s.store.state != .idle, .storeBusy), (decide (15 < line ∨ 16 < aud ∨ 1 < edge), .badArgument)]
      (∀ e, edgeOf edge = some e → ∃ t,
        Takes (.setStartLine h line aud edge debounce) s h 88 (okMarked (clampTo 10 500 debounce != debounce) []) t ∧
        t.lineEntry line = ⟨aud, e, clampTo 10 500 debounce⟩ ∧
        (∀ i, i ≠ line → t.lineEntry i = s.lineEntry i) ∧
        t = { s with house := { s.house with map := t.house.map }, ports := t.ports } ∧ Quietly h.port s t) := by
  refine takenOrRefused_of (setStartLine line aud edge debounce) (lineWritten line aud edge debounce) _ rfl rfl
    (fun q => setStartLine_tested line aud edge debounce (s.withPorts q)) fun s1 t hn a hx f e he => ?_
  rw [lineWritten, he] at f
  have hmap : t.house.map = s.house.map.set line ⟨aud, e, clampTo 10 500 debounce⟩ := by
    rw [f.house, ← a.house]
    rfl
  have hlen : line < s.house.map.length := by
    have htest := firstRefusal_eq_none.mp hn _ (.tail _ (.head _))
    simp only [decide_eq_false_iff_not, not_or, Nat.not_lt] at htest
    have := hs.map_length
    omega
  refine ⟨t, ⟨hx, f.answered⟩, ?_, fun i hi => ?_, ?_, quietly_of a f rfl⟩
  · simp [State.lineEntry, hmap, hlen]
  · simp [State.lineEntry, hmap, List.getElem?_set_ne (Ne.symm hi)]
  · rw [hmap, f.blocks, a.blocks]
    rfl

/-! ### Set Alert Line (R141, R142) -/

/-- The alert line's settings written under the polarity named. -/
def alertWritten (polarity debounce : Nat) (s : State) : State :=
  match polarityOf polarity with
  | some p => writeAlertEntry p (clampTo 10 500 debounce) s
  | none => s

theorem setAlertLine_tested (polarity debounce : Nat) (s : State) : setAlertLine polarity debounce s =
    tested [(s.store.state != .idle, .storeBusy), (decide (1 < polarity), .badArgument)] s
      (alertWritten polarity debounce s, okMarked (clampTo 10 500 debounce != debounce) []) := by
  rw [← polarityOf_isNone]
  simp only [setAlertLine, storeBusy, alertWritten, tested_cons, tested_nil]
  cases polarityOf polarity <;> simp

theorem alertLineSet (h : Hdr) (s : State) (hs : Sized s) (polarity debounce : Nat) :
    TakenOrRefused (.setAlertLine h polarity debounce) h 89 s
      [(s.store.state != .idle, .storeBusy), (decide (1 < polarity), .badArgument)]
      (∀ po, polarityOf polarity = some po → ∃ t,
        Takes (.setAlertLine h polarity debounce) s h 89 (okMarked (clampTo 10 500 debounce != debounce) []) t ∧
        t.house.alertEntry = ⟨po, clampTo 10 500 debounce⟩ ∧ t.house.alertLine = s.house.alertLine ∧
        t.house.map = s.house.map ∧ t.house.lines = s.house.lines ∧
        (po = s.house.alertEntry.polarity → t = { s with house := t.house, ports := t.ports } ∧
          t.house.alert = s.house.alert ∧ Quietly h.port s t) ∧
        (po ≠ s.house.alertEntry.polarity →
          (po.active = s.house.alertLine.stable → t.house.alert = .alert ∧
            (s.house.alert ≠ .alert → AlertChangeRaised t ∧
              t.chime = s.chime.trigger s.policy.chimeEnable .alarm) ∧
            (s.house.alert = .normal →
              (t.noticeSlot 31).notice.map (·.cls) = some .evacuate ∧
              (t.noticeSlot 31).gen = ((s.noticeSlot 31).gen + 1) % 256 ∧
              (∀ r, r < 4 →
                t.reelAt r = if (s.reelAt r).runs then { s.reelAt r with state := .held } else s.reelAt r) ∧
              t.journal.entries.getLast? = some ⟨t.journal.cur, .alert, .update⟩) ∧
            (s.house.alert ≠ .normal → t.notice = s.notice ∧ t.reel = s.reel ∧ t.journal = s.journal)) ∧
          (po.active ≠ s.house.alertLine.stable →
            t.house.alert = (if s.house.alert = .alert then .held else s.house.alert) ∧
            (s.house.alert = .alert → AlertChangeRaised t) ∧
            t = { s with house := t.house, ports := t.ports })) ∧
        t.shows = s.shows ∧ t.seat = s.seat ∧ t.board = s.board ∧ t.policy = s.policy ∧ t.store = s.store ∧
        BuffersKept h.port s t) := by
  refine takenOrRefused_of (setAlertLine polarity debounce) (alertWritten polarity debounce) _ rfl rfl
    (fun q => setAlertLine_tested polarity debounce (s.withPorts q)) fun s1 t _ a hx f po hpo => ?_
  rw [alertWritten, hpo] at f
  dsimp only at f
  have hhouse := f.house.trans (writeAlertEntry_house po (clampTo 10 500 debounce) s1)
  rw [a.house] at hhouse
  refine ⟨t, ⟨hx, f.answered⟩, by rw [hhouse], by rw [hhouse], by rw [hhouse], by rw [hhouse], fun hp => ?_,
    fun hp => ⟨fun hact => ?_, fun hact => ?_⟩, ?_, ?_, ?_, ?_, ?_, buffersKept_of a f (by simp)⟩
  · rw [← a.house] at hp
    rw [writeAlertEntry_same hp] at f
    refine ⟨?_, ?_, quietly_of a f rfl⟩
    · rw [f.blocks, a.blocks]
      rfl
    · rw [f.house, ← a.house]
      rfl
  · rw [← a.house] at hp hact ⊢
    rw [writeAlertEntry_active hp hact] at f
    have hsized : Sized (alertRewired po (clampTo 10 500 debounce) s1) := (hs.of_seated a).of_extents rfl
    refine ⟨by rw [f.house, becomesActive_house], fun hne => ⟨fun p => ?_, ?_⟩, fun hnormal => ?_, fun hne => ?_⟩
    · rw [f.causeSet_eq]
      exact becomesActive_raises (s := alertRewired po _ s1) hne p
    · rw [f.chime, becomesActive_chime (s := alertRewired po _ s1) hne, ← a.chime, ← a.policy]
      rfl
    · rw [becomesActive_normal (s := alertRewired po _ s1) hnormal] at f
      have hslot := alertEntry_evacuate hsized
      rw [← f.noticeSlot] at hslot
      refine ⟨by rw [hslot]; rfl, ?_, fun r hr => ?_, by rw [f.journal, alertEntry_newest]⟩
      · rw [hslot, ← noticeSlot_congr a.notice]
        rfl
      · rw [reelAt_congr f.reel, alertEntry_reelAt hsized hr, ← reelAt_congr a.reel]
        rfl
    · obtain ⟨hnotice, hreel, hjournal⟩ := becomesActive_again (s := alertRewired po (clampTo 10 500 debounce) s1) hne
      exact ⟨(f.notice.trans hnotice).trans a.notice, (f.reel.trans hreel).trans a.reel,
        (f.journal.trans hjournal).trans a.journal⟩
  · rw [← a.house] at hp hact ⊢
    rw [writeAlertEntry_inactive hp hact] at f
    refine ⟨by rw [f.house, becomesInactive_house]; rfl, fun ha p => ?_, ?_⟩
    · rw [f.causeSet_eq]
      exact becomesInactive_raises (s := alertRewired po _ s1) ha p
    · rw [f.blocks, becomesInactive_blocks, a.blocks]
      rfl
  · rw [f.shows, ← a.shows]; simp
  · rw [f.seat, ← a.seat]; simp
  · rw [f.board, ← a.board]; simp
  · rw [f.policy, ← a.policy]; simp
  · rw [f.store, a.blocks]; simp

/-- Settles O50: each setting by its tests, a new polarity by the change of the reading it brings. -/
theorem houseSettings : Obligations.HouseSettings := fun h s hs =>
  ⟨chimePatternSet h s, startLineSet h s hs, alertLineSet h s hs⟩

end Sys2Proof.Machine

/-! ## The 1 ms tick (O14) -/

namespace Sys2Proof.Machine

/-! ### The lines sampled (R138) -/

theorem lineState_congr {s t : State} (h : t.house = s.house) (i : Nat) : t.lineState i = s.lineState i := by
  simp [State.lineState, h]

theorem lineEntry_congr {s t : State} (h : t.house.map = s.house.map) (i : Nat) : t.lineEntry i = s.lineEntry i := by
  simp [State.lineEntry, h]

/-- Line `i` after a sample of `level`. -/
def State.sampledLine (s : State) (i : Nat) (level : Level) : LineState :=
  ((s.lineState i).sample (s.lineEntry i).debounce level).1

theorem sampleLine_house (i : Nat) (level : Level) (s : State) :
    (sampleLine i level s).house = { s.house with lines := s.house.lines.set i (s.sampledLine i level) } := by
  simp only [sampleLine]
  split
  all_goals simp [State.withLineState, State.sampledLine]

theorem sampleLine_own {i : Nat} {s : State} (h : i < s.house.lines.length) (level : Level) :
    (sampleLine i level s).lineState i = s.sampledLine i level := by
  simp [State.lineState, sampleLine_house, h]

theorem sampleLine_other {i j : Nat} (h : j ≠ i) (level : Level) (s : State) :
    (sampleLine j level s).lineState i = s.lineState i := by
  simp [State.lineState, sampleLine_house, List.getElem?_set_ne h]

/-- The samples of the start lines change no more of the House Line Unit than the lines. -/
theorem sampleLines_house (w : Word) (s : State) :
    (sampleLines w s).house = { s.house with lines := (sampleLines w s).house.lines } :=
  foldl_inv (fun u : State => u.house = { s.house with lines := u.house.lines }) _
    (fun u i hu => by rw [sampleLine_house, hu]) _ s rfl

theorem sampleLines_lineState {s : State} (hl : s.house.lines.length = 16) (w : Word) {i : Nat} (hi : i < 16) :
    (sampleLines w s).lineState i = s.sampledLine i (lineLevel w i) := by
  refine foldl_once (f := fun u j => sampleLine j (lineLevel w j) u)
    (fun u => (u.house.lines.length = 16 ∧ u.house.map = s.house.map) ∧ u.lineState i = s.lineState i)
    (fun u => u.lineState i = s.sampledLine i (lineLevel w i)) i (fun u ⟨⟨hlen, hmap⟩, hline⟩ => ?_)
    (fun u j hj ⟨⟨hlen, hmap⟩, hline⟩ => ⟨?_, (sampleLine_other hj _ u).trans hline⟩)
    (fun u j hj hline => (sampleLine_other hj _ u).trans hline) List.nodup_range (List.mem_range.mpr hi)
    ⟨⟨hl, rfl⟩, rfl⟩
  · rw [sampleLine_own (by omega), State.sampledLine, hline, lineEntry_congr hmap, State.sampledLine]
  · rw [sampleLine_house]
    exact ⟨by rw [List.length_set, hlen], hmap⟩

/-! ### The alert line sampled (R141, R142) -/

/-- What a sample makes of the alert line, and whether it qualifies a change. -/
def State.alertSample (s : State) (level : Level) : LineState × Bool :=
  s.house.alertLine.sample s.house.alertEntry.debounce level

theorem sampleAlert_still {s : State} {level : Level} (h : (s.alertSample level).2 = false) :
    sampleAlert level s = s.withAlertLine (s.alertSample level).1 :=
  if_neg (by rw [← State.alertSample, h]; exact Bool.false_ne_true)

theorem sampleAlert_changed {s : State} {level : Level} (h : (s.alertSample level).2 = true) :
    sampleAlert level s =
      readingChanged (readsActive s.house.alertEntry.polarity level) (s.withAlertLine (s.alertSample level).1) :=
  if_pos h

theorem sampleAlert_house (level : Level) (s : State) : (sampleAlert level s).house =
    { s.house with alertLine := (s.alertSample level).1, alert := (sampleAlert level s).house.alert } := by
  cases h : (s.alertSample level).2 with
  | false => rw [sampleAlert_still h]; rfl
  | true => rw [sampleAlert_changed h, readingChanged_house]; rfl

/-- Unless the line becomes active, its sample leaves the chime. -/
theorem sampleAlert_chime {s : State} {level : Level}
    (h : (s.alertSample level).2 = true → readsActive s.house.alertEntry.polarity level = false) :
    (sampleAlert level s).chime = s.chime := by
  cases hr : (s.alertSample level).2 with
  | false => rw [sampleAlert_still hr]; rfl
  | true =>
    rw [sampleAlert_changed hr, h hr, readingChanged_false]
    simp

/-! ### An ALARM pass in progress (R134, R135) -/

/-- An ALARM pass is in progress that goes on as long as the alert state is ALERT. -/
def ChimeUnit.ringsAlarm (c : ChimeUnit) : Prop := c.alarm ≠ [] ∧ ∃ pl, c.playing = some pl ∧ pl.pattern = .alarm

theorem begin_alarmNotes (c : ChimeUnit) (p : ChimePattern) : (c.begin_ p).alarm = c.alarm := by
  unfold ChimeUnit.begin_
  split <;> rfl

theorem passEnd_alarmNotes (c : ChimeUnit) (al : AlertState) (p : ChimePattern) : (c.passEnd al p).alarm = c.alarm := by
  unfold ChimeUnit.passEnd
  split
  · exact begin_alarmNotes c .alarm
  · split
    · exact begin_alarmNotes _ _
    · rfl

theorem tick_idle {c : ChimeUnit} (h : c.playing = none) (al : AlertState) : c.tick al = c := by
  rw [ChimeUnit.tick, h]

theorem tick_counts {c : ChimeUnit} {pl : Playing} (h : c.playing = some pl) (hl : 1 < pl.left) (al : AlertState) :
    c.tick al = { c with playing := some { pl with left := pl.left - 1 } } := by
  rw [ChimeUnit.tick, h]
  exact if_neg (by omega)

/-- A tick leaves the notes of ALARM. -/
theorem tick_alarmNotes (c : ChimeUnit) (al : AlertState) : (c.tick al).alarm = c.alarm := by
  cases hpl : c.playing with
  | none => rw [tick_idle hpl]
  | some pl =>
    by_cases hleft : pl.left ≤ 1
    · rw [tick_last hpl hleft]
      cases hn : (pl.copy)[pl.note + 1]? with
      | some n => rw [noteEnd_next hpl hn]
      | none => rw [noteEnd_last hpl hn, passEnd_alarmNotes]
    · rw [tick_counts hpl (by omega)]

theorem begin_ringsAlarm {c : ChimeUnit} (h : c.alarm ≠ []) : (c.begin_ .alarm).ringsAlarm := by
  obtain ⟨n, rest, hl⟩ := List.exists_cons_of_ne_nil h
  refine ⟨by rwa [begin_alarmNotes], ?_⟩
  rw [begin_cons (p := .alarm) hl]
  exact ⟨_, rfl, rfl⟩

theorem trigger_ringsAlarm {c : ChimeUnit} (h : c.alarm ≠ []) : (c.trigger true .alarm).ringsAlarm := by
  by_cases hplays : ∃ pl, c.playing = some pl ∧ pl.pattern = .alarm
  · obtain ⟨pl, hpl, hp⟩ := hplays
    rw [trigger_during_alarm hpl hp]
    exact ⟨h, pl, hpl, hp⟩
  · rw [trigger_alarm fun pl hpl hp => hplays ⟨pl, hpl, hp⟩]
    exact begin_ringsAlarm (c := { c with pending := none }) h

/-- In ALERT an ALARM pass goes on through a tick: its note, its next note, or the pass again. -/
theorem ChimeUnit.ringsAlarm.tick {c : ChimeUnit} (h : c.ringsAlarm) : (c.tick .alert).ringsAlarm := by
  obtain ⟨hnotes, pl, hpl, hp⟩ := h
  by_cases hleft : pl.left ≤ 1
  · rw [tick_last hpl hleft]
    cases hn : (pl.copy)[pl.note + 1]? with
    | some n =>
      rw [noteEnd_next hpl hn]
      exact ⟨hnotes, _, rfl, hp⟩
    | none =>
      rw [noteEnd_last hpl hn, hp]
      exact begin_ringsAlarm hnotes
  · rw [tick_counts hpl (by omega)]
    exact ⟨hnotes, _, rfl, hp⟩

/-! ### Each receiver's share of a tick of the running part -/

/-- One receiver's share of a 1 ms tick of the running part (R203). -/
def msShare (lines : Word) (level : Level) (r : MsReceiver) (s : State) : State :=
  match r with
  | .house => sampleAlert level (sampleLines lines s)
  | .link => linkTick s
  | .ports => portsTick s
  | .chime => chimeTick s

section
variable (lines : Word) (level : Level)

theorem msShare_phase (r : MsReceiver) (s : State) : (msShare lines level r s).phase = s.phase := by
  cases r <;> simp [msShare, portsTick]

/-- A tick of the running part is its receivers' shares. -/
theorem tick1ms_eq {s : State} (h : s.phase = .running) (order : List MsReceiver) : tick1ms lines level order s =
    (completeOrder order allMs).foldl (fun u r => msShare lines level r u) s := by
  unfold tick1ms
  generalize completeOrder order allMs = l
  induction l generalizing s with
  | nil => rfl
  | cons r l ih =>
    have hone : msTickAt lines level r s = msShare lines level r s := by
      cases r with
      | house => exact if_pos h
      | _ => rfl
    rw [List.foldl_cons, List.foldl_cons, hone]
    exact ih ((msShare_phase lines level r s).trans h)

theorem arrival_clock (aud : Nat) (s : State) : (arrival aud s).shows.clock = s.shows.clock := by
  unfold arrival
  split
  · rfl
  · split
    · exact (moved_evaluate _ _ _).clock.trans (moved_enterState _ _ _ _ s).clock
    · simp

theorem sampleLine_clock (i : Nat) (l : Level) (s : State) : (sampleLine i l s).shows.clock = s.shows.clock := by
  have hline : ∀ u : State, (lineQualified i l u).shows.clock = u.shows.clock := fun u => by
    simp only [lineQualified]
    split
    · exact arrival_clock _ u
    · rfl
  simp only [sampleLine]
  split
  · exact hline _
  · rfl

theorem msShare_frame (r : MsReceiver) (s : State) : (msShare lines level r s).shows.clock = s.shows.clock ∧
    (msShare lines level r s).policy = s.policy ∧ (msShare lines level r s).store = s.store := by
  cases r with
  | house =>
    have hshows : (msShare lines level .house s).shows = (sampleLines lines s).shows := by simp [msShare]
    refine ⟨?_, by simp [msShare], by simp [msShare]⟩
    rw [hshows]
    exact foldl_keep (fun u : State => u.shows.clock) _ (fun u i => sampleLine_clock i _ u) _ s
  | _ => simp [msShare, portsTick]

variable {lines level}

theorem msShare_house {r : MsReceiver} (h : r ≠ .house) (s : State) : (msShare lines level r s).house = s.house := by
  cases r with
  | house => exact absurd rfl h
  | _ => simp [msShare, portsTick]

theorem msShare_quiet {r : MsReceiver} (h : r ≠ .ports) (s : State) :
    (msShare lines level r s).ports.quiet = s.ports.quiet := by
  cases r with
  | ports => exact absurd rfl h
  | _ => simp [msShare]

theorem msShare_steady {r : MsReceiver} (h : r ≠ .link) (s : State) :
    (msShare lines level r s).link.steady = s.link.steady := by
  cases r with
  | link => exact absurd rfl h
  | _ => simp [msShare, portsTick]

theorem msShare_chime {r : MsReceiver} (hh : r ≠ .house) (hc : r ≠ .chime) (s : State) :
    (msShare lines level r s).chime = s.chime := by
  cases r with
  | house => exact absurd rfl hh
  | chime => exact absurd rfl hc
  | _ => simp [msShare, portsTick]

/-- No share but the House Line Unit's changes the notes of ALARM. -/
theorem msShare_alarmNotes {r : MsReceiver} (h : r ≠ .house) (s : State) :
    (msShare lines level r s).chime.alarm = s.chime.alarm := by
  by_cases hc : r = .chime
  · subst hc
    exact tick_alarmNotes s.chime s.house.alert
  · rw [msShare_chime h hc]

/-- In ALERT an ALARM pass goes on through every share but the House Line Unit's. -/
theorem msShare_ringsAlarm {r : MsReceiver} (h : r ≠ .house) {s : State} (ha : s.house.alert = .alert)
    (hs : s.chime.ringsAlarm) : (msShare lines level r s).chime.ringsAlarm := by
  by_cases hc : r = .chime
  · subst hc
    have htick := hs.tick
    rwa [← ha] at htick
  · rwa [msShare_chime h hc]

/-! ### The House Line Unit's share -/

/-- Every line has taken its sample, and the start-line map stands. -/
structure HouseSampled (lines : Word) (level : Level) (s u : State) : Prop where
  startLines : ∀ i, i < 16 → u.lineState i = s.sampledLine i (lineLevel lines i)
  alertLine : u.house.alertLine = (s.alertSample level).1
  map : u.house.map = s.house.map

theorem HouseSampled.congr {s u v : State} (h : HouseSampled lines level s u) (hv : v.house = u.house) :
    HouseSampled lines level s v :=
  ⟨fun i hi => (lineState_congr hv i).trans (h.startLines i hi), by rw [hv, h.alertLine], by rw [hv, h.map]⟩

/-- The alert line's sample is read off the state before the start lines' samples. -/
theorem sampleLines_alert (s : State) : (sampleLines lines s).alertSample level = s.alertSample level ∧
    (sampleLines lines s).house.alertEntry = s.house.alertEntry ∧
    (sampleLines lines s).house.alert = s.house.alert := by
  rw [State.alertSample, sampleLines_house]
  exact ⟨rfl, rfl, rfl⟩

theorem Sized.lines_length {s : State} (hs : Sized s) : s.house.lines.length = 16 := by
  obtain ⟨-, -, -, -, -, -, -, -, hlines, -⟩ := hs
  exact hlines

theorem houseShare_sampled {s u : State} (hs : Sized s) (hu : u.house = s.house) :
    HouseSampled lines level s (msShare lines level .house u) := by
  have hlen : u.house.lines.length = 16 := by rw [hu, hs.lines_length]
  have hhouse := sampleAlert_house level (sampleLines lines u)
  refine ⟨fun i hi => ?_, ?_, ?_⟩
  · have hline : (msShare lines level .house u).lineState i = (sampleLines lines u).lineState i := by
      rw [State.lineState, msShare, hhouse, State.lineState]
    rw [hline, sampleLines_lineState hlen lines hi, State.sampledLine, lineState_congr hu,
      lineEntry_congr (congrArg HouseUnit.map hu), State.sampledLine]
  · rw [msShare, hhouse, (sampleLines_alert u).1, State.alertSample, hu, State.alertSample]
  · rw [msShare, hhouse, sampleLines_house, hu]

/-- The line becomes active: an ALARM pass is in progress when the chime is on (R135). -/
theorem houseShare_alarm {s : State} (hr : (s.alertSample level).2 = true)
    (hactive : readsActive s.house.alertEntry.polarity level = true) (halert : s.house.alert ≠ .alert)
    (hon : s.policy.chimeEnable = true) (hnotes : s.chime.alarm ≠ []) :
    (msShare lines level .house s).house.alert = .alert ∧ (msShare lines level .house s).chime.ringsAlarm := by
  obtain ⟨hsample, hentry, hstate⟩ := sampleLines_alert (lines := lines) (level := level) s
  have hshare : msShare lines level .house s =
      becomesActive ((sampleLines lines s).withAlertLine (s.alertSample level).1) := by
    rw [msShare, sampleAlert_changed (hsample ▸ hr), hentry, hactive, hsample, readingChanged_true]
  have hne : ((sampleLines lines s).withAlertLine (s.alertSample level).1).house.alert ≠ .alert := hstate ▸ halert
  have hchime : (msShare lines level .house s).chime = s.chime.trigger true .alarm := by
    rw [hshare, becomesActive_chime hne]
    simp [hon]
  rw [hchime, hshare, becomesActive_house]
  exact ⟨rfl, trigger_ringsAlarm hnotes⟩

theorem houseShare_chime {s : State}
    (h : (s.alertSample level).2 = true → readsActive s.house.alertEntry.polarity level = false) :
    (msShare lines level .house s).chime = s.chime := by
  obtain ⟨hsample, hentry, -⟩ := sampleLines_alert (lines := lines) (level := level) s
  rw [msShare, sampleAlert_chime (by rwa [hsample, hentry])]
  simp

theorem houseShare_alert {s : State} (h : (s.alertSample level).2 = false) :
    (msShare lines level .house s).house.alert = s.house.alert := by
  obtain ⟨hsample, -, hstate⟩ := sampleLines_alert (lines := lines) (level := level) s
  rw [msShare, sampleAlert_still (hsample ▸ h)]
  exact hstate

end

/-! ### Gaps and response windows (R167, R193) -/

theorem receiver_of_quiet {s t : State} (h : t.ports.quiet = s.ports.quiet) (p : Port) :
    (t.portAt p).receiver = (s.portAt p).receiver := by
  have hat := congrArg (fun q : Ports => (q.at_ p).receiver) h
  cases p <;> exact hat

theorem portsTick_portAt (s : State) (p : Port) : (portsTick s).portAt p = (s.portAt p).gapTick := by
  cases p <;> rfl

theorem gapTick_inFrame {x : PortState} {bytes : List Byte} {gap : Nat} (h : x.receiver = .inFrame bytes gap) :
    x.gapTick.receiver = if 5 ≤ gap + 1 then .hunting else .inFrame bytes (gap + 1) := by
  rw [PortState.gapTick, h]
  dsimp only
  split <;> rfl

theorem gapTick_hunting {x : PortState} (h : x.receiver = .hunting) : x.gapTick = x := by
  rw [PortState.gapTick, h]

/-- The condition is the transaction but for its batch reference. -/
theorem dropBatch_eq_transaction {c : LinkCond} {tr : Transaction} :
    c.dropBatch = (LinkCond.transaction tr).dropBatch ↔ ∃ b, c = .transaction { tr with hasBatch := b } := by
  constructor
  · intro h
    cases c with
    | transaction x =>
      refine ⟨x.hasBatch, ?_⟩
      simp only [LinkCond.dropBatch, LinkCond.transaction.injEq, Transaction.mk.injEq] at h
      obtain ⟨haddr, hkind, -, hwindow, hbegun, hdiscard⟩ := h
      rw [← haddr, ← hkind, ← hwindow, ← hbegun, ← hdiscard]
    | _ => cases h
  · rintro ⟨b, rfl⟩
    rfl

theorem linkTick_lowers {s : State} {tr : Transaction} {w : Nat}
    (h : s.link.cond.dropBatch = (LinkCond.transaction tr).dropBatch) (hw : tr.window = some w) (hlt : 1 < w) :
    (linkTick s).link.cond.dropBatch = (LinkCond.transaction { tr with window := some (w - 1) }).dropBatch := by
  obtain ⟨b, hc⟩ := dropBatch_eq_transaction.mp h
  have hnot : ¬ w ≤ 1 := by omega
  simp only [linkTick, hc, hw, if_neg hnot]
  rfl

/-! ### The chime through a tick -/

/-- A fold along which a fact speaks of the receivers still to come. -/
theorem foldl_remaining {α σ : Type} {f : σ → α → σ} (P : List α → σ → Prop)
    (h : ∀ x l s, x ∉ l → P (x :: l) s → P l (f s x)) {l : List α} (hn : l.Nodup) {s : σ} (hs : P l s) :
    P [] (l.foldl f s) := by
  induction l generalizing s with
  | nil => exact hs
  | cons x l ih =>
    obtain ⟨hx, hn⟩ := List.nodup_cons.mp hn
    exact ih hn (h x l s hx hs)

/-- With the receivers `rest` to come the chime has had its tick or not, and no change of the alert state matters to
it. -/
structure ChimeCounted (s : State) (rest : List MsReceiver) (u : State) : Prop where
  house : .house ∈ rest → u.house = s.house
  chime : u.chime = if .chime ∈ rest then s.chime else s.chime.tick s.house.alert
  alert : u.house.alert = s.house.alert ∨ ∀ a, s.chime.tick a = s.chime.tick s.house.alert

theorem ChimeCounted.share {lines : Word} {level : Level} {s : State}
    (hquiet : (s.alertSample level).2 = true → readsActive s.house.alertEntry.polarity level = false)
    (hstill : (s.alertSample level).2 = false ∨ ∀ a, s.chime.tick a = s.chime.tick s.house.alert)
    (r : MsReceiver) (rest : List MsReceiver) (u : State) (hr : r ∉ rest) (a : ChimeCounted s (r :: rest) u) :
    ChimeCounted s rest (msShare lines level r u) := by
  by_cases hh : r = .house
  · subst hh
    have hhouse := a.house (.head _)
    have hsample : u.alertSample level = s.alertSample level := by rw [State.alertSample, hhouse, State.alertSample]
    refine ⟨fun hm => absurd hm hr, ?_, hstill.imp (fun hf => ?_) id⟩
    · rw [houseShare_chime (by rwa [hsample, hhouse]), a.chime]
      simp
    · rw [houseShare_alert (by rw [hsample, hf]), hhouse]
  · have hhouse := msShare_house (lines := lines) (level := level) hh u
    refine ⟨fun hm => hhouse.trans (a.house (.tail _ hm)), ?_, by rw [hhouse]; exact a.alert⟩
    by_cases hc : r = .chime
    · subst hc
      have hbefore : u.chime = s.chime := a.chime.trans (if_pos (.head _))
      have hafter : (msShare lines level .chime u).chime = s.chime.tick u.house.alert := by rw [← hbefore]; rfl
      rw [hafter, if_neg hr]
      exact a.alert.elim (fun he => by rw [he]) fun hany => hany _
    · rw [msShare_chime hh hc, a.chime]
      simp [Ne.symm hc]

/-- Settles O14: a tick is its receivers' shares, each taken once, and each fact is of one share's doing. -/
theorem millisecondTick : Obligations.MillisecondTick := by
  intro lines level order s hs hphase
  have hl := perm_completeOrder order allMs
  have hn : (completeOrder order allMs).Nodup := hl.nodup_iff.mpr (by decide)
  have hm : ∀ r : MsReceiver, r ∈ completeOrder order allMs := fun r => hl.mem_iff.mpr (by cases r <;> decide)
  have inv : ∀ P : State → Prop, (∀ r u, P u → P (msShare lines level r u)) → P s →
      P ((completeOrder order allMs).foldl (fun u r => msShare lines level r u) s) := fun P h =>
    foldl_inv P _ (fun u r hu => h r u hu) _ s
  have once : ∀ (r : MsReceiver) (A B : State → Prop), (∀ u, A u → B (msShare lines level r u)) →
      (∀ u x, x ≠ r → A u → A (msShare lines level x u)) → (∀ u x, x ≠ r → B u → B (msShare lines level x u)) → A s →
      B ((completeOrder order allMs).foldl (fun u r => msShare lines level r u) s) := fun r A B hr hA hB =>
    foldl_once A B r hr hA hB hn (hm r)
  have hsampled := once .house (fun u => u.house = s.house) (HouseSampled lines level s)
    (fun u hu => houseShare_sampled hs hu) (fun u x hx hu => (msShare_house hx u).trans hu)
    (fun u x hx hu => hu.congr (msShare_house hx u)) rfl
  have hne : s.phase ≠ .inReset := by rw [hphase]; decide
  refine ⟨_, congrArg Host.Outcome.next ((if_neg hne).trans (tick1ms_eq lines level hphase order)),
    hsampled.startLines, hsampled.alertLine, fun p bytes gap hp => ?_, fun p hp => ?_, fun tr w htr hw hlt => ?_,
    ?_, ?_, ?_, ?_, hsampled.map⟩
  · rw [← gapTick_inFrame hp]
    exact once .ports (fun u => (u.portAt p).receiver = (s.portAt p).receiver)
      (fun u => (u.portAt p).receiver = (s.portAt p).gapTick.receiver)
      (fun u hu => by rw [msShare, portsTick_portAt, gapTick_inFrame (hu.trans hp), gapTick_inFrame hp])
      (fun u x hx hu => (receiver_of_quiet (msShare_quiet hx u) p).trans hu)
      (fun u x hx hu => (receiver_of_quiet (msShare_quiet hx u) p).trans hu) rfl
  · refine inv (fun u => (u.portAt p).receiver = .hunting) (fun r u hu => ?_) hp
    by_cases hr : r = .ports
    · subst hr
      rw [msShare, portsTick_portAt, gapTick_hunting hu, hu]
    · exact (receiver_of_quiet (msShare_quiet hr u) p).trans hu
  · have hcond : ∀ (u : State) x, x ≠ .link → (msShare lines level x u).link.cond.dropBatch = u.link.cond.dropBatch :=
      fun u x hx => congrArg PanelLink.cond (msShare_steady hx u)
    have hlow := once .link (fun u => u.link.cond.dropBatch = (LinkCond.transaction tr).dropBatch)
      (fun u => u.link.cond.dropBatch = (LinkCond.transaction { tr with window := some (w - 1) }).dropBatch)
      (fun u hu => linkTick_lowers hu hw hlt) (fun u x hx hu => (hcond u x hx).trans hu)
      (fun u x hx hu => (hcond u x hx).trans hu) (by rw [htr])
    exact dropBatch_eq_transaction.mp hlow
  · rintro r rfl
    refine ⟨fun hquiet => ?_, fun hr hactive halert hon hnotes => ?_⟩
    · have hchime : (s.alertSample level).2 = false ∨ (∀ a, s.chime.tick a = s.chime.tick s.house.alert) →
          ((completeOrder order allMs).foldl (fun u r => msShare lines level r u) s).chime =
            s.chime.tick s.house.alert := fun hstill =>
        (foldl_remaining (f := fun u r => msShare lines level r u) (ChimeCounted s)
          (ChimeCounted.share hquiet hstill) hn ⟨fun _ => rfl, (if_pos (hm .chime)).symm, .inl rfl⟩).chime
      refine ⟨fun hidle => ?_, fun pl hpl => ⟨fun hleft => ?_, fun hleft hstill => ?_⟩⟩
      · rw [hchime (.inr fun a => by rw [tick_idle hidle, tick_idle hidle]), tick_idle hidle]
      · rw [hchime (.inr fun a => by rw [tick_counts hpl hleft, tick_counts hpl hleft]), tick_counts hpl hleft]
      · exact ⟨chimeTick s, exec_chimeNoteEnd hne hpl hleft, hchime (.inl hstill)⟩
    · have hrings := once .house
        (fun u => u.house = s.house ∧ u.policy = s.policy ∧ u.chime.alarm = s.chime.alarm)
        (fun u => u.house.alert = .alert ∧ u.chime.ringsAlarm) (fun u ⟨hh, hp, hc⟩ => ?_)
        (fun u x hx ⟨hh, hp, hc⟩ => ?_) (fun u x hx ⟨ha, hc⟩ => ?_) ⟨rfl, rfl, rfl⟩
      · obtain ⟨-, -, pl, hpl, hp⟩ := hrings
        exact ⟨pl, hpl, hp⟩
      · exact houseShare_alarm (by rw [State.alertSample, hh]; exact hr) (by rwa [hh]) (by rwa [hh]) (by rwa [hp])
          (by rwa [hc])
      · exact ⟨(msShare_house hx u).trans hh, (msShare_frame lines level x u).2.1.trans hp,
          (msShare_alarmNotes hx u).trans hc⟩
      · exact ⟨by rw [msShare_house hx, ha], msShare_ringsAlarm hx ha hc⟩
  · exact inv (fun u => u.shows.clock = s.shows.clock) (fun r u hu => (msShare_frame lines level r u).1.trans hu) rfl
  · exact inv (fun u => u.policy = s.policy) (fun r u hu => (msShare_frame lines level r u).2.1.trans hu) rfl
  · exact inv (fun u => u.store = s.store) (fun r u hu => (msShare_frame lines level r u).2.2.trans hu) rfl

end Sys2Proof.Machine

/-! ## The alert law (O9) -/

namespace Sys2Proof.Machine

/-- The phase and the House Line Unit: all the alert law reads, and what every command leaves but a reset, a start-up,
the samples of the lines and the three requests of the House Line Unit that write. -/
def State.houseView (s : State) : Phase × HouseUnit := (s.phase, s.house)

theorem AlertLaw.of_houseView {s t : State} (hs : AlertLaw s) (h : t.houseView = s.houseView) : AlertLaw t := by
  obtain ⟨hphase, hhouse⟩ := Prod.mk.inj h
  rwa [AlertLaw, hphase, hhouse]

theorem alertLaw_not_running {s : State} {x : Phase} (h : s.phase = x) (hx : x ≠ .running) : AlertLaw s := fun hr =>
  absurd (h.symm.trans hr) hx

/-! ### The samples of the alert line and its settings (R141, R142) -/

/-- Whatever the state was, it is ALERT exactly when the line is now read active. -/
theorem readingChanged_alert_iff (b : Bool) (s : State) : (readingChanged b s).house.alert = .alert ↔ b = true := by
  cases b with
  | true => simp [readingChanged_true, becomesActive_house]
  | false =>
    rw [readingChanged_false, becomesInactive_house]
    by_cases h : s.house.alert = .alert <;> simp [AlertState.released, h]

/-- The law holds of a state whose reading has just changed to what its line reads. -/
theorem alertLaw_readingChanged {b : Bool} {s : State}
    (h : readsActive s.house.alertEntry.polarity s.house.alertLine.stable = b) : AlertLaw (readingChanged b s) := by
  intro _
  have hread : readsActive (readingChanged b s).house.alertEntry.polarity
      (readingChanged b s).house.alertLine.stable = b := by
    rw [readingChanged_house, h]
  rw [readingChanged_alert_iff, hread]

/-- A sample that qualifies no change leaves the stable level; one that does makes the level sampled the stable one. -/
theorem sample_stable (l : LineState) (d : Nat) (level : Level) :
    (l.sample d level).1.stable = if (l.sample d level).2 then level else l.stable := by
  unfold LineState.sample
  split_ifs <;> simp_all

theorem AlertLaw.sampleAlert {s : State} (hs : AlertLaw s) (level : Level) : AlertLaw (sampleAlert level s) := by
  have hstable := sample_stable s.house.alertLine s.house.alertEntry.debounce level
  rw [← State.alertSample] at hstable
  cases h : (s.alertSample level).2 with
  | false =>
    rw [h, if_neg Bool.false_ne_true] at hstable
    rw [sampleAlert_still h]
    intro hr
    show s.house.alert = .alert ↔ readsActive s.house.alertEntry.polarity (s.alertSample level).1.stable = true
    rw [hstable]
    exact hs hr
  | true =>
    rw [h, if_pos rfl] at hstable
    rw [sampleAlert_changed h]
    exact alertLaw_readingChanged (congrArg (readsActive s.house.alertEntry.polarity) hstable)

/-- The start lines are no part of the law. -/
theorem AlertLaw.sampleLines {s : State} (hs : AlertLaw s) (lines : Word) : AlertLaw (sampleLines lines s) := by
  intro hr
  rw [sampleLines_house]
  exact hs (by simpa using hr)

theorem AlertLaw.sampleLine {s : State} (hs : AlertLaw s) (i : Nat) (level : Level) :
    AlertLaw (sampleLine i level s) := by
  intro hr
  rw [sampleLine_house]
  exact hs (by simpa using hr)

theorem AlertLaw.writeAlertEntry {s : State} (hs : AlertLaw s) (p : Polarity) (d : Nat) :
    AlertLaw (writeAlertEntry p d s) := by
  by_cases h : p = s.house.alertEntry.polarity
  · rw [writeAlertEntry_same h]
    intro hr
    show s.house.alert = .alert ↔ readsActive p s.house.alertLine.stable = true
    rw [h]
    exact hs hr
  · rw [writeAlertEntry_turned h]
    exact alertLaw_readingChanged rfl

/-- Clear Alert is taken in ALERT_HELD alone, where the line reads inactive; so it does in NORMAL. -/
theorem AlertLaw.clearAlert {s : State} (hs : AlertLaw s) : AlertLaw (clearAlert s).1 := by
  cases h : s.house.alert with
  | held =>
    have howner : (Machine.clearAlert s).1 = alertReturn s := by rw [Machine.clearAlert, h]
    rw [howner]
    intro hr
    have hlaw := hs (by simpa using hr)
    rw [h] at hlaw
    rw [alertReturn_house]
    refine ⟨fun hnormal => ?_, fun hread => ?_⟩
    · cases hnormal
    · cases hlaw.mpr hread
  | _ =>
    have howner : (Machine.clearAlert s).1 = s := by rw [Machine.clearAlert, h]; rfl
    rw [howner]
    exact hs

theorem AlertLaw.setAlertLine {s : State} (hs : AlertLaw s) (polarity debounce : Nat) :
    AlertLaw (setAlertLine polarity debounce s).1 := by
  unfold Machine.setAlertLine
  split
  · exact hs
  · split
    · exact hs
    · exact hs.writeAlertEntry _ _

theorem AlertLaw.setStartLine {s : State} (hs : AlertLaw s) (line aud edge debounce : Nat) :
    AlertLaw (setStartLine line aud edge debounce s).1 := by
  unfold Machine.setStartLine
  split
  · exact hs
  · split
    · exact hs
    · split
      · exact hs
      · exact hs

/-! ### The level found at start-up (R148) -/

@[simp] theorem raiseInvalid_frame (s : State) :
    (raiseInvalid s).phase = s.phase ∧
    (raiseInvalid s).storeInvalid = s.storeInvalid ∧
    (raiseInvalid s).shows = s.shows ∧
    (raiseInvalid s).seat = s.seat ∧
    (raiseInvalid s).board = s.board ∧
    (raiseInvalid s).reel = s.reel ∧
    (raiseInvalid s).notice = s.notice ∧
    (raiseInvalid s).chime = s.chime ∧
    (raiseInvalid s).house = s.house ∧
    (raiseInvalid s).journal = s.journal ∧
    (raiseInvalid s).link = s.link ∧
    (raiseInvalid s).policy = s.policy ∧
    (raiseInvalid s).store = s.store ∧
    (raiseInvalid s).pending = s.pending ∧
    (raiseInvalid s).ports.quiet = s.ports.quiet := by
  unfold raiseInvalid
  split
  all_goals simp

@[simp] theorem startUpAlert_frame (s : State) :
    (startUpAlert s).phase = s.phase ∧
    (startUpAlert s).storeInvalid = s.storeInvalid ∧
    (startUpAlert s).shows = s.shows ∧
    (startUpAlert s).seat = s.seat ∧
    (startUpAlert s).board = s.board ∧
    (startUpAlert s).journal = s.journal ∧
    (startUpAlert s).link = s.link ∧
    (startUpAlert s).ports = s.ports ∧
    (startUpAlert s).policy = s.policy ∧
    (startUpAlert s).store = s.store ∧
    (startUpAlert s).pending = s.pending := by
  simp [startUpAlert]

/-- The alert state a level gives at start-up (R148). -/
def alertAtStart (p : Polarity) (level : Level) : AlertState := if readsActive p level then .alert else .normal

/-- The reels and, in an alert, the notice and the chime brought to the level found; the part does not run yet. -/
def levelTaken (level : Level) (s : State) : State :=
  if readsActive s.house.alertEntry.polarity level then startUpAlert (s.withAlertLine ⟨level, 0⟩)
  else startUpReels ((s.withAlertLine ⟨level, 0⟩).withAlert .normal)

theorem alertFound_eq (level : Level) (s : State) :
    alertFound level s = (raiseInvalid ((levelTaken level s).withPhase .running)).setBeacon := rfl

theorem levelTaken_active {level : Level} {s : State} (h : readsActive s.house.alertEntry.polarity level = true) :
    levelTaken level s = startUpAlert (s.withAlertLine ⟨level, 0⟩) := if_pos h

theorem levelTaken_inactive {level : Level} {s : State} (h : readsActive s.house.alertEntry.polarity level = false) :
    levelTaken level s = startUpReels ((s.withAlertLine ⟨level, 0⟩).withAlert .normal) :=
  if_neg (by rw [h]; exact Bool.false_ne_true)

theorem levelTaken_house (level : Level) (s : State) : (levelTaken level s).house =
    { s.house with alertLine := ⟨level, 0⟩, alert := alertAtStart s.house.alertEntry.polarity level } := by
  cases h : readsActive s.house.alertEntry.polarity level with
  | true => simp [levelTaken_active h, startUpAlert, State.withAlert, State.withAlertLine, alertAtStart, h]
  | false => simp [levelTaken_inactive h, State.withAlert, State.withAlertLine, alertAtStart, h]

theorem alertFound_house (level : Level) (s : State) : (alertFound level s).house =
    { s.house with alertLine := ⟨level, 0⟩, alert := alertAtStart s.house.alertEntry.polarity level } := by
  rw [alertFound_eq, ← levelTaken_house]
  simp [State.setBeacon]

theorem alertAtStart_iff (p : Polarity) (level : Level) :
    alertAtStart p level = .alert ↔ readsActive p level = true := by
  unfold alertAtStart
  split <;> simp_all

theorem alertLaw_alertFound (level : Level) (s : State) : AlertLaw (alertFound level s) := fun _ => by
  rw [alertFound_house, alertAtStart_iff]

/-- A sample of start-up finds the level, or the part still does not run. -/
theorem alertLaw_startUpAlertSample {s : State} (h : s.phase ≠ .running) (level : Level) :
    AlertLaw (startUpAlertSample level s) := by
  simp only [startUpAlertSample]
  split
  · exact alertLaw_alertFound level s
  · exact alertLaw_not_running rfl h

/-! ### Owners and events that leave the House Line Unit -/

theorem tested_houseView {tests : List (Bool × Result)} {u : State} {done : State × Reply}
    (h : done.1.houseView = u.houseView) : (tested tests u done).1.houseView = u.houseView := by
  unfold tested
  split
  · rfl
  · exact h

theorem holdRequest_houseView {act : HoldInfo → Nat → Owner} (ha : ∀ i l u, (act i l u).1.houseView = u.houseView)
    (p : Port) (slot gen : Nat) (s : State) : (holdRequest p slot gen act s).1.houseView = s.houseView := by
  unfold holdRequest
  split
  · rfl
  · exact ha _ _ s

theorem zoneRequest_houseView {act : Show → Zone → Owner} (ha : ∀ sh z u, (act sh z u).1.houseView = u.houseView)
    (key zone : Nat) (s : State) : (zoneRequest key zone act s).1.houseView = s.houseView := by
  unfold zoneRequest
  repeat' split
  · rfl
  · rfl
  · exact ha _ _ s

theorem countsChanged_houseView (key : Nat) (f : Show → Show) (body : List Byte) (s : State) :
    (countsChanged key f body s).1.houseView = s.houseView := by
  simp [countsChanged, State.houseView, State.modifyShow]

theorem setCapacity_houseView (key zone n : Nat) (s : State) : (setCapacity key zone n s).1.houseView = s.houseView :=
  zoneRequest_houseView (fun sh z u => by
    split_ifs
    · rfl
    · rfl
    · rfl
    · exact countsChanged_houseView _ _ _ u) key zone s

theorem confirmHold_houseView (p : Port) (slot gen : Nat) (s : State) :
    (confirmHold p slot gen s).1.houseView = s.houseView :=
  holdRequest_houseView (fun i l u => by simp [State.houseView, State.modifyShow]) p slot gen s

theorem releaseHold_houseView (p : Port) (slot gen : Nat) (s : State) :
    (releaseHold p slot gen s).1.houseView = s.houseView :=
  holdRequest_houseView (fun i l u => by simp [State.houseView]) p slot gen s

theorem extendHold_houseView (p : Port) (slot gen : Nat) (s : State) :
    (extendHold p slot gen s).1.houseView = s.houseView := by
  unfold extendHold
  split_ifs
  · rfl
  · rfl
  · exact holdRequest_houseView (fun i l u => by split <;> rfl) p slot gen s

theorem loadShow_houseView (key day aud title start run delay : Nat) (caps : Nat × Nat × Nat) (hidden : Bool)
    (sibling : Option Nat) (sold withheld : Option Nat × Option Nat × Option Nat) (openNow : Bool) (s : State) :
    (loadShow key day aud title start run delay caps hidden sibling sold withheld openNow s).1.houseView =
      s.houseView := by
  simp only [loadShow]
  split
  · rfl
  · simp [createShow, State.houseView, State.withShowList]

theorem amendShow_houseView (key : Nat) (start run aud title : Option Nat) (sibling : Option (Option Nat))
    (hidden : Option Bool) (s : State) :
    (amendShow key start run aud title sibling hidden s).1.houseView = s.houseView := by
  unfold amendShow
  split
  · rfl
  · dsimp only
    split_ifs
    all_goals simp [State.houseView, State.modifyShow]

theorem openSales_houseView (key : Nat) (s : State) : (openSales key s).1.houseView = s.houseView := by
  unfold openSales
  repeat' split
  all_goals simp [State.houseView]

theorem cancelShow_houseView (key : Nat) (s : State) : (cancelShow key s).1.houseView = s.houseView := by
  unfold cancelShow
  repeat' split
  all_goals simp [State.houseView]

theorem removeShow_houseView (key : Nat) (s : State) : (removeShow key s).1.houseView = s.houseView := by
  unfold removeShow
  repeat' split
  all_goals simp [State.houseView]

theorem defineTitle_houseView (index : Nat) (text : List Byte) (rating : Nat) (s : State) :
    (defineTitle index text rating s).1.houseView = s.houseView := by
  unfold defineTitle
  split <;> simp [State.houseView]

theorem rollDayRequest_houseView (s : State) : (rollDayRequest s).1.houseView = s.houseView := by
  unfold rollDayRequest
  split <;> simp [State.houseView]

theorem setClock_houseView (minute second : Nat) (s : State) :
    (setClock minute second s).1.houseView = s.houseView := by
  unfold setClock
  split <;> simp [State.houseView, State.withClock]

theorem clearDay_houseView (s : State) : (clearDay s).houseView = s.houseView := by
  simp [clearDay, State.houseView]

theorem policyChanged_houseView (old : Policy) (s : State) : (policyChanged old s).houseView = s.houseView := by
  simp only [policyChanged]
  split_ifs <;> simp [State.houseView]

theorem setPolicy_houseView (l : List (Nat × Nat)) (s : State) : (setPolicy l s).1.houseView = s.houseView := by
  simp only [setPolicy]
  split_ifs
  · rfl
  · rfl
  · rfl
  · exact policyChanged_houseView _ _

theorem postDelay_houseView (h : Hdr) (x : Posting) (sh : Show) (s : State) :
    (postDelay h x sh s).houseView = s.houseView := by
  simp only [postDelay]
  split_ifs <;> simp [State.houseView, State.modifyShow, takeSlot, announce_eq]

theorem postNotice_houseView (h : Hdr) (cls prio : Nat) (scope : ScopeArg) (text : List Byte) (life : LifeArg)
    (key minutes : Option Nat) (s : State) :
    (postNotice h cls prio scope text life key minutes s).1.houseView = s.houseView := by
  unfold postNotice
  repeat' split
  · rfl
  · rfl
  · exact postDelay_houseView h _ _ s
  · simp [State.houseView, postCancel, takeSlot, announce_eq]
  · simp [State.houseView, postPlain, takeSlot, announce_eq]

theorem noticeWithdrawn_houseView (p : Port) (slot : Nat) (s : State) :
    (noticeWithdrawn p slot s).houseView = s.houseView := by
  unfold noticeWithdrawn
  split <;> simp [State.houseView]

theorem portStatus_houseView (clear : Bool) (q : Port) (s : State) :
    (portStatus clear q s).1.houseView = s.houseView := by
  cases clear <;> rfl

theorem panelRead_houseView (addr : Nat) (clear : Bool) (s : State) :
    (panelRead addr clear s).houseView = s.houseView := by
  cases clear <;> rfl

theorem patternWritten_houseView (pattern : Nat) (notes : List (Nat × Nat)) (s : State) :
    (patternWritten pattern notes s).houseView = s.houseView := by
  unfold patternWritten
  split <;> rfl

theorem setCauseMask_houseView (p : Port) (mask : Nat) (s : State) :
    (setCauseMask p mask s).1.houseView = s.houseView := by
  simp only [setCauseMask]
  split <;> rfl

theorem setPoolSplit_houseView (value : Nat) (s : State) : (setPoolSplit value s).1.houseView = s.houseView := by
  simp only [setPoolSplit]
  split_ifs <;> rfl

theorem readSeatStatus_houseView (clear : Bool) (s : State) : (readSeatStatus clear s).1.houseView = s.houseView := by
  cases clear <;> rfl

theorem defineSpot_houseView (key media duration : Nat) (title : Option Nat) (s : State) :
    (defineSpot key media duration title s).1.houseView = s.houseView := by
  simp only [defineSpot]
  split_ifs <;> rfl

theorem removeSpot_houseView (key : Nat) (s : State) : (removeSpot key s).1.houseView = s.houseView := by
  unfold removeSpot
  split_ifs <;> rfl

theorem fileReel_houseView (r : Nat) (s : State) : (fileReel r s).houseView = s.houseView := by simp [State.houseView]

theorem cueOrHold_houseView (r : Nat) (s : State) : (cueOrHold r s).houseView = s.houseView := by
  unfold cueOrHold
  split
  · exact fileReel_houseView r _
  · exact fileReel_houseView r _

theorem clearReel_houseView (r : Nat) (s : State) : (clearReel r s).1.houseView = s.houseView := by
  simp only [clearReel]
  split_ifs
  · rfl
  · rfl
  · rfl
  · exact fileReel_houseView r _

theorem stopReel_houseView (r : Nat) (s : State) : (stopReel r s).1.houseView = s.houseView := by
  simp only [stopReel]
  split_ifs
  · rfl
  · rfl
  · exact fileReel_houseView r _

theorem startReel_houseView (r : Nat) (s : State) : (startReel r s).1.houseView = s.houseView := by
  unfold startReel
  split_ifs
  · rfl
  · rfl
  · exact cueOrHold_houseView r s
  · rfl

theorem setPanel_houseView (addr : Nat) (present : Bool) (view : ViewArg) (group : Nat) (s : State) :
    (setPanel addr present view group s).1.houseView = s.houseView := by
  unfold setPanel
  split_ifs
  · rfl
  · rfl
  · split
    · rfl
    · dsimp only
      split <;> rfl

theorem saveSetup_houseView (s : State) : (saveSetup s).1.houseView = s.houseView := by
  unfold saveSetup
  split <;> rfl

theorem storeCheckDone_houseView (holds : Bool) (s : State) : (storeCheckDone holds s).houseView = s.houseView := by
  unfold storeCheckDone
  split_ifs <;> rfl

theorem panelGrant_houseView (s : State) : (panelGrant s).houseView = s.houseView := by
  unfold panelGrant
  repeat' split
  all_goals rfl

theorem panelFrameSent_houseView (s : State) : (panelFrameSent s).houseView = s.houseView := by
  unfold panelFrameSent
  repeat' split
  all_goals rfl

theorem panelAnswerStart_houseView (s : State) : (panelAnswerStart s).houseView = s.houseView := by
  unfold panelAnswerStart
  repeat' split
  all_goals rfl

theorem panelAnswer_houseView (bytes : List Byte) (s : State) : (panelAnswer bytes s).houseView = s.houseView := by
  unfold panelAnswer
  repeat' split
  · rfl
  · simp [State.houseView]
  · rfl

theorem expiryDue_houseView (slot : Nat) (s : State) : (expiryDue slot s).houseView = s.houseView := by
  unfold expiryDue
  repeat' split
  · simp [State.houseView]
  · rfl
  · rfl

theorem noteDue_houseView (s : State) : (noteDue s).houseView = s.houseView := by
  unfold noteDue
  repeat' split
  all_goals rfl

theorem secTickAt_houseView (minute : List MinReceiver) (r : SecReceiver) (s : State) :
    (secTickAt minute r s).houseView = s.houseView := by
  cases r <;> simp [secTickAt, State.houseView]

/-! ### Every command -/

theorem alertLaw_ite {c : Prop} [Decidable c] {a b : State} (ha : AlertLaw a) (hb : AlertLaw b) :
    AlertLaw (if c then a else b) := by
  split
  · exact ha
  · exact hb

theorem AlertLaw.ticking {f : State → State} {s t : State} (hs : AlertLaw s)
    (h : (Host.Outcome.next (whenTicking f s) : StepOutcome) = .next t) (hf : ∀ u, AlertLaw u → AlertLaw (f u)) :
    AlertLaw t := by
  cases h
  exact alertLaw_ite hs (hf s hs)

theorem AlertLaw.running {f : State → State} {s t : State} (hs : AlertLaw s)
    (h : (Host.Outcome.next (whenRunning f s) : StepOutcome) = .next t) (hf : ∀ u, AlertLaw u → AlertLaw (f u)) :
    AlertLaw t := by
  cases h
  exact alertLaw_ite (hf s hs) hs

/-- A request keeps the law when its owner does: the port's part touches neither the phase nor the house. -/
theorem AlertLaw.request {c : Instr} {owner : Owner} {s t : State} (hs : AlertLaw s)
    (ho : ∀ u, AlertLaw u → AlertLaw (owner u).1) (h : request c owner s = .next t) : AlertLaw t := by
  cases h
  have hfinish : ∀ hd f r (u : State), AlertLaw u → AlertLaw (finishRequest hd f r u) := fun _ _ _ _ hu =>
    hu.of_houseView rfl
  unfold takeRequest
  split
  · exact hs
  · rename_i hd kind body _
    have hp : AlertLaw (putInExecution hd (requestFrameOf hd kind body) s) :=
      hs.of_houseView (by simp [State.houseView])
    split
    · dsimp only
      split
      · exact hfinish _ _ _ _ hp
      · exact hfinish _ _ _ _ (ho _ hp)
    · exact hs

theorem AlertLaw.request_apart {c : Instr} {owner : Owner} {s t : State} (hs : AlertLaw s)
    (ho : ∀ u, (owner u).1.houseView = u.houseView) (h : Machine.request c owner s = .next t) : AlertLaw t :=
  hs.request (fun u hu => hu.of_houseView (ho u)) h

/-- A request whose rule is tests before an effect that leaves the House Line Unit. -/
theorem AlertLaw.request_tested {c : Instr} {owner : Owner} {tests : State → List (Bool × Result)}
    {done : State → State × Reply} {s t : State} (hs : AlertLaw s) (ho : ∀ u, owner u = tested (tests u) u (done u))
    (hd : ∀ u, (done u).1.houseView = u.houseView) (h : Machine.request c owner s = .next t) : AlertLaw t :=
  hs.request_apart (fun u => by rw [ho]; exact tested_houseView (hd u)) h

theorem AlertLaw.msTickAt {s : State} (hs : AlertLaw s) (lines : Word) (level : Level) (r : MsReceiver) :
    AlertLaw (msTickAt lines level r s) := by
  cases r with
  | house =>
    simp only [Machine.msTickAt, houseTick]
    split
    · exact (hs.sampleLines lines).sampleAlert level
    · exact alertLaw_startUpAlertSample (by simpa) level
  | link => exact hs.of_houseView (by simp [Machine.msTickAt, State.houseView])
  | ports => exact hs.of_houseView rfl
  | chime => exact hs.of_houseView rfl

theorem AlertLaw.exec {s t : State} (hs : AlertLaw s) (c : Instr) (h : exec c s = .next t) : AlertLaw t := by
  cases c with
  | hardReset =>
    cases h
    exact alertLaw_not_running (x := .inReset) rfl (by decide)
  | startUp w holds =>
    cases h
    exact alertLaw_ite (alertLaw_not_running (x := .starting) rfl (by decide)) hs
  | startUpAlertFound l =>
    cases h
    exact alertLaw_ite (alertLaw_alertFound l s) hs
  | tick1ms w l order => exact hs.ticking h fun u hu => foldl_inv AlertLaw _ (fun _ r hv => hv.msTickAt w l r) _ u hu
  | tick1s order m =>
    exact hs.ticking h fun u hu =>
      foldl_inv AlertLaw _ (fun v r hv => hv.of_houseView (secTickAt_houseView m r v)) _ u hu
  | minuteBoundary order =>
    exact hs.ticking h fun u hu => alertLaw_ite (hu.of_houseView (by simp [State.houseView])) hu
  | holdExpiry slot => exact hs.ticking h fun u hu => hu.of_houseView (expiryDue_houseView slot u)
  | reelItemEnd r => exact hs.ticking h fun u hu => alertLaw_ite (hu.of_houseView (fileReel_houseView r _)) hu
  | startLineQualified i => exact hs.ticking h fun u hu => alertLaw_ite (hu.sampleLine i _) hu
  | alertLineActive => exact hs.running h fun u hu => alertLaw_ite (hu.sampleAlert _) hu
  | alertLineInactive => exact hs.running h fun u hu => alertLaw_ite (hu.sampleAlert _) hu
  | chimeNoteEnd => exact hs.ticking h fun u hu => hu.of_houseView (noteDue_houseView u)
  | noticeExpiry => exact hs.ticking h fun u hu => alertLaw_ite (hu.of_houseView (by simp [State.houseView])) hu
  | noticeInterval => exact hs.ticking h fun u hu => alertLaw_ite (hu.of_houseView (by simp [State.houseView])) hu
  | frameGapTimeout p => exact hs.running h fun u hu => hu.of_houseView rfl
  | requestFrame p bytes => exact hs.running h fun u hu => hu.of_houseView rfl
  | portByteReceived p b stopLow => exact hs.running h fun u hu => hu.of_houseView rfl
  | answerSent p => exact hs.running h fun u hu => hu.of_houseView rfl
  | panelPollDue a => exact hs.running h fun u hu => alertLaw_ite (hu.of_houseView rfl) hu
  | panelProbeDue a => exact hs.running h fun u hu => alertLaw_ite (hu.of_houseView rfl) hu
  | panelGrant => exact hs.running h fun u hu => hu.of_houseView (panelGrant_houseView u)
  | beaconSend => exact hs.running h fun u hu => alertLaw_ite (hu.of_houseView rfl) hu
  | beaconEnd => exact hs.running h fun u hu => alertLaw_ite (hu.of_houseView rfl) hu
  | panelFrameSent => exact hs.running h fun u hu => hu.of_houseView (panelFrameSent_houseView u)
  | panelAnswerStart => exact hs.running h fun u hu => hu.of_houseView (panelAnswerStart_houseView u)
  | panelAnswer bytes => exact hs.running h fun u hu => hu.of_houseView (panelAnswer_houseView bytes u)
  | responseTimeout => exact hs.running h fun u hu => hu.of_houseView (by simp [State.houseView])
  | storeEraseDone => exact hs.running h fun u hu => alertLaw_ite (hu.of_houseView rfl) hu
  | storeWriteDone => exact hs.running h fun u hu => alertLaw_ite (hu.of_houseView rfl) hu
  | storeCheckDone holds => exact hs.running h fun u hu => hu.of_houseView (storeCheckDone_houseView holds u)
  | storeFault => exact hs.running h fun u hu => alertLaw_ite (hu.of_houseView rfl) hu
  | holdSeats hd key zone n =>
    exact hs.request_tested (holdSeats_tested hd key zone n)
      (fun u => by simp [granted, grantHold, State.modifyShow, State.houseView]) h
  | confirmHold hd slot gen => exact hs.request_apart (confirmHold_houseView hd.port slot gen) h
  | releaseHold hd slot gen => exact hs.request_apart (releaseHold_houseView hd.port slot gen) h
  | extendHold hd slot gen => exact hs.request_apart (extendHold_houseView hd.port slot gen) h
  | queryHold hd slot gen => exact hs.request_apart (holdRequest_houseView (fun _ _ _ => rfl) hd.port slot gen) h
  | sellNow hd key zone n =>
    exact hs.request_tested (sellNow_tested key zone n) (fun u => countsChanged_houseView _ _ _ u) h
  | refundSeats hd key zone n =>
    exact hs.request_tested (refundSeats_tested key zone n) (fun u => countsChanged_houseView _ _ _ u) h
  | queryShow hd key => exact hs.request_apart (fun u => by rw [queryShow_state]) h
  | listShows hd day start => exact hs.request_apart (fun u => by rw [listShows_state]) h
  | postNotice hd c p sc text life key m => exact hs.request_apart (postNotice_houseView hd c p sc text life key m) h
  | withdrawNotice hd slot gen =>
    exact hs.request_tested (withdrawNotice_tested hd.port slot gen) (noticeWithdrawn_houseView hd.port slot) h
  | readNotices hd => exact hs.request_apart (fun _ => rfl) h
  | readAlert hd => exact hs.request_apart (fun _ => rfl) h
  | readCauses hd => exact hs.request_apart (fun _ => rfl) h
  | setCauseMask hd mask => exact hs.request_apart (setCauseMask_houseView hd.port mask) h
  | readPortStatus hd sel clear =>
    exact hs.request_tested (readPortStatus_tested hd.port sel clear) (portStatus_houseView clear _) h
  | loadShow hd key day aud title start run delay caps hidden sib sold withheld now =>
    exact hs.request_apart (loadShow_houseView key day aud title start run delay caps hidden sib sold withheld now) h
  | amendShow hd key start run aud title sib hidden =>
    exact hs.request_apart (amendShow_houseView key start run aud title sib hidden) h
  | openSales hd key => exact hs.request_apart (openSales_houseView key) h
  | cancelShow hd key => exact hs.request_apart (cancelShow_houseView key) h
  | removeShow hd key => exact hs.request_apart (removeShow_houseView key) h
  | readShow hd key => exact hs.request_apart (fun u => by rw [readShow_state]) h
  | defineTitle hd index text rating => exact hs.request_apart (defineTitle_houseView index text rating) h
  | rollDay hd => exact hs.request_apart rollDayRequest_houseView h
  | dayClear hd => exact hs.request_apart clearDay_houseView h
  | setPoolSplit hd value => exact hs.request_apart (setPoolSplit_houseView value) h
  | readPool hd => exact hs.request_apart (fun _ => rfl) h
  | setCapacity hd key zone value => exact hs.request_apart (setCapacity_houseView key zone value) h
  | withhold hd key zone n =>
    exact hs.request_tested (withhold_tested key zone n) (fun u => countsChanged_houseView _ _ _ u) h
  | unwithhold hd key zone n =>
    exact hs.request_tested (unwithhold_tested key zone n) (fun u => countsChanged_houseView _ _ _ u) h
  | readSeatStatus hd clear => exact hs.request_apart (readSeatStatus_houseView clear) h
  | readHold hd slot => exact hs.request_apart (fun u => by rw [readHold_state]) h
  | readBoard hd start => exact hs.request_apart (fun _ => rfl) h
  | readDoor hd aud => exact hs.request_apart (fun u => by rw [readDoor_state]) h
  | defineSpot hd key media d title => exact hs.request_apart (defineSpot_houseView key media d title) h
  | removeSpot hd key => exact hs.request_apart (removeSpot_houseView key) h
  | buildReel hd r items step =>
    exact hs.request_tested (buildReel_tested r items step) (fun u => cueOrHold_houseView r _) h
  | clearReel hd r => exact hs.request_apart (clearReel_houseView r) h
  | stopReel hd r => exact hs.request_apart (stopReel_houseView r) h
  | startReel hd r => exact hs.request_apart (startReel_houseView r) h
  | readSpot hd key => exact hs.request_apart (fun u => by rw [readSpot_state]) h
  | readReel hd r => exact hs.request_apart (fun u => by rw [readReel_state]) h
  | setChimePattern hd p notes =>
    exact hs.request_tested (setChimePattern_tested p notes) (patternWritten_houseView p notes) h
  | readChime hd => exact hs.request_apart (fun _ => rfl) h
  | setStartLine hd line aud edge d => exact hs.request (fun _ hu => hu.setStartLine line aud edge d) h
  | setAlertLine hd p d => exact hs.request (fun _ hu => hu.setAlertLine p d) h
  | clearAlert hd => exact hs.request (fun _ hu => hu.clearAlert) h
  | readHouseLines hd => exact hs.request_apart (fun _ => rfl) h
  | readJournal hd start => exact hs.request_apart (fun _ => rfl) h
  | setPanel hd a present view g => exact hs.request_apart (setPanel_houseView a present view g) h
  | linkReset hd => exact hs.request_apart (fun _ => rfl) h
  | readPanel hd a clear => exact hs.request_tested (readPanel_tested a clear) (panelRead_houseView a clear) h
  | setPolicy hd l => exact hs.request_apart (setPolicy_houseView l) h
  | readPolicy hd => exact hs.request_apart (fun _ => rfl) h
  | setClock hd m sec => exact hs.request_apart (setClock_houseView m sec) h
  | readClock hd => exact hs.request_apart (fun _ => rfl) h
  | saveSetup hd => exact hs.request_apart saveSetup_houseView h

/-- Settles O9: a step is a command taken on a state with the queue's rest. -/
theorem stepKeepsTheAlertLaw : Obligations.StepKeepsTheAlertLaw := by
  intro s t hs h
  unfold step at h
  split at h
  · cases h
    exact hs
  · rename_i c rest _
    have hp : AlertLaw (s.withPending rest) := hs.of_houseView rfl
    exact hp.exec c h

end Sys2Proof.Machine

/-! ## Lines that qualify a change (O20, O22) -/

namespace Sys2Proof.Machine

/-- The sample that completes the debounce time. -/
theorem sample_due {l : LineState} {d : Nat} (h : d ≤ l.count + 1) :
    l.sample d (otherLevel l.stable) = (⟨otherLevel l.stable, 0⟩, true) := by
  have hne : otherLevel l.stable ≠ l.stable := by cases l.stable <;> decide
  rw [LineState.sample, if_neg hne, if_pos h]

/-! ### Start lines (R138, R139) -/

/-- Line `i` at its new level, its count cleared. -/
def lineTurned (i : Nat) (s : State) : State := s.withLineState i ⟨otherLevel (s.lineState i).stable, 0⟩

theorem lineTurned_entry (i j : Nat) (s : State) : (lineTurned i s).lineEntry j = s.lineEntry j := rfl

theorem lineTurned_own {i : Nat} {s : State} (h : i < s.house.lines.length) :
    (lineTurned i s).lineState i = ⟨otherLevel (s.lineState i).stable, 0⟩ := by
  simp [lineTurned, State.withLineState, State.lineState, h]

theorem lineTurned_other {i j : Nat} (h : j ≠ i) (s : State) : (lineTurned i s).lineState j = s.lineState j := by
  simp [lineTurned, State.withLineState, State.lineState, List.getElem?_set_ne h.symm]

theorem exec_startLineQualified {i : Nat} {s : State} (hphase : s.phase ≠ .inReset)
    (hdue : (s.lineEntry i).debounce ≤ (s.lineState i).count + 1) : exec (.startLineQualified i) s =
      .next (lineQualified i (otherLevel (s.lineState i).stable) (lineTurned i s)) := by
  show Host.Outcome.next (whenTicking (lineDue i) s) = _
  rw [whenTicking, if_neg hphase, lineDue, if_pos hdue, sampleLine, sample_due hdue]
  rfl

theorem lineQualified_ignored {i : Nat} {level : Level} {s : State}
    (h : (s.lineEntry i).edge.level ≠ level ∨ (s.lineEntry i).aud = 0) : lineQualified i level s = s := by
  refine if_neg fun ⟨hedge, hused, _⟩ => h.elim (fun hne => hne hedge) fun hunused => ?_
  omega

theorem lineQualified_arrives {i : Nat} {level : Level} {s : State} (hedge : (s.lineEntry i).edge.level = level)
    (h1 : 1 ≤ (s.lineEntry i).aud) (h16 : (s.lineEntry i).aud ≤ 16) :
    lineQualified i level s = arrival (s.lineEntry i).aud s := if_pos ⟨hedge, h1, h16⟩

/-- Settles O20: the line turned, then an arrival exactly with the entry's edge on a used line. -/
theorem startLineQualifies : Obligations.StartLineQualifies := by
  intro i s hs hi hphase hdue
  have hlen : i < s.house.lines.length := by
    rw [hs.lines_length]
    exact hi
  have hhouse : (lineQualified i (otherLevel (s.lineState i).stable) (lineTurned i s)).house =
      (lineTurned i s).house := by simp
  refine ⟨_, exec_startLineQualified hphase hdue, ?_, fun j hj => ?_, fun hignored => ?_, fun hedge h1 h16 => ?_, ?_,
    ?_, ?_⟩
  · rw [lineState_congr hhouse, lineTurned_own hlen]
  · rw [lineState_congr hhouse, lineTurned_other hj]
  · rw [lineQualified_ignored (s := lineTurned i s) hignored]
    rfl
  · exact lineQualified_arrives (s := lineTurned i s) hedge h1 h16
  · rw [hhouse]
    rfl
  · rw [hhouse]
    rfl
  · simp [lineTurned]

/-! ### The alert line (R141, R142, R144, R145) -/

/-- The alert line at its new level, its count cleared, the new reading not yet acted on. -/
def alertTurned (s : State) : State := s.withAlertLine ⟨otherLevel s.house.alertLine.stable, 0⟩

/-- The qualified change of the alert line, when it is due, is a change of its reading. -/
theorem alertDue_changes {b : Bool} {s : State} (hdue : s.house.alertEntry.debounce ≤ s.house.alertLine.count + 1)
    (hread : readsActive s.house.alertEntry.polarity (otherLevel s.house.alertLine.stable) = b) :
    alertDue b s = readingChanged b (alertTurned s) := by
  have hsample : s.alertSample (otherLevel s.house.alertLine.stable) =
      (⟨otherLevel s.house.alertLine.stable, 0⟩, true) := sample_due hdue
  rw [alertDue, if_pos ⟨hdue, hread⟩, sampleAlert_changed (by rw [hsample]), hread, hsample, alertTurned]

theorem exec_alertLineActive {s : State} (hphase : s.phase = .running)
    (hdue : s.house.alertEntry.debounce ≤ s.house.alertLine.count + 1)
    (hread : readsActive s.house.alertEntry.polarity (otherLevel s.house.alertLine.stable) = true) :
    exec .alertLineActive s = .next (becomesActive (alertTurned s)) := by
  rw [← readingChanged_true, ← alertDue_changes hdue hread]
  exact congrArg Host.Outcome.next (if_pos hphase)

theorem exec_alertLineInactive {s : State} (hphase : s.phase = .running)
    (hdue : s.house.alertEntry.debounce ≤ s.house.alertLine.count + 1)
    (hread : readsActive s.house.alertEntry.polarity (otherLevel s.house.alertLine.stable) = false) :
    exec .alertLineInactive s = .next (becomesInactive (alertTurned s)) := by
  rw [← readingChanged_false, ← alertDue_changes hdue hread]
  exact congrArg Host.Outcome.next (if_pos hphase)

/-- NORMAL to ALERT: the EVACUATE notice, the reels held, and ALERT the newest entry of the journal (R144, log 6). -/
theorem becomesActive_entry {s : State} (hs : Sized s) (h : s.house.alert = .normal) :
    ((becomesActive s).noticeSlot 31).notice.map (·.cls) = some .evacuate ∧
    ((becomesActive s).noticeSlot 31).gen = ((s.noticeSlot 31).gen + 1) % 256 ∧
    (∀ r, r < 4 → (becomesActive s).reelAt r = (s.reelAt r).paused) ∧
    (becomesActive s).journal.entries.getLast? = some ⟨(becomesActive s).journal.cur, .alert, .update⟩ := by
  rw [becomesActive_normal h, alertEntry_evacuate hs]
  exact ⟨rfl, rfl, fun r hr => alertEntry_reelAt hs hr, alertEntry_newest s⟩

/-- Settles O22: a change to active is what becomesActive does from each state, one to inactive leaves ALERT alone. -/
theorem alertLineMovesTheState : Obligations.AlertLineMovesTheState := by
  constructor
  · intro s hs hphase hdue hread halert
    have hsized : Sized (alertTurned s) := hs.of_extents (withAlertLine_extents s _)
    refine ⟨_, exec_alertLineActive hphase hdue hread, by rw [becomesActive_house],
      becomesActive_raises (s := alertTurned s) halert, by rw [becomesActive_house]; rfl,
      becomesActive_chime (s := alertTurned s) halert, fun hnormal => becomesActive_entry hsized hnormal,
      fun hheld => ?_, ?_⟩
    · exact becomesActive_again (s := alertTurned s) fun hnormal => by cases hheld.symm.trans hnormal
    · simp [alertTurned]
  · intro s hphase hdue hread halert
    refine ⟨_, exec_alertLineInactive hphase hdue hread, ?_, becomesInactive_raises (s := alertTurned s) halert,
      by rw [becomesInactive_house]; rfl, becomesInactive_blocks (alertTurned s), ?_⟩
    · rw [becomesInactive_house]
      exact if_pos halert
    · simp [alertTurned]

end Sys2Proof.Machine

/-! ## The level found at start-up (O13) -/

namespace Sys2Proof.Machine

/-! ### Reels at start-up (R97) -/

/-- A reel once the level is found: one without slots as it was, one with slots cued or held. -/
def startedUp (s : State) (x : Reel) : Reel := if x.slots.isEmpty then x else cuedOrHeld s x

theorem startedUp_empty {s : State} {x : Reel} (h : x.slots = []) : startedUp s x = x :=
  if_pos (List.isEmpty_iff.mpr h)

theorem startedUp_slots {s : State} {x : Reel} (h : x.slots ≠ []) : startedUp s x = cuedOrHeld s x :=
  if_neg fun he => h (List.isEmpty_iff.mp he)

theorem startUpReel_changed {r : Nat} {s : State} (hs : Sized s) (hr : r < 4) :
    ReelChanged r (startedUp s (s.reelAt r)) s.journal s (startUpReel r s) := by
  unfold startUpReel startedUp
  split
  · exact reelChanged_refl r s
  · unfold cuedOrHeld
    split
    · exact reelChanged_write hs hr _
    · exact reelChanged_write hs hr _

/-- What bringing up one reel leaves for another: what a resumption does, and the alert state. -/
structure Startable (s u : State) : Prop extends Resumable s u where
  house : u.house = s.house

theorem Startable.next {s u : State} (a : Startable s u) {q : Nat} (hq : q < 4) : Startable s (startUpReel q u) := by
  have m := startUpReel_changed a.sized hq
  exact ⟨⟨a.sized.of_extents (startUpReel_extents q u), by rw [m.blocks, a.shows], m.spots.trans a.spots,
    by rw [m.blocks, a.policy]⟩, by rw [m.blocks, a.house]⟩

theorem Startable.startedUp_eq {s u : State} (a : Startable s u) (x : Reel) : startedUp u x = startedUp s x := by
  rw [startedUp, cuedOrHeld, a.house, cued_congr a.shows a.spots a.policy, startedUp, cuedOrHeld]

/-- Each reel is brought up by what it is, whatever the reels before it did. -/
theorem startUpReels_reelAt {s : State} (hs : Sized s) {r : Nat} (hr : r < 4) :
    (startUpReels s).reelAt r = startedUp s (s.reelAt r) := by
  have hother : ∀ (x : Reel) (u : State) (q : Fin 4), q ≠ ⟨r, hr⟩ → Startable s u ∧ u.reelAt r = x →
      Startable s (startUpReel q u) ∧ (startUpReel q u).reelAt r = x := fun x u q hq ⟨hu, hreel⟩ =>
    ⟨hu.next q.isLt, ((startUpReel_changed hu.sized q.isLt).others r fun he => hq (Fin.ext he.symm)).trans hreel⟩
  have hfold : startUpReels s = (List.finRange 4).foldl (fun u q => startUpReel q u) s := rfl
  rw [hfold]
  refine (foldl_once (fun u => Startable s u ∧ u.reelAt r = s.reelAt r)
    (fun u => Startable s u ∧ u.reelAt r = startedUp s (s.reelAt r)) (⟨r, hr⟩ : Fin 4) (fun u ⟨hu, hreel⟩ => ?_)
    (hother _) (hother _) (List.nodup_finRange 4) (List.mem_finRange _) ⟨⟨⟨hs, rfl, rfl, rfl⟩, rfl⟩, rfl⟩).2
  exact ⟨hu.next hr, by rw [(startUpReel_changed hu.sized hr).own, hreel, hu.startedUp_eq]⟩

/-! ### The blocks brought to the level (R148) -/

theorem levelTaken_reelAt {s : State} (hs : Sized s) (level : Level) {r : Nat} (hr : r < 4) :
    (levelTaken level s).reelAt r =
      startedUp (s.withAlert (alertAtStart s.house.alertEntry.polarity level)) (s.reelAt r) := by
  have hsized : ∀ a, Sized ((s.withAlertLine ⟨level, 0⟩).withAlert a) := fun a =>
    hs.of_extents ((withAlert_extents _ a).trans (withAlertLine_extents s _))
  cases h : readsActive s.house.alertEntry.polarity level with
  | true =>
    have hreel : (startUpAlert (s.withAlertLine ⟨level, 0⟩)).reel =
        (startUpReels ((s.withAlertLine ⟨level, 0⟩).withAlert .alert)).reel := by simp [startUpAlert]
    rw [levelTaken_active h, reelAt_congr hreel, startUpReels_reelAt (hsized _) hr, alertAtStart, if_pos h]
    rfl
  | false =>
    rw [levelTaken_inactive h, startUpReels_reelAt (hsized _) hr, alertAtStart, if_neg (by rw [h]; decide)]
    rfl

theorem alertFound_reelAt {s : State} (hs : Sized s) (level : Level) {r : Nat} (hr : r < 4) :
    (alertFound level s).reelAt r =
      startedUp (s.withAlert (alertAtStart s.house.alertEntry.polarity level)) (s.reelAt r) := by
  have hreel : (alertFound level s).reel = (levelTaken level s).reel := by simp [alertFound_eq, State.setBeacon]
  rw [reelAt_congr hreel, levelTaken_reelAt hs level hr]

theorem levelTaken_frame (level : Level) (s : State) : (levelTaken level s).storeInvalid = s.storeInvalid ∧
    (levelTaken level s).journal = s.journal ∧ (levelTaken level s).link = s.link ∧
    (levelTaken level s).ports = s.ports := by
  unfold levelTaken
  split <;> simp

theorem alertFound_notice_chime (level : Level) (s : State) :
    (alertFound level s).notice = (levelTaken level s).notice ∧
    (alertFound level s).chime = (levelTaken level s).chime := by
  simp [alertFound_eq, State.setBeacon]

/-- The effects of a start-up in alert on the chime and the notices (R130, R135, R148). -/
theorem alertFound_active {level : Level} {s : State} (h : readsActive s.house.alertEntry.polarity level = true) :
    (alertFound level s).notice = s.notice.post 31 evacuateNotice ∧
    (alertFound level s).chime = s.chime.trigger s.policy.chimeEnable .alarm := by
  obtain ⟨hnotice, hchime⟩ := alertFound_notice_chime level s
  rw [hnotice, hchime, levelTaken_active h]
  simp [startUpAlert, postEvacuate, chimeTrigger, Config.evacuateSlot]

theorem alertFound_inactive {level : Level} {s : State} (h : readsActive s.house.alertEntry.polarity level = false) :
    (alertFound level s).notice = s.notice ∧ (alertFound level s).chime = s.chime := by
  obtain ⟨hnotice, hchime⟩ := alertFound_notice_chime level s
  rw [hnotice, hchime, levelTaken_inactive h]
  simp

theorem evacuate_posted {s t : State} (hs : Sized s) (h : t.notice = s.notice.post 31 evacuateNotice) :
    (t.noticeSlot 31).notice.map (·.cls) = some .evacuate := by
  have hlen : 31 < s.notice.slots.length := by
    have := hs.notices_length
    omega
  rw [noticeSlot_eq, h, post_at_same _ hlen]
  rfl

/-! ### The running part (steps 5 to 7 of R208) -/

theorem raise_ports_congr {s t : State} (h : t.ports = s.ports) (p : Port) (c : Cause) :
    (raise p c t).ports = (raise p c s).ports := by
  simp only [raise, withPortAt_ports, State.portAt, h]

theorem raiseInvalid_ports_congr {s t : State} (hinvalid : t.storeInvalid = s.storeInvalid)
    (hports : t.ports = s.ports) : (raiseInvalid t).ports = (raiseInvalid s).ports := by
  unfold raiseInvalid
  rw [hinvalid]
  split
  · exact raise_ports_congr hports _ _
  · exact hports

/-- Of the ports nothing changes but what STORE_INVALID does, when it was noted. -/
theorem alertFound_ports (level : Level) (s : State) : (alertFound level s).ports = (raiseInvalid s).ports := by
  obtain ⟨hinvalid, -, -, hports⟩ := levelTaken_frame level s
  exact raiseInvalid_ports_congr (t := (levelTaken level s).withPhase .running) hinvalid hports

theorem raiseInvalid_noted {s : State} (h : s.storeInvalid = true) :
    raiseInvalid s = raise .programme .storeInvalid s := if_pos h

theorem raiseInvalid_passed {s : State} (h : s.storeInvalid = false) : raiseInvalid s = s :=
  if_neg (by rw [h]; decide)

theorem raiseInvalid_sales (s : State) :
    (raiseInvalid s).ports.a = s.ports.a ∧ (raiseInvalid s).ports.b = s.ports.b := by
  unfold raiseInvalid
  split <;> exact ⟨rfl, rfl⟩

theorem exec_startUpAlertFound {level : Level} {s : State} (hphase : s.phase = .starting)
    (hlevel : level = s.house.alertLine.stable) (hcount : 0 < s.house.alertLine.count)
    (hdue : s.house.alertEntry.debounce ≤ s.house.alertLine.count + 1) :
    exec (.startUpAlertFound level) s = .next (alertFound level s) := by
  have hsample : (startUpSample level s.house.alertLine).count = s.house.alertLine.count + 1 := by
    rw [startUpSample, if_neg]
    rintro (hzero | hne)
    · omega
    · exact hne hlevel
  exact congrArg Host.Outcome.next (if_pos ⟨hphase, by rw [hsample]; exact hdue⟩)

/-- Settles O13: the level taken by the reels, the notices and the chime, then the part running. -/
theorem startUpFindsTheAlert : Obligations.StartUpFindsTheAlert := by
  intro level s hs hphase hlevel hcount hdue
  obtain ⟨-, hjournal, hlink, -⟩ := levelTaken_frame level s
  have hhouse := alertFound_house level s
  have hports := alertFound_ports level s
  obtain ⟨hsalesA, hsalesB⟩ := raiseInvalid_sales s
  refine ⟨_, exec_startUpAlertFound hphase hlevel hcount hdue, ?_, by rw [hhouse], ?_, ?_, ?_, ?_, fun hinvalid => ?_,
    fun hvalid => ?_, fun hactive => ?_, fun hinactive => ?_, fun r hr hslots => ?_⟩
  · simp [alertFound_eq, State.setBeacon]
  · simp [alertFound_eq, State.setBeacon, hjournal]
  · simp [alertFound_eq, hlink]
  · rw [hports, hsalesA]
  · rw [hports, hsalesB]
  · rw [raiseInvalid_noted hinvalid] at hports
    rw [causeSet, State.portAt, hports]
    exact raise_sets .programme .storeInvalid s rfl
  · rw [hports, raiseInvalid_passed hvalid]
  · obtain ⟨hnotice, hchime⟩ := alertFound_active hactive
    have hstate : alertAtStart s.house.alertEntry.polarity level = .alert := if_pos hactive
    refine ⟨by rw [hhouse, hstate], hchime, evacuate_posted hs hnotice, fun r hr hslots => ?_⟩
    rw [alertFound_reelAt hs level hr, startedUp_slots hslots, hstate]
    exact cuedOrHeld_held (fun hnormal => by cases hnormal) _
  · obtain ⟨hnotice, hchime⟩ := alertFound_inactive hinactive
    have hstate : alertAtStart s.house.alertEntry.polarity level = .normal := if_neg (by rw [hinactive]; decide)
    refine ⟨by rw [hhouse, hstate], hchime, hnotice, fun r hr hslots => ?_⟩
    rw [alertFound_reelAt hs level hr, startedUp_slots hslots, hstate]
    exact (cuedOrHeld_normal rfl _).trans (cued_congr rfl rfl rfl true _)
  · rw [alertFound_reelAt hs level hr, startedUp_empty hslots]

end Sys2Proof.Machine

/-! ## The journal law (O6) -/

namespace Sys2Proof.Machine

/-! ### What a filing and a Day Clear make of the journal (R155, R159, R163) -/

theorem JournalLaw.coalesce {j : Journal} (hj : JournalLaw j) (t : Target) : JournalLaw (j.coalesce t) := by
  obtain ⟨hrev, htarget, hrange, hsize, hfloor, hcur⟩ := hj
  exact ⟨hrev.filter _, htarget.filter _, fun e he => hrange e (List.mem_of_mem_filter he),
    (List.length_filter_le _ _).trans hsize, hfloor, hcur⟩

theorem coalesce_target_ne {j : Journal} {t : Target} {e : Entry} (he : e ∈ (j.coalesce t).entries) :
    e.target ≠ t := by
  rw [coalesce_entries] at he
  exact of_decide_eq_true (List.mem_filter.mp he).2

theorem dropOldest_of_room {j : Journal} (h : j.entries.length < 64) : j.dropOldest = j := by
  have hroom : ¬ Config.journalSize ≤ j.entries.length := Nat.not_le.mpr h
  unfold Journal.dropOldest
  split
  · rw [if_neg hroom]
  · rfl

theorem dropOldest_of_full {j : Journal} {e : Entry} {rest : List Entry} (he : j.entries = e :: rest)
    (h : 64 ≤ j.entries.length) : j.dropOldest = { j with floor := e.rev, entries := rest } := by
  have hfull : Config.journalSize ≤ j.entries.length := h
  unfold Journal.dropOldest
  rw [he] at hfull ⊢
  exact if_pos hfull

/-- Below 64 entries step 2 changes nothing; at 64 the oldest goes, its revision the new floor. -/
theorem dropOldest_cases (j : Journal) :
    (j.entries.length < 64 ∧ j.dropOldest = j) ∨
    ∃ e rest, j.entries = e :: rest ∧ 64 ≤ j.entries.length ∧
      j.dropOldest = { j with floor := e.rev, entries := rest } := by
  by_cases h : j.entries.length < 64
  · exact .inl ⟨h, dropOldest_of_room h⟩
  · have hfull : 64 ≤ j.entries.length := Nat.not_lt.mp h
    obtain ⟨e, rest, he⟩ := List.exists_cons_of_length_pos (Nat.lt_of_lt_of_le (by decide) hfull)
    exact .inr ⟨e, rest, he, hfull, dropOldest_of_full he hfull⟩

theorem dropOldest_cur (j : Journal) : j.dropOldest.cur = j.cur := by
  obtain ⟨-, h⟩ | ⟨e, rest, -, -, h⟩ := dropOldest_cases j
  · rw [h]
  · rw [h]

theorem mem_of_mem_dropOldest {j : Journal} {x : Entry} (hx : x ∈ j.dropOldest.entries) : x ∈ j.entries := by
  obtain ⟨-, h⟩ | ⟨e, rest, he, -, h⟩ := dropOldest_cases j
  · rwa [h] at hx
  · rw [h] at hx
    rw [he]
    exact List.mem_cons_of_mem e hx

theorem JournalLaw.dropOldest_length {j : Journal} (hj : JournalLaw j) : j.dropOldest.entries.length < 64 := by
  obtain ⟨-, -, -, hsize, -, -⟩ := hj
  obtain ⟨hroom, h⟩ | ⟨e, rest, he, -, h⟩ := dropOldest_cases j
  · rwa [h]
  · rw [he, List.length_cons] at hsize
    rw [h]
    exact hsize

/-- The entries left when the oldest goes all have greater revisions, so the floor can rise to it. -/
theorem JournalLaw.dropOldest {j : Journal} (hj : JournalLaw j) : JournalLaw j.dropOldest := by
  obtain ⟨-, h⟩ | ⟨e, rest, he, -, h⟩ := dropOldest_cases j
  · rwa [h]
  · obtain ⟨hrev, htarget, hrange, hsize, hfloor, hcur⟩ := hj
    rw [he] at hrev htarget hrange hsize
    obtain ⟨habove, hrev⟩ := List.pairwise_cons.mp hrev
    obtain ⟨-, htarget⟩ := List.pairwise_cons.mp htarget
    obtain ⟨⟨-, holdest⟩, hrest⟩ := List.forall_mem_cons.mp hrange
    rw [h]
    exact ⟨hrev, htarget, fun x hx => ⟨habove x hx, (hrest x hx).2⟩, (Nat.le_succ _).trans hsize, holdest, hcur⟩

theorem JournalLaw.append {j : Journal} (hj : JournalLaw j) {t : Target} (hsize : j.entries.length < 64)
    (hcur : j.cur < 65535) (hnew : ∀ e ∈ j.entries, e.target ≠ t) (f : Form) : JournalLaw (j.append t f) := by
  obtain ⟨hrev, htarget, hrange, -, hfloor, -⟩ := hj
  refine ⟨?_, ?_, fun e he => ?_, ?_, Nat.le_succ_of_le hfloor, hcur⟩
  · exact List.pairwise_append.mpr ⟨hrev, List.pairwise_singleton _ _, fun e he x hx => by
      rw [List.mem_singleton.mp hx]
      exact Nat.lt_succ_of_le (hrange e he).2⟩
  · exact List.pairwise_append.mpr ⟨htarget, List.pairwise_singleton _ _, fun e he x hx => by
      rw [List.mem_singleton.mp hx]
      exact hnew e he⟩
  · show j.floor < e.rev ∧ e.rev ≤ j.cur + 1
    rcases List.mem_append.mp he with hold | hadded
    · exact ⟨(hrange e hold).1, Nat.le_succ_of_le (hrange e hold).2⟩
    · rw [List.mem_singleton.mp hadded]
      exact ⟨Nat.lt_succ_of_le hfloor, Nat.le_refl _⟩
  · simpa [Journal.append] using hsize

theorem journalLaw_wrapped (t : Target) (f : Form) : JournalLaw (Journal.wrapped t f) := by
  simp [JournalLaw, Journal.wrapped]

/-- A filing wraps at the greatest revision, or else is coalescence, the drop of the oldest entry and the new one. -/
theorem JournalLaw.filed {j : Journal} (hj : JournalLaw j) (t : Target) (f : Form) : JournalLaw (j.filed t f) := by
  unfold Journal.filed
  split
  · exact journalLaw_wrapped t f
  · rename_i hbelow
    have hc : JournalLaw (j.coalesce t) := hj.coalesce t
    have hcur : (j.coalesce t).dropOldest.cur < 65535 := by
      rw [dropOldest_cur]
      exact Nat.lt_of_not_le hbelow
    exact hc.dropOldest.append hc.dropOldest_length hcur (fun e he => coalesce_target_ne (mem_of_mem_dropOldest he)) f

/-- A journal without entries keeps the law when its floor is the current revision and that is in range. -/
theorem journalLaw_empty {n : Nat} (h : n ≤ 65535) : JournalLaw ⟨n, n, []⟩ := by
  simpa [JournalLaw] using h

theorem journalLaw_dayCleared (j : Journal) : JournalLaw j.dayCleared := by
  unfold Journal.dayCleared
  split
  · exact journalLaw_empty (by decide)
  · rename_i hbelow
    exact journalLaw_empty (Nat.lt_of_not_le hbelow)

/-! ### Properties that filings keep -/

/-- Where revisions stand: the journal (R152) and the panels (R172). -/
def State.revisions (s : State) : Journal × List Panel := (s.journal, s.link.panels)

/-- A property of the revisions alone that every filing keeps. Outside the Panel Link Controller a block touches the
revisions by filing alone, but for Day Clear and a reset, so every operation of those blocks keeps such a property. -/
structure KeptByFiling (P : State → Prop) : Prop where
  filing : ∀ {s} t f, P s → P (file t f s)
  apart : ∀ {s t}, P s → t.revisions = s.revisions → P t

/-! ### Refusals change nothing -/

theorem tested_invariant {P : State → Prop} {s : State} {tests : List (Bool × Result)}
    {done : State × Reply} (hs : P s) (hd : P done.1) : P (tested tests s done).1 := by
  unfold tested
  split
  · exact hs
  · exact hd

theorem holdRequest_invariant {P : State → Prop} {s : State} {act : HoldInfo → Nat → Owner}
    (ha : ∀ i l, P (act i l s).1) (p : Port) (slot gen : Nat) (hs : P s) : P (holdRequest p slot gen act s).1 := by
  unfold holdRequest
  split
  · exact hs
  · exact ha _ _

section
variable {P : State → Prop} (hP : KeptByFiling P) {s : State}
include hP

/-! ### Operations that touch no revision -/

theorem raiseAll_invariant (c : Cause) (hs : P s) : P (raiseAll c s) := hP.apart hs rfl

theorem chimeTrigger_invariant (p : ChimePattern) (hs : P s) : P (chimeTrigger p s) := hP.apart hs rfl

theorem chimeEnableChanged_invariant (on : Bool) (hs : P s) : P (chimeEnableChanged on s) :=
  hP.apart hs (by simp [State.revisions])

theorem setBeacon_invariant (hs : P s) : P s.setBeacon := hP.apart hs rfl

theorem withNotice_invariant (q : NoticeQueue) (hs : P s) : P (s.withNotice q) := hP.apart hs rfl

theorem recomputeDoor_invariant (aud : Nat) (hs : P s) : P (recomputeDoor s aud) := hP.apart hs rfl

theorem recomputeDoors_invariant (auds : List Nat) (hs : P s) : P (recomputeDoors auds s) :=
  hP.apart hs (by simp [State.revisions])

theorem seatAtEntry_invariant (key : Nat) (st : ShowState) (hs : P s) : P (seatAtEntry key st s) :=
  hP.apart hs (by simp [State.revisions])

/-! ### Publication -/

theorem publishLine_invariant (key : Nat) (hs : P s) : P (publishLine key s) := by
  have hfiled : ∀ f l, P (file (.boardLine key) f (s.withLines l)) := fun f l => hP.filing _ f (hP.apart hs rfl)
  unfold publishLine
  split
  · exact hs
  · exact hfiled _ _
  · split
    · exact hs
    · exact hfiled _ _
  · exact hfiled _ _

theorem publishDoor_invariant (aud : Nat) (hs : P s) : P (publishDoor aud s) := by
  unfold publishDoor
  split
  · exact hs
  · exact hP.filing _ _ (hP.apart hs rfl)

theorem publishTitle_invariant (index : Nat) (hs : P s) : P (publishTitle index s) := by
  simp only [publishTitle]
  split
  · exact hs
  · exact hP.filing _ _ (hP.apart hs rfl)

theorem publishLines_invariant (keys : List Nat) (hs : P s) : P (publishLines keys s) :=
  foldl_inv P _ (fun _ k hu => publishLine_invariant hP k hu) keys s hs

theorem publishDoors_invariant (auds : List Nat) (hs : P s) : P (publishDoors auds s) :=
  foldl_inv P _ (fun _ a hu => publishDoor_invariant hP a hu) auds s hs

theorem publishShow_invariant (key : Nat) (auds : List Nat) (hs : P s) : P (publishShow key auds s) :=
  publishLines_invariant hP _ (publishDoors_invariant hP auds (publishLine_invariant hP key hs))

theorem publishAll_invariant (hs : P s) : P (publishAll s) :=
  publishDoors_invariant hP _ (publishLines_invariant hP _ (publishLines_invariant hP _ hs))

theorem testWindows_invariant (hs : P s) : P (testWindows s) := publishLines_invariant hP _ hs

/-! ### Seats -/

theorem availability_invariant (key : Nat) (hs : P s) : P (availability key s) :=
  publishShow_invariant hP key _ (hP.apart hs rfl)

theorem computeAll_invariant (hs : P s) : P (computeAll s) :=
  foldl_inv P _ (fun _ k hu => availability_invariant hP k hu) _ s hs

theorem expireHold_invariant (slot : Nat) (hs : P s) : P (expireHold slot s) := by
  unfold expireHold
  split
  · exact availability_invariant hP _ (hP.apart hs (by simp [State.revisions]))
  · exact hs

theorem expiryDue_invariant (slot : Nat) (hs : P s) : P (expiryDue slot s) := by
  unfold expiryDue
  split
  · exact iteInduction (fun _ => expireHold_invariant hP slot hs) fun _ => hs
  · exact hs

theorem tickSlot_invariant (slot : Nat) (hs : P s) : P (tickSlot slot s) := by
  unfold tickSlot
  split
  · split
    · exact expireHold_invariant hP slot hs
    · exact hP.apart hs rfl
  · exact hs

theorem seatTick_invariant (hs : P s) : P (seatTick s) := by
  unfold seatTick
  split
  · exact foldl_inv P _ (fun _ i hu => tickSlot_invariant hP i hu) _ s hs
  · exact hs

/-! ### Notices -/

theorem fileNotices_invariant (hs : P s) : P (fileNotices s) := hP.filing _ _ hs

theorem withdrawWhere_invariant (f : Notice → Bool) (hs : P s) : P (withdrawWhere f s) := by
  simp only [withdrawWhere]
  split
  · exact hs
  · exact fileNotices_invariant hP (hP.apart hs rfl)

theorem expireNotices_invariant (hs : P s) : P (expireNotices s) := by
  simp only [expireNotices]
  split
  · exact hs
  · exact fileNotices_invariant hP (hP.apart hs (by simp [State.revisions]))

theorem reachIntervals_invariant (hs : P s) : P (reachIntervals s) := hP.apart hs (by simp [State.revisions])

theorem noticeBoundary_invariant (hs : P s) : P (noticeBoundary s) := by
  have hended : ∀ gone q, P (raiseEnded gone (s.withNotice q)) := fun _ _ =>
    hP.apart hs (by simp [State.revisions])
  have hfiled : ∀ b : Bool, ∀ u, P u → P (if b then u else fileNotices u) := fun _ _ hu =>
    iteInduction (fun _ => hu) fun _ => fileNotices_invariant hP hu
  simp only [noticeBoundary]
  split
  · exact chimeTrigger_invariant hP _ (hfiled _ _ (hended _ _))
  · exact hfiled _ _ (hended _ _)

/-! ### Shows and the clock -/

theorem noticeAtEntry_invariant (key : Nat) (st : ShowState) (hs : P s) : P (noticeAtEntry key st s) := by
  unfold noticeAtEntry
  split
  · exact withdrawWhere_invariant hP _ hs
  · exact withdrawWhere_invariant hP _ hs
  · exact hs

theorem enterState_invariant (publish : Bool) (key : Nat) (st : ShowState) (x : Option (StartedBy × Nat)) (hs : P s) :
    P (enterState publish key st x s) := by
  unfold enterState
  split
  · exact hs
  · rename_i sh _
    have hentered : P (noticeAtEntry key st (seatAtEntry key st (recomputeDoor (s.modifyShow key fun y =>
        { y with state := st, started := x.orElse fun _ => y.started }) sh.aud))) :=
      noticeAtEntry_invariant hP key st (seatAtEntry_invariant hP key st (recomputeDoor_invariant hP _
        (hP.apart hs rfl)))
    dsimp only
    split
    · exact raiseAll_invariant hP _ (publishShow_invariant hP key _ hentered)
    · exact raiseAll_invariant hP _ hentered

theorem evalOnce_invariant (publish : Bool) (key : Nat) (hs : P s) : P (evalOnce publish key s) := by
  unfold evalOnce
  split
  · split
    · exact enterState_invariant hP publish key _ _ hs
    · exact hs
  · exact hs

theorem evaluate_invariant (publish : Bool) (key : Nat) (hs : P s) : P (evaluate publish key s) :=
  have honce : ∀ u, P u → P (evalOnce publish key u) := fun _ hu => evalOnce_invariant hP publish key hu
  honce _ (honce _ (honce _ (honce s hs)))

theorem evaluateKeys_invariant (publish : Bool) (keys : List Nat) (hs : P s) : P (evaluateKeys publish keys s) :=
  foldl_inv P _ (fun _ k hu => evaluate_invariant hP publish k hu) keys s hs

theorem startChanged_invariant (key aud : Nat) (hs : P s) : P (startChanged key aud s) :=
  evaluate_invariant hP true key (publishShow_invariant hP key _ (hP.apart hs rfl))

theorem arrival_invariant (aud : Nat) (hs : P s) : P (arrival aud s) := by
  unfold arrival
  split
  · exact hs
  · split
    · exact evaluate_invariant hP true _ (enterState_invariant hP true _ _ _ hs)
    · exact hP.apart hs rfl

theorem rollDay_invariant (hs : P s) : P (rollDay s) := by
  have hvoided : ∀ keys, P (voidHolds keys s) := fun _ => hP.apart hs (by simp [State.revisions])
  have hshifted : ∀ keys f l c, P (((withdrawWhere f (voidHolds keys s)).withShowList l).withClock c) :=
    fun keys f _ _ => hP.apart (withdrawWhere_invariant hP f (hvoided keys)) (by simp [State.revisions])
  have hrolled : ∀ keys (u : State), P u → P (publishAll (recomputeDoors allAuds (evaluateKeys false keys u))) :=
    fun keys _ hu =>
      publishAll_invariant hP (recomputeDoors_invariant hP _ (evaluateKeys_invariant hP false keys hu))
  simp only [rollDay]
  split
  · exact hrolled _ _ (hshifted _ _ _ _)
  · exact raiseAll_invariant hP _ (hrolled _ _ (hshifted _ _ _ _))

theorem boundaryAt_invariant (r : MinReceiver) (hs : P s) : P (boundaryAt r s) := by
  cases r with
  | shows => exact evaluateKeys_invariant hP true _ hs
  | board => exact testWindows_invariant hP hs
  | notice => exact noticeBoundary_invariant hP hs
  | link => exact hP.apart hs rfl

theorem minuteBoundary_invariant (order : List MinReceiver) (hs : P s) : P (minuteBoundary order s) := by
  unfold minuteBoundary
  refine foldl_inv P _ (fun _ r hu => boundaryAt_invariant hP r hu) _ _ ?_
  split
  · exact rollDay_invariant hP hs
  · exact hP.apart hs rfl

theorem clockTick_invariant (order : List MinReceiver) (hs : P s) : P (clockTick order s) := by
  unfold clockTick
  split
  · split
    · exact minuteBoundary_invariant hP order hs
    · exact hP.apart hs rfl
  · exact hs

theorem clockSet_invariant (hs : P s) : P (clockSet s) :=
  setBeacon_invariant hP (withdrawWhere_invariant hP _ (testWindows_invariant hP (evaluateKeys_invariant hP true _ hs)))

/-! ### Reels -/

theorem fileReel_invariant (r : Nat) (hs : P s) : P (fileReel r s) := hP.filing _ _ hs

theorem cueReel_invariant (starting : Bool) (r : Nat) (hs : P s) : P (cueReel starting r s) :=
  fileReel_invariant hP r (hP.apart hs rfl)

theorem cueOrHold_invariant (r : Nat) (hs : P s) : P (cueOrHold r s) := by
  unfold cueOrHold
  split
  · exact cueReel_invariant hP true r hs
  · exact fileReel_invariant hP r (hP.apart hs rfl)

theorem tickReel_invariant (r : Nat) (hs : P s) : P (tickReel r s) := by
  unfold tickReel
  split
  · split
    · exact cueReel_invariant hP false r hs
    · exact hP.apart hs rfl
  · exact hs

theorem reelTick_invariant (hs : P s) : P (reelTick s) := by
  unfold reelTick
  split
  · exact foldl_inv P _ (fun _ r hu => tickReel_invariant hP r hu) _ s hs
  · exact hs

theorem holdReel_invariant (r : Nat) (hs : P s) : P (holdReel r s) := by
  unfold holdReel
  split
  · exact fileReel_invariant hP r (hP.apart hs rfl)
  · exact hs

theorem resumeReel_invariant (r : Nat) (hs : P s) : P (resumeReel r s) := by
  unfold resumeReel
  split
  · split
    · exact fileReel_invariant hP r (hP.apart hs rfl)
    · exact fileReel_invariant hP r (hP.apart hs rfl)
    · exact cueReel_invariant hP true r hs
  · exact hs

theorem holdReels_invariant (hs : P s) : P (holdReels s) :=
  foldl_inv P _ (fun _ r hu => holdReel_invariant hP r hu) _ s hs

theorem resumeReels_invariant (hs : P s) : P (resumeReels s) :=
  foldl_inv P _ (fun _ r hu => resumeReel_invariant hP r hu) _ s hs

/-! ### The house -/

theorem alertEntry_invariant (hs : P s) : P (alertEntry s) := by
  have hheld : P (holdReels (s.withAlert .alert)) := holdReels_invariant hP (hP.apart hs rfl)
  exact raiseAll_invariant hP _ (hP.filing .alert .update (chimeTrigger_invariant hP _
    (fileNotices_invariant hP (withNotice_invariant hP _ hheld))))

theorem alertReturn_invariant (hs : P s) : P (alertReturn s) := by
  have hresumed : P (resumeReels (s.withAlert .normal)) := resumeReels_invariant hP (hP.apart hs rfl)
  exact raiseAll_invariant hP _ (hP.filing .alert .update
    (fileNotices_invariant hP (withNotice_invariant hP _ hresumed)))

theorem readingChanged_invariant (active : Bool) (hs : P s) : P (readingChanged active s) := by
  cases active with
  | true =>
    show P (becomesActive s)
    unfold becomesActive
    split
    · exact alertEntry_invariant hP hs
    · exact hs
    · exact hP.apart hs rfl
  | false =>
    show P (becomesInactive s)
    unfold becomesInactive
    split
    · exact hP.apart hs rfl
    · exact hs

theorem sampleLine_invariant (i : Nat) (level : Level) (hs : P s) : P (sampleLine i level s) := by
  have hline : ∀ x, P (s.withLineState i x) := fun _ => hP.apart hs rfl
  simp only [sampleLine, lineQualified]
  split
  · split
    · exact arrival_invariant hP _ (hline _)
    · exact hline _
  · exact hline _

theorem sampleLines_invariant (lines : Word) (hs : P s) : P (sampleLines lines s) :=
  foldl_inv P _ (fun _ i hu => sampleLine_invariant hP i _ hu) _ s hs

theorem lineDue_invariant (i : Nat) (hs : P s) : P (lineDue i s) :=
  iteInduction (fun _ => sampleLine_invariant hP i _ hs) fun _ => hs

theorem sampleAlert_invariant (level : Level) (hs : P s) : P (sampleAlert level s) := by
  simp only [sampleAlert]
  split
  · exact readingChanged_invariant hP _ (hP.apart hs rfl)
  · exact hP.apart hs rfl

theorem writeAlertEntry_invariant (p : Polarity) (d : Nat) (hs : P s) : P (writeAlertEntry p d s) := by
  simp only [writeAlertEntry]
  split
  · exact hP.apart hs rfl
  · exact readingChanged_invariant hP _ (hP.apart hs rfl)

/-- Nothing is filed at start-up (R148). -/
theorem alertFound_invariant (level : Level) (hs : P s) : P (alertFound level s) := by
  obtain ⟨-, hjournal, hlink, -⟩ := levelTaken_frame level s
  exact hP.apart hs (by simp [State.revisions, alertFound_eq, hjournal, hlink])

theorem startUpAlertSample_invariant (level : Level) (hs : P s) : P (startUpAlertSample level s) := by
  simp only [startUpAlertSample]
  split
  · exact alertFound_invariant hP level hs
  · exact hP.apart hs rfl

theorem houseTick_invariant (lines : Word) (level : Level) (hs : P s) : P (houseTick lines level s) := by
  simp only [houseTick]
  split
  · exact sampleAlert_invariant hP level (sampleLines_invariant hP lines hs)
  · exact startUpAlertSample_invariant hP level (sampleLines_invariant hP lines hs)

/-! ### Requests -/

/-- A request keeps the property when its owner does: the port's part touches no revision. -/
theorem request_invariant {c : Instr} {owner : Owner} {t : State} (ho : ∀ {u}, P u → P (owner u).1) (hs : P s)
    (h : request c owner s = .next t) : P t := by
  cases h
  have hfinish : ∀ hd f r (u : State), P u → P (finishRequest hd f r u) := fun _ _ _ _ hu => hP.apart hu rfl
  unfold takeRequest
  split
  · exact hs
  · rename_i hd kind body _
    have hput : P (putInExecution hd (requestFrameOf hd kind body) s) := hP.apart hs (by simp [State.revisions])
    split
    · dsimp only
      split
      · exact hfinish _ _ _ _ hput
      · exact hfinish _ _ _ _ (ho hput)
    · exact hs

theorem request_apart_invariant {c : Instr} {owner : Owner} {t : State}
    (ho : ∀ u, (owner u).1.revisions = u.revisions) (hs : P s) (h : request c owner s = .next t) : P t :=
  request_invariant hP (fun {u} hu => hP.apart hu (ho u)) hs h

/-- A request whose rule is tests before an effect keeps the property when the effect does. -/
theorem request_tested_invariant {c : Instr} {owner : Owner} {tests : State → List (Bool × Result)}
    {done : State → State × Reply} {t : State} (ho : ∀ u, owner u = tested (tests u) u (done u))
    (hd : ∀ {u}, P u → P (done u).1) (hs : P s) (h : request c owner s = .next t) : P t :=
  request_invariant hP (fun {u} hu => by rw [ho]; exact tested_invariant hu (hd hu)) hs h

theorem countsChanged_invariant (key : Nat) (f : Show → Show) (body : List Byte) (hs : P s) :
    P (countsChanged key f body s).1 := availability_invariant hP key (hP.apart hs rfl)

theorem setCapacity_invariant (key zone n : Nat) (hs : P s) : P (setCapacity key zone n s).1 := by
  unfold setCapacity zoneRequest
  split
  · exact hs
  · split
    · exact hs
    · dsimp only
      split_ifs
      · exact hs
      · exact hs
      · exact hs
      · exact countsChanged_invariant hP _ _ _ hs

theorem confirmHold_invariant (p : Port) (slot gen : Nat) (hs : P s) : P (confirmHold p slot gen s).1 :=
  holdRequest_invariant (fun _ _ => availability_invariant hP _ (hP.apart hs (by simp [State.revisions]))) p slot gen hs

theorem releaseHold_invariant (p : Port) (slot gen : Nat) (hs : P s) : P (releaseHold p slot gen s).1 :=
  holdRequest_invariant (fun _ _ => availability_invariant hP _ (hP.apart hs (by simp [State.revisions]))) p slot gen hs

theorem extendHold_invariant (p : Port) (slot gen : Nat) (hs : P s) : P (extendHold p slot gen s).1 := by
  unfold extendHold
  split_ifs
  · exact hs
  · exact hs
  · exact holdRequest_invariant (fun _ _ => by
      split
      · exact hs
      · exact hP.apart hs rfl) p slot gen hs

theorem createShow_invariant (sh : Show) (hs : P s) : P (createShow sh s) :=
  evaluate_invariant hP true _ (raiseAll_invariant hP _ (publishShow_invariant hP _ _
    (recomputeDoor_invariant hP _ (hP.apart hs rfl))))

theorem loadShow_invariant (key day aud title start run delay : Nat) (caps : Nat × Nat × Nat) (hidden : Bool)
    (sibling : Option Nat) (sold withheld : Option Nat × Option Nat × Option Nat) (openNow : Bool) (hs : P s) :
    P (loadShow key day aud title start run delay caps hidden sibling sold withheld openNow s).1 := by
  simp only [loadShow]
  split
  · exact hs
  · exact createShow_invariant hP _ hs

theorem amendShow_invariant (key : Nat) (start run aud title : Option Nat) (sibling : Option (Option Nat))
    (hidden : Option Bool) (hs : P s) : P (amendShow key start run aud title sibling hidden s).1 := by
  have hpublished : ∀ auds f, P (publishShow key auds (recomputeDoors auds (s.modifyShow key f))) := fun auds f =>
    publishShow_invariant hP key auds (hP.apart hs (by simp [State.revisions]))
  unfold amendShow
  split
  · exact hs
  · dsimp only
    split_ifs
    · exact hs
    · exact hs
    · exact hpublished _ _
    · exact evaluate_invariant hP true key (hpublished _ _)

theorem openSales_invariant (key : Nat) (hs : P s) : P (openSales key s).1 := by
  unfold openSales
  split
  · exact hs
  · split
    · exact hs
    · split
      · exact evaluate_invariant hP true key (enterState_invariant hP true key _ _ hs)
      · exact hs
      · exact hs

theorem cancelShow_invariant (key : Nat) (hs : P s) : P (cancelShow key s).1 := by
  unfold cancelShow
  split
  · exact hs
  · split
    · exact enterState_invariant hP true key _ _ hs
    · exact hs

theorem removeShow_invariant (key : Nat) (hs : P s) : P (removeShow key s).1 := by
  unfold removeShow
  split
  · exact hs
  · split
    · exact hs
    · have hdropped : P (dropShow key (withdrawWhere (isLinkedTo [key]) s)) :=
        hP.apart (withdrawWhere_invariant hP _ hs) rfl
      exact raiseAll_invariant hP _ (publishShow_invariant hP key _ (recomputeDoor_invariant hP _ hdropped))

theorem defineTitle_invariant (index : Nat) (text : List Byte) (rating : Nat) (hs : P s) :
    P (defineTitle index text rating s).1 := by
  unfold defineTitle
  split
  · exact hs
  · exact publishTitle_invariant hP index (hP.apart hs rfl)

theorem rollDayRequest_invariant (hs : P s) : P (rollDayRequest s).1 := by
  unfold rollDayRequest
  split
  · exact clockSet_invariant hP (rollDay_invariant hP hs)
  · exact hs

theorem setClock_invariant (minute second : Nat) (hs : P s) : P (setClock minute second s).1 := by
  unfold setClock
  split
  · exact hs
  · exact clockSet_invariant hP (hP.apart hs rfl)

theorem policyChanged_invariant (old : Policy) (hs : P s) : P (policyChanged old s) := by
  have htimes : P (if timesChanged old s.policy then evaluateAll s else s) :=
    iteInduction (fun _ => evaluateKeys_invariant hP true _ hs) fun _ => hs
  have hbands : ∀ u, P u → P (if bandsChanged old u.policy then computeAll u else u) := fun u hu =>
    iteInduction (fun _ => computeAll_invariant hP hu) fun _ => hu
  simp only [policyChanged]
  exact iteInduction (fun _ => hbands _ htimes) fun _ => chimeEnableChanged_invariant hP _ (hbands _ htimes)

theorem setPolicy_invariant (l : List (Nat × Nat)) (hs : P s) : P (setPolicy l s).1 := by
  simp only [setPolicy]
  split_ifs
  · exact hs
  · exact hs
  · exact hs
  · exact policyChanged_invariant hP _ (hP.apart hs rfl)

theorem announce_invariant (x : Posting) (hs : P s) : P (announce x s) := by
  rw [announce_eq]
  exact hP.apart hs rfl

theorem postPlain_invariant (h : Hdr) (x : Posting) (hs : P s) : P (postPlain h x s) :=
  fileNotices_invariant hP (announce_invariant hP x (withNotice_invariant hP _ hs))

theorem postCancel_invariant (h : Hdr) (x : Posting) (key : Nat) (hs : P s) : P (postCancel h x key s) :=
  fileNotices_invariant hP (announce_invariant hP x (enterState_invariant hP true key _ _ (hP.apart hs rfl)))

theorem withdrawPosted_invariant (x : Posting) (sh : Show) (d : Nat) (hs : P s) : P (withdrawPosted x sh d s) :=
  hP.apart hs (by simp [State.revisions])

theorem postDelay_invariant (h : Hdr) (x : Posting) (sh : Show) (hs : P s) : P (postDelay h x sh s) := by
  have hposted : ∀ d u, P u → P (if 0 < d then announce x (takeSlot h x u) else u) := fun _ _ hu =>
    iteInduction (fun _ => announce_invariant hP x (withNotice_invariant hP _ hu)) fun _ => hu
  have hfiled : ∀ c : Prop, ∀ [Decidable c], ∀ u, P u → P (if c then fileNotices u else u) := fun _ _ _ hu =>
    iteInduction (fun _ => fileNotices_invariant hP hu) fun _ => hu
  have hwithdrawn : ∀ q f d u, u = (s.withNotice q).modifyShow sh.key f →
      P (withdrawPosted x sh d (if 0 < d then announce x (takeSlot h x u) else u)) := fun q f d u hu =>
    withdrawPosted_invariant hP x sh d (hposted d u (hu ▸ hP.apart hs rfl))
  simp only [postDelay]
  split
  · exact hfiled _ _ (hwithdrawn _ _ _ _ rfl)
  · exact startChanged_invariant hP _ _ (hfiled _ _ (hwithdrawn _ _ _ _ rfl))

theorem postNotice_invariant (h : Hdr) (cls prio : Nat) (scope : ScopeArg) (text : List Byte) (life : LifeArg)
    (key minutes : Option Nat) (hs : P s) : P (postNotice h cls prio scope text life key minutes s).1 := by
  unfold postNotice
  split
  · exact hs
  · split
    · exact hs
    · dsimp only
      split
      · exact postDelay_invariant hP h _ _ hs
      · exact postCancel_invariant hP h _ _ hs
      · exact postPlain_invariant hP h _ hs

theorem noticeWithdrawn_invariant (p : Port) (slot : Nat) (hs : P s) : P (noticeWithdrawn p slot s) := by
  unfold noticeWithdrawn
  split
  · exact fileNotices_invariant hP (hP.apart hs (by simp [State.revisions]))
  · exact hs

theorem clearReel_invariant (r : Nat) (hs : P s) : P (clearReel r s).1 := by
  have hwritten : ∀ x, P (s.withReelAt r x) := fun _ => hP.apart hs rfl
  simp only [clearReel]
  split_ifs
  · exact hs
  · exact hs
  · exact hwritten _
  · exact fileReel_invariant hP r (hwritten _)

theorem stopReel_invariant (r : Nat) (hs : P s) : P (stopReel r s).1 := by
  simp only [stopReel]
  split_ifs
  · exact hs
  · exact hs
  · exact fileReel_invariant hP r (hP.apart hs rfl)

theorem startReel_invariant (r : Nat) (hs : P s) : P (startReel r s).1 := by
  unfold startReel
  split_ifs
  · exact hs
  · exact hs
  · exact cueOrHold_invariant hP r hs
  · exact hs

theorem setAlertLine_invariant (polarity debounce : Nat) (hs : P s) : P (setAlertLine polarity debounce s).1 := by
  unfold setAlertLine
  split
  · exact hs
  · split
    · exact hs
    · exact writeAlertEntry_invariant hP _ _ hs

theorem clearAlert_invariant (hs : P s) : P (clearAlert s).1 := by
  unfold clearAlert
  split
  · exact hs
  · exact hs
  · exact alertReturn_invariant hP hs

end

/-! ### The law as a property of the state -/

/-- The journal law as a property of the state. -/
def JournalKept (s : State) : Prop := JournalLaw s.journal

theorem JournalKept.of_journal {s t : State} (hs : JournalKept s) (h : t.journal = s.journal) : JournalKept t := by
  rwa [JournalKept, h]

theorem journalKept_keptByFiling : KeptByFiling JournalKept where
  filing := fun {s} t f hs => by
    rw [JournalKept, file_journal]
    exact JournalLaw.filed hs t f
  apart := fun hs h => hs.of_journal (Prod.mk.inj h).1

theorem journalKept_reset {s : State} (h : s.journal = ⟨0, 0, []⟩) : JournalKept s := by
  rw [JournalKept, h]
  exact journalLaw_empty (Nat.zero_le _)

theorem journalKept_clearDay (s : State) : JournalKept (clearDay s) := by
  simp only [JournalKept, clearDay, raiseAll_frame, journalDayClear_journal]
  exact journalLaw_dayCleared _

theorem JournalKept.startUp {s : State} (hs : JournalKept s) (lines : Word) (holds : Bool) :
    JournalKept (startUp lines holds s) :=
  iteInduction (fun _ => journalKept_reset rfl) fun _ => hs

theorem JournalKept.msTickAt {s : State} (hs : JournalKept s) (lines : Word) (level : Level) (r : MsReceiver) :
    JournalKept (msTickAt lines level r s) := by
  cases r with
  | house => exact houseTick_invariant journalKept_keptByFiling lines level hs
  | link => exact hs.of_journal (by simp [Machine.msTickAt])
  | ports => exact hs.of_journal rfl
  | chime => exact hs.of_journal rfl

theorem JournalKept.secTickAt {s : State} (hs : JournalKept s) (order : List MinReceiver) (r : SecReceiver) :
    JournalKept (secTickAt order r s) := by
  cases r with
  | clock => exact clockTick_invariant journalKept_keptByFiling order hs
  | seat => exact seatTick_invariant journalKept_keptByFiling hs
  | reel => exact reelTick_invariant journalKept_keptByFiling hs
  | link => exact hs.of_journal rfl

/-! ### What leaves the journal as it is -/

theorem panelGrant_journal (s : State) : (panelGrant s).journal = s.journal := by
  unfold panelGrant
  repeat' split
  all_goals rfl

theorem panelFrameSent_journal (s : State) : (panelFrameSent s).journal = s.journal := by
  unfold panelFrameSent
  repeat' split
  all_goals rfl

theorem panelAnswerStart_journal (s : State) : (panelAnswerStart s).journal = s.journal := by
  unfold panelAnswerStart
  repeat' split
  all_goals rfl

theorem panelAnswer_journal (bytes : List Byte) (s : State) : (panelAnswer bytes s).journal = s.journal := by
  unfold panelAnswer
  split
  · split
    · rfl
    · simp
  · rfl

theorem setPanel_journal (addr : Nat) (present : Bool) (view : ViewArg) (group : Nat) (s : State) :
    (setPanel addr present view group s).1.journal = s.journal := by
  unfold setPanel
  split_ifs
  · rfl
  · rfl
  · split
    · rfl
    · dsimp only
      split <;> rfl

/-! ### Requests that touch no revision -/

theorem setCauseMask_revisions (p : Port) (mask : Nat) (s : State) :
    (setCauseMask p mask s).1.revisions = s.revisions := by
  simp only [setCauseMask]
  split <;> rfl

theorem setPoolSplit_revisions (value : Nat) (s : State) : (setPoolSplit value s).1.revisions = s.revisions := by
  simp only [setPoolSplit]
  split_ifs <;> rfl

theorem readSeatStatus_revisions (clear : Bool) (s : State) : (readSeatStatus clear s).1.revisions = s.revisions := by
  cases clear <;> rfl

theorem portStatus_revisions (clear : Bool) (q : Port) (s : State) :
    (portStatus clear q s).1.revisions = s.revisions := by
  cases clear <;> rfl

theorem defineSpot_revisions (key media duration : Nat) (title : Option Nat) (s : State) :
    (defineSpot key media duration title s).1.revisions = s.revisions := by
  simp only [defineSpot]
  split_ifs <;> rfl

theorem removeSpot_revisions (key : Nat) (s : State) : (removeSpot key s).1.revisions = s.revisions := by
  unfold removeSpot
  split_ifs <;> rfl

theorem patternWritten_revisions (pattern : Nat) (notes : List (Nat × Nat)) (s : State) :
    (patternWritten pattern notes s).revisions = s.revisions := by
  unfold patternWritten
  split <;> rfl

theorem setStartLine_revisions (line aud edge debounce : Nat) (s : State) :
    (setStartLine line aud edge debounce s).1.revisions = s.revisions := by
  unfold setStartLine
  split
  · rfl
  · split
    · rfl
    · split <;> rfl

theorem saveSetup_revisions (s : State) : (saveSetup s).1.revisions = s.revisions := by
  unfold saveSetup
  split <;> rfl

theorem storeCheckDone_revisions (holds : Bool) (s : State) : (storeCheckDone holds s).revisions = s.revisions := by
  unfold storeCheckDone
  split_ifs <;> rfl

theorem noteDue_revisions (s : State) : (noteDue s).revisions = s.revisions := by
  unfold noteDue
  split
  · split <;> rfl
  · rfl

/-! ### Every command -/

theorem ticking_invariant {P : State → Prop} {f : State → State} {s t : State} (hs : P s)
    (h : (Host.Outcome.next (whenTicking f s) : StepOutcome) = .next t) (hf : ∀ {u}, P u → P (f u)) : P t := by
  cases h
  exact iteInduction (fun _ => hs) fun _ => hf hs

theorem running_invariant {P : State → Prop} {f : State → State} {s t : State} (hs : P s)
    (h : (Host.Outcome.next (whenRunning f s) : StepOutcome) = .next t) (hf : ∀ {u}, P u → P (f u)) : P t := by
  cases h
  exact iteInduction (fun _ => hf hs) fun _ => hs

/-- An event of the running part that either leaves the journal or has no effect. -/
theorem JournalKept.running {f : State → State} {s t : State} (hs : JournalKept s)
    (h : (Host.Outcome.next (whenRunning f s) : StepOutcome) = .next t) (hf : ∀ u, (f u).journal = u.journal) :
    JournalKept t :=
  running_invariant hs h fun {u} hu => hu.of_journal (hf u)

theorem JournalKept.exec {s t : State} (hs : JournalKept s) (c : Instr) (h : exec c s = .next t) : JournalKept t := by
  have hP := journalKept_keptByFiling
  cases c with
  | hardReset =>
    cases h
    exact journalKept_reset rfl
  | startUp w holds =>
    cases h
    exact hs.startUp w holds
  | startUpAlertFound l =>
    cases h
    exact iteInduction (fun _ => alertFound_invariant hP l hs) fun _ => hs
  | tick1ms w l order =>
    exact ticking_invariant hs h (foldl_inv JournalKept _ (fun _ r hu => hu.msTickAt w l r) _ _)
  | tick1s order m =>
    exact ticking_invariant hs h (foldl_inv JournalKept _ (fun _ r hu => hu.secTickAt m r) _ _)
  | minuteBoundary order =>
    exact ticking_invariant hs h fun hu => iteInduction (fun _ => minuteBoundary_invariant hP order hu) fun _ => hu
  | holdExpiry slot => exact ticking_invariant hs h (expiryDue_invariant hP slot)
  | reelItemEnd r =>
    exact ticking_invariant hs h fun hu => iteInduction (fun _ => cueReel_invariant hP false r hu) fun _ => hu
  | startLineQualified i => exact ticking_invariant hs h (lineDue_invariant hP i)
  | alertLineActive | alertLineInactive =>
    exact running_invariant hs h fun hu => iteInduction (fun _ => sampleAlert_invariant hP _ hu) fun _ => hu
  | chimeNoteEnd => exact ticking_invariant hs h fun hu => hP.apart hu (noteDue_revisions _)
  | noticeExpiry =>
    exact ticking_invariant hs h fun hu => iteInduction (fun _ => expireNotices_invariant hP hu) fun _ => hu
  | noticeInterval =>
    exact ticking_invariant hs h fun hu => iteInduction (fun _ => reachIntervals_invariant hP hu) fun _ => hu
  | frameGapTimeout _ | requestFrame _ _ | portByteReceived _ _ _ | answerSent _ => exact hs.running h fun _ => rfl
  | panelPollDue _ | panelProbeDue _ | beaconSend | beaconEnd | storeEraseDone | storeWriteDone | storeFault =>
    exact running_invariant hs h fun hu => iteInduction (fun _ => hu.of_journal rfl) fun _ => hu
  | panelGrant => exact hs.running h panelGrant_journal
  | panelFrameSent => exact hs.running h panelFrameSent_journal
  | panelAnswerStart => exact hs.running h panelAnswerStart_journal
  | panelAnswer bytes => exact hs.running h (panelAnswer_journal bytes)
  | responseTimeout => exact hs.running h fun u => by simp
  | storeCheckDone holds => exact running_invariant hs h fun hu => hP.apart hu (storeCheckDone_revisions holds _)
  | holdSeats hd key zone n =>
    exact request_tested_invariant hP (holdSeats_tested hd key zone n)
      (fun hu => availability_invariant hP key (hP.apart hu rfl)) hs h
  | confirmHold hd slot gen => exact request_invariant hP (confirmHold_invariant hP hd.port slot gen) hs h
  | releaseHold hd slot gen => exact request_invariant hP (releaseHold_invariant hP hd.port slot gen) hs h
  | extendHold hd slot gen => exact request_invariant hP (extendHold_invariant hP hd.port slot gen) hs h
  | queryHold hd slot gen =>
    exact request_invariant hP (fun hu => holdRequest_invariant (fun _ _ => hu) hd.port slot gen hu) hs h
  | sellNow hd key zone n =>
    exact request_tested_invariant hP (sellNow_tested key zone n) (countsChanged_invariant hP key _ _) hs h
  | refundSeats hd key zone n =>
    exact request_tested_invariant hP (refundSeats_tested key zone n) (countsChanged_invariant hP key _ _) hs h
  | queryShow hd key => exact request_apart_invariant hP (fun u => by rw [queryShow_state]) hs h
  | listShows hd day start => exact request_apart_invariant hP (fun u => by rw [listShows_state]) hs h
  | postNotice hd c p sc text life key m =>
    exact request_invariant hP (postNotice_invariant hP hd c p sc text life key m) hs h
  | withdrawNotice hd slot gen =>
    exact request_tested_invariant hP (withdrawNotice_tested hd.port slot gen)
      (noticeWithdrawn_invariant hP hd.port slot) hs h
  | readNotices _ | readAlert _ | readCauses _ | readPool _ | readBoard _ _ | readChime _ | readHouseLines _
  | readJournal _ _ | readPolicy _ | readClock _ => exact request_apart_invariant hP (fun _ => rfl) hs h
  | setCauseMask hd mask => exact request_apart_invariant hP (setCauseMask_revisions hd.port mask) hs h
  | readPortStatus hd sel clear =>
    exact request_tested_invariant hP (readPortStatus_tested hd.port sel clear)
      (fun hu => hP.apart hu (portStatus_revisions clear _ _)) hs h
  | loadShow hd key day aud title start run delay caps hidden sib sold withheld now =>
    exact request_invariant hP
      (loadShow_invariant hP key day aud title start run delay caps hidden sib sold withheld now) hs h
  | amendShow hd key start run aud title sib hidden =>
    exact request_invariant hP (amendShow_invariant hP key start run aud title sib hidden) hs h
  | openSales hd key => exact request_invariant hP (openSales_invariant hP key) hs h
  | cancelShow hd key => exact request_invariant hP (cancelShow_invariant hP key) hs h
  | removeShow hd key => exact request_invariant hP (removeShow_invariant hP key) hs h
  | readShow hd key => exact request_apart_invariant hP (fun u => by rw [readShow_state]) hs h
  | defineTitle hd index text rating => exact request_invariant hP (defineTitle_invariant hP index text rating) hs h
  | rollDay hd => exact request_invariant hP (rollDayRequest_invariant hP) hs h
  | dayClear hd => exact request_invariant hP (fun {u} _ => journalKept_clearDay u) hs h
  | setPoolSplit hd value => exact request_apart_invariant hP (setPoolSplit_revisions value) hs h
  | setCapacity hd key zone value => exact request_invariant hP (setCapacity_invariant hP key zone value) hs h
  | withhold hd key zone n =>
    exact request_tested_invariant hP (withhold_tested key zone n) (countsChanged_invariant hP key _ _) hs h
  | unwithhold hd key zone n =>
    exact request_tested_invariant hP (unwithhold_tested key zone n) (countsChanged_invariant hP key _ _) hs h
  | readSeatStatus hd clear => exact request_apart_invariant hP (readSeatStatus_revisions clear) hs h
  | readHold hd slot => exact request_apart_invariant hP (fun u => by rw [readHold_state]) hs h
  | readDoor hd aud => exact request_apart_invariant hP (fun u => by rw [readDoor_state]) hs h
  | defineSpot hd key media d title => exact request_apart_invariant hP (defineSpot_revisions key media d title) hs h
  | removeSpot hd key => exact request_apart_invariant hP (removeSpot_revisions key) hs h
  | buildReel hd r items step =>
    exact request_tested_invariant hP (buildReel_tested r items step)
      (fun hu => cueOrHold_invariant hP r (hP.apart hu rfl)) hs h
  | clearReel hd r => exact request_invariant hP (clearReel_invariant hP r) hs h
  | stopReel hd r => exact request_invariant hP (stopReel_invariant hP r) hs h
  | startReel hd r => exact request_invariant hP (startReel_invariant hP r) hs h
  | readSpot hd key => exact request_apart_invariant hP (fun u => by rw [readSpot_state]) hs h
  | readReel hd r => exact request_apart_invariant hP (fun u => by rw [readReel_state]) hs h
  | setChimePattern hd p notes =>
    exact request_tested_invariant hP (setChimePattern_tested p notes)
      (fun hu => hP.apart hu (patternWritten_revisions p notes _)) hs h
  | setStartLine hd line aud edge d =>
    exact request_apart_invariant hP (setStartLine_revisions line aud edge d) hs h
  | setAlertLine hd p d => exact request_invariant hP (setAlertLine_invariant hP p d) hs h
  | clearAlert hd => exact request_invariant hP (clearAlert_invariant hP) hs h
  | setPanel hd a present view g =>
    exact request_invariant hP (fun {u} hu => hu.of_journal (setPanel_journal a present view g u)) hs h
  | linkReset hd => exact request_invariant hP (fun hu => hu.of_journal rfl) hs h
  | readPanel hd a clear =>
    exact request_tested_invariant hP (readPanel_tested a clear)
      (fun {u} hu => hu.of_journal (by rw [panelRead_blocks])) hs h
  | setPolicy hd l => exact request_invariant hP (setPolicy_invariant hP l) hs h
  | setClock hd m sec => exact request_invariant hP (setClock_invariant hP m sec) hs h
  | saveSetup hd => exact request_apart_invariant hP saveSetup_revisions hs h

/-- Settles O6: a step is a command taken on a state with the queue's rest, and no command breaks the law: filings keep
it, Day Clear and a reset leave a journal without entries. -/
theorem stepKeepsTheJournalLaw : Obligations.StepKeepsTheJournalLaw := by
  intro s t hs h
  unfold step at h
  split at h
  · cases h
    exact hs
  · rename_i c rest _
    have hp : JournalKept (s.withPending rest) := hs
    exact hp.exec c h

end Sys2Proof.Machine

/-! ## What a failed transaction makes of its panel (file 09) -/

namespace Sys2Proof.Machine

/-! ### What is recorded of a failure (R181 to R183) -/

/-- The error record after a NAK's report (R182). -/
def ErrorRecord.heard (e : ErrorRecord) : Failure → ErrorRecord
  | .nak _ report => if report = 0 then e else { e with report := some report }
  | _ => e

/-- The error record of a failure: it is counted, and a NAK's report is kept. -/
def ErrorRecord.failed (e : ErrorRecord) (f : Failure) : ErrorRecord := (e.count f).heard f

/-- The minute of last answer after a failure: a NAK is an answer (R172). -/
def Failure.lastAnswer (clock : Clock) (last : Option Nat) : Failure → Option Nat
  | .nak _ _ => if clock.valid then some clock.minute else last
  | _ => last

/-- A failure of a panel that is not OFFLINE is recorded; a NAK brings an UNKNOWN panel to SYNCING (R181). -/
theorem failCounted_eq (clock : Clock) (f : Failure) (p : Panel) : p.failCounted clock f =
    { p with
      error := ({ p.error with recovered := false } : ErrorRecord).failed f
      lastAnswer := f.lastAnswer clock p.lastAnswer
      state := if p.state = .unknown ∧ f.isNak = true then .syncing else p.state } := by
  cases f with
  | nak reason report =>
    by_cases hstate : p.state = .unknown
    · rw [if_pos ⟨hstate, rfl⟩]
      simp only [Panel.failCounted, hstate]
      rfl
    · rw [if_neg fun h => hstate h.1]
      unfold Panel.failCounted
      split
      · contradiction
      · rfl
  | timeout | check =>
    rw [if_neg fun h => Bool.false_ne_true h.2]
    rfl

/-- A failed probe is recorded; a NAK brings its panel to SYNCING (R182). -/
theorem probeFail_eq (clock : Clock) (f : Failure) (p : Panel) : p.probeFail clock f =
    if f.isNak = true then
      ({ p with error := p.error.failed f, resync := false, retry := 0,
                lastAnswer := f.lastAnswer clock p.lastAnswer } : Panel).toSyncing
    else { p with error := p.error.failed f, resync := false, retry := 0 } := by
  cases f <;> rfl

end Sys2Proof.Machine

/-! ## The panels' revisions (O7) -/

namespace Sys2Proof.Machine

/-! ### Revisions within a bound: what each operation on a panel keeps (R172, R177, R178) -/

section
variable {cur : Nat} {p : Panel}

theorem Panel.within.shown_le (h : p.within cur) : p.shown ≤ cur := h.1

theorem Panel.within.batch_le (h : p.within cur) {b : Batch} {r : Nat} (hb : p.batch = some b) (hr : b.rev = some r) :
    r ≤ cur := h.2.1 b r hb hr

theorem Panel.within.snapshot_le (h : p.within cur) {f : Refresh} (hf : p.refresh = some f) : f.snapshot ≤ cur :=
  h.2.2 f hf

theorem Panel.within.mono {m n : Nat} (h : p.within m) (hmn : m ≤ n) : p.within n :=
  ⟨h.shown_le.trans hmn, fun _ _ hb hr => (h.batch_le hb hr).trans hmn, fun _ hf => (h.snapshot_le hf).trans hmn⟩

theorem Panel.within_of_none (hs : p.shown ≤ cur) (hb : p.batch = none) (hr : p.refresh = none) : p.within cur :=
  ⟨hs, fun b r h => by simp [hb] at h, fun f h => by simp [hr] at h⟩

/-- A batch with its revision within the bound takes the place of the one in hand. -/
theorem Panel.within.withBatch (h : p.within cur) {b : Option Batch} (hb : ∀ x r, b = some x → x.rev = some r → r ≤ cur) :
    ({ p with batch := b } : Panel).within cur :=
  ⟨h.shown_le, hb, fun _ => h.snapshot_le⟩

theorem Panel.within.dropBatch (h : p.within cur) : ({ p with batch := none } : Panel).within cur :=
  h.withBatch nofun

/-- A refresh at a snapshot within the bound takes the place of the one in progress. -/
theorem Panel.within.withRefresh (h : p.within cur) {f : Option Refresh} (hf : ∀ x, f = some x → x.snapshot ≤ cur) :
    ({ p with refresh := f } : Panel).within cur :=
  ⟨h.shown_le, fun _ _ => h.batch_le, hf⟩

theorem Panel.within.toSyncing (h : p.within cur) : p.toSyncing.within cur := by
  unfold Panel.toSyncing
  split
  · exact Panel.within_of_none h.shown_le rfl rfl
  · exact Panel.within_of_none h.shown_le rfl rfl
  · exact Panel.within_of_none h.shown_le rfl rfl
  · exact h

theorem Panel.within.markRestart (h : p.within cur) : p.markRestart.within cur :=
  h.withRefresh fun x hx => by
    obtain ⟨f, hf, rfl⟩ := Option.map_eq_some_iff.mp hx
    exact h.snapshot_le (f := f) hf

theorem Panel.within.classify (h : p.within cur) (j : Journal) : (p.classify j).within cur := by
  unfold Panel.classify
  split_ifs
  · exact h.toSyncing
  · exact h
  · exact h

theorem Panel.within.handOff (h : p.within cur) (j : Journal) : (p.handOff j).within cur := by
  have hbelow : ∀ q : Panel, q.within cur → (q.restartBelow j.floor).within cur := fun q hq => by
    unfold Panel.restartBelow
    split
    · exact iteInduction (fun _ => hq.markRestart) fun _ => hq
    · exact hq
  exact hbelow _ (iteInduction (fun _ => h.classify j) fun _ => h)

theorem Panel.within_atWrap (p : Panel) (cur : Nat) : p.atWrap.within cur :=
  Panel.within_of_none (Nat.zero_le cur) rfl rfl

theorem Panel.within_ofConfig (c : PanelConfig) (cur : Nat) : (Panel.ofConfig c).within cur :=
  Panel.within_of_none (Nat.zero_le cur) rfl rfl

/-! ### The grant (R177 to R179) -/

theorem Panel.within.beginRefresh {s : State} (h : p.within s.journal.cur) :
    (Machine.beginRefresh s p).within s.journal.cur := by
  refine ⟨h.shown_le, fun b r hb hr => ?_, fun f hf => ?_⟩
  · cases hb
    cases hr
  · cases hf
    exact Nat.le_refl _

theorem Panel.within.grantRefresh {s : State} (h : p.within s.journal.cur) :
    (Machine.grantRefresh s p).within s.journal.cur := by
  unfold Machine.grantRefresh
  split
  · exact iteInduction (fun _ => h.beginRefresh) fun _ => h.withBatch fun x r hx hr => by cases hx; cases hr
  · exact h.beginRefresh

/-- An UPDATE's batch revision is that of an entry of the journal, or the current one. -/
theorem updateBatch_rev_le {s : State} (hj : JournalLaw s.journal) {v : Nat} {c : PanelConfig} {n : Nat}
    {list : List Entry} {more : Bool} {cur r : Nat} (hfirst : s.journal.first v c n = .entries list more cur)
    (hr : (updateBatch s p list more cur).rev = some r) : r ≤ s.journal.cur := by
  obtain ⟨-, -, hrange, -⟩ := hj
  unfold Journal.first at hfirst
  split at hfirst
  · cases hfirst
  · obtain ⟨rfl, -, rfl⟩ := JournalAnswer.entries.inj hfirst
    have hlast : ∀ o : Option Entry, (∀ e, o = some e → e.rev ≤ s.journal.cur) →
        (o.map (·.rev)).getD s.journal.cur ≤ s.journal.cur := fun o ho => by
      cases o with
      | none => exact Nat.le_refl _
      | some e => exact ho e rfl
    cases hr
    split
    · exact hlast _ fun e he =>
        (hrange e (List.mem_of_mem_filter (List.mem_of_mem_take (List.mem_of_getLast? he)))).2
    · exact Nat.le_refl _

theorem Panel.within.grantPanel {s : State} (hj : JournalLaw s.journal) (h : p.within s.journal.cur) :
    (Machine.grantPanel s p).1.within s.journal.cur := by
  unfold Machine.grantPanel
  split
  · exact h
  · split
    · exact h.grantRefresh
    · exact h.grantRefresh
    · split
      · exact h.toSyncing.beginRefresh
      · exact h
      · rename_i hfirst
        exact h.withBatch fun x r hx hr => by
          cases hx
          exact updateBatch_rev_le hj hfirst hr
    · exact h
    · exact h

/-! ### The end of a transaction (R180 to R182) -/

/-- The batch in hand takes effect: the revision shown is the batch's, or the snapshot's. -/
theorem Panel.within.batchDone (h : p.within cur) (j : Journal) (carried : Bool) : (p.batchDone j carried).within cur := by
  unfold Panel.batchDone
  split
  · exact h
  · exact h
  · rename_i b hb
    dsimp only
    split
    · rename_i rev _ hrev
      exact ⟨h.batch_le hb hrev, nofun, fun _ => h.snapshot_le⟩
    · rename_i r _ hr
      exact h.dropBatch.withRefresh fun x hx => by
        cases hx
        exact h.snapshot_le (f := r) hr
    · rename_i r _ hr
      exact (Panel.within_of_none (h.snapshot_le hr) rfl rfl : Panel.within cur { p with
        batch := none, shown := r.snapshot, refresh := none }).classify j
    · exact h.dropBatch

theorem Panel.within.answeredState (h : p.within cur) : p.answeredState.within cur := by
  unfold Panel.answeredState
  split
  · exact h
  · exact h.toSyncing
  · exact h

theorem Panel.within.requested (h : p.within cur) (request fault : Nat) : (p.requested request fault).within cur := by
  have hme : p.refreshMe.within cur := by
    unfold Panel.refreshMe
    split
    · exact h.markRestart
    · exact h.markRestart
    · exact h.toSyncing.markRestart
  unfold Panel.requested
  exact iteInduction (fun _ => hme) fun _ => iteInduction (fun _ => h) fun _ => h

theorem Panel.within.resyncDone (h : p.within cur) : p.resyncDone.within cur :=
  iteInduction (motive := fun q : Panel => q.within cur) (fun _ => h.toSyncing.markRestart) fun _ => h

theorem Panel.within.reclassify (h : p.within cur) (j : Journal) : (p.reclassify j).within cur :=
  iteInduction (motive := fun q : Panel => q.within cur) (fun _ => h.classify j) fun _ => h

theorem Panel.within.ack (h : p.within cur) (j : Journal) (clock : Clock) (carried : Bool) (r : PanelReply) :
    (p.ack j clock carried r).within cur := by
  have hrecovered : ((p.answered clock r.report).recover).within cur := h
  exact (((hrecovered.batchDone j carried).answeredState.requested r.request r.fault).resyncDone).reclassify j

theorem Panel.within.syncUnlessUnknown (h : p.within cur) : p.syncUnlessUnknown.within cur :=
  iteInduction (motive := fun q : Panel => q.within cur) (fun _ => h) fun _ => h.toSyncing

theorem Panel.within.failStep (h : p.within cur) (resync : Bool) : (p.failStep resync).within cur := by
  unfold Panel.failStep
  split_ifs
  · exact (Panel.within.markRestart (p := { p with retry := p.retry + 1, batch := none }) h.dropBatch).syncUnlessUnknown
  · exact h
  · exact Panel.within.syncUnlessUnknown (Panel.within_of_none h.shown_le rfl rfl)
  · exact Panel.within_of_none h.shown_le rfl rfl

theorem Panel.within.fail (h : p.within cur) (clock : Clock) (f : Failure) : (p.fail clock f).within cur :=
  Panel.within.failStep (p := { p.failCounted clock f with resync := false }) (by rw [failCounted_eq]; exact h) p.resync

theorem Panel.within.probeFail (h : p.within cur) (clock : Clock) (f : Failure) : (p.probeFail clock f).within cur := by
  rw [probeFail_eq]
  exact iteInduction (motive := fun q : Panel => q.within cur) (fun _ => Panel.within.toSyncing h) fun _ => h

/-! ### Ticks, Set Panel and Link Reset (R172, R187, R188) -/

theorem Panel.within.idleTick (h : p.within cur) : p.idleTick.within cur :=
  iteInduction (motive := fun q : Panel => q.within cur) (fun _ => h) fun _ => h

theorem Panel.within.reconfigured (h : p.within cur) (c : PanelConfig) (flight : Bool) :
    (p.reconfigured c flight).within cur := by
  have hnone : ∀ q : Panel, q.shown = 0 → q.batch = p.batch → q.refresh = p.refresh → q.within cur :=
    fun q hs hb hr => ⟨hs ▸ Nat.zero_le cur, fun _ _ hx => h.batch_le (hb ▸ hx), fun _ hx => h.snapshot_le (hr ▸ hx)⟩
  have hconfig : Panel.within cur { p with config := c } := h
  simp only [Panel.reconfigured]
  split_ifs
  · exact hnone _ rfl rfl rfl
  · exact h
  · exact Panel.within_of_none (Nat.zero_le cur) rfl rfl
  · exact h
  · exact h
  · split
    · exact hconfig.markRestart.dropBatch
    · exact hconfig.markRestart.dropBatch
    · exact hconfig.toSyncing
    · exact hconfig.toSyncing
    · exact h

theorem Panel.within.linkReset (h : p.within cur) : p.linkReset.within cur :=
  iteInduction (motive := fun q : Panel => q.within cur) (fun _ => h)
    fun _ => Panel.within_of_none (Nat.zero_le cur) rfl rfl

end

/-! ### The law as a property of the state -/

/-- The panel law with the journal law it rests on: an UPDATE takes its batch revision from the journal's entries. -/
structure RevisionsKept (s : State) : Prop where
  journal : JournalLaw s.journal
  panels : PanelLaw s

theorem RevisionsKept.apart {s t : State} (hs : RevisionsKept s) (h : t.revisions = s.revisions) : RevisionsKept t := by
  obtain ⟨hjournal, hpanels⟩ := Prod.mk.inj h
  exact ⟨hjournal ▸ hs.journal, fun p hp => hjournal ▸ hs.panels p (hpanels ▸ hp)⟩

/-- What leaves the journal keeps the law when every panel it leaves is within the journal's revision. -/
theorem RevisionsKept.of_panels {s t : State} (hs : RevisionsKept s) (hj : t.journal = s.journal)
    (hp : ∀ p ∈ t.link.panels, p.within s.journal.cur) : RevisionsKept t :=
  ⟨hj ▸ hs.journal, fun p h => hj ▸ hp p h⟩

theorem RevisionsKept.mapPanels {s t : State} (hs : RevisionsKept s) (g : Panel → Panel) (hj : t.journal = s.journal)
    (hl : t.link.panels = s.link.panels.map g) (hg : ∀ p, p.within s.journal.cur → (g p).within s.journal.cur) :
    RevisionsKept t :=
  hs.of_panels hj fun p hp => by
    rw [hl] at hp
    obtain ⟨q, hq, rfl⟩ := List.mem_map.mp hp
    exact hg q (hs.panels q hq)

theorem RevisionsKept.panelAt {s : State} (hs : RevisionsKept s) (addr : Nat) :
    (s.panelAt addr).within s.journal.cur := by
  unfold State.panelAt
  cases hp : s.link.panels[addr - 1]? with
  | none => exact Panel.within_ofConfig _ _
  | some p => exact hs.panels p (List.mem_of_getElem? hp)

theorem RevisionsKept.withPanelAt {s : State} (hs : RevisionsKept s) (addr : Nat) {x : Panel}
    (hx : x.within s.journal.cur) : RevisionsKept (s.withPanelAt addr x) :=
  hs.of_panels rfl fun p hp => by
    rcases List.mem_or_eq_of_mem_set hp with hold | rfl
    · exact hs.panels p hold
    · exact hx

/-! ### Filing, Day Clear, reset and start-up -/

theorem filed_cur (j : Journal) (t : Target) (f : Form) :
    (j.filed t f).cur = if Config.maxRevision ≤ j.cur then 1 else j.cur + 1 := by
  unfold Journal.filed
  split
  · rfl
  · show ((j.coalesce t).dropOldest).cur + 1 = _
    rw [dropOldest_cur]
    rfl

theorem dayCleared_cur (j : Journal) : j.dayCleared.cur = if Config.maxRevision ≤ j.cur then 1 else j.cur + 1 := by
  unfold Journal.dayCleared
  split <;> rfl

/-- A hand-off keeps the law when the journal's revision has not gone down. -/
theorem panelLaw_handOff {s u : State} (hs : PanelLaw s) (hl : u.link.panels = s.link.panels)
    (hcur : s.journal.cur ≤ u.journal.cur) : PanelLaw (handOff u) := fun p hp => by
  obtain ⟨q, hq, rfl⟩ := List.mem_map.mp hp
  exact ((hs q (hl ▸ hq)).mono hcur).handOff u.journal

/-- After the wrap the panels hold no revision, whatever the journal's. -/
theorem panelLaw_panelsAtWrap (u : State) : PanelLaw (panelsAtWrap u) := fun p hp => by
  obtain ⟨q, -, rfl⟩ := List.mem_map.mp hp
  exact q.within_atWrap _

theorem RevisionsKept.file {s : State} (hs : RevisionsKept s) (t : Target) (f : Form) : RevisionsKept (file t f s) := by
  refine ⟨by rw [file_journal]; exact hs.journal.filed t f, ?_⟩
  have hforced : ∀ b : Bool, ∀ u, u = (if b then raise .programme .refreshForced (s.withJournal (s.journal.filed t f))
      else s.withJournal (s.journal.filed t f)) →
      u.link.panels = s.link.panels ∧ u.journal = s.journal.filed t f := fun b u hu => by
    rw [hu]
    cases b <;> exact ⟨rfl, rfl⟩
  obtain ⟨hl, hj⟩ := hforced (s.journal.forces t) _ rfl
  simp only [Machine.file, decide_eq_true_eq]
  split
  · exact panelLaw_panelsAtWrap _
  · rename_i hbelow
    refine panelLaw_handOff hs.panels hl ?_
    rw [hj, filed_cur, if_neg hbelow]
    exact Nat.le_succ _

theorem revisionsKept_keptByFiling : KeptByFiling RevisionsKept where
  filing t f hs := hs.file t f
  apart hs h := hs.apart h

theorem RevisionsKept.journalDayClear {s : State} (hs : RevisionsKept s) : RevisionsKept (journalDayClear s) := by
  refine ⟨by rw [journalDayClear_journal]; exact journalLaw_dayCleared _, ?_⟩
  simp only [Machine.journalDayClear, decide_eq_true_eq]
  split
  · exact panelLaw_handOff (panelLaw_panelsAtWrap _) rfl (Nat.le_refl _)
  · rename_i hbelow
    refine panelLaw_handOff hs.panels rfl ?_
    rw [withJournal_journal, dayCleared_cur, if_neg hbelow]
    exact Nat.le_succ _

theorem RevisionsKept.clearDay {s : State} (hs : RevisionsKept s) : RevisionsKept (clearDay s) := by
  refine raiseAll_invariant revisionsKept_keptByFiling _ (RevisionsKept.journalDayClear ?_)
  exact hs.apart rfl

/-- The state a reset or a start-up leaves: a journal without entries, panels that hold their configuration alone. -/
theorem revisionsKept_ofConfigs {s : State} {l : List PanelConfig} (hj : s.journal = ⟨0, 0, []⟩)
    (hl : s.link.panels = l.map Panel.ofConfig) : RevisionsKept s := by
  refine ⟨journalKept_reset hj, fun p hp => ?_⟩
  rw [hl] at hp
  obtain ⟨c, -, rfl⟩ := List.mem_map.mp hp
  exact Panel.within_ofConfig c _

theorem RevisionsKept.startUp {s : State} (hs : RevisionsKept s) (lines : Word) (holds : Bool) :
    RevisionsKept (startUp lines holds s) :=
  iteInduction (fun _ => revisionsKept_ofConfigs rfl rfl) fun _ => hs

/-! ### The events of the link -/

theorem RevisionsKept.applyAck {s : State} (hs : RevisionsKept s) (addr : Nat) (carried : Bool) (r : PanelReply) :
    RevisionsKept (applyAck addr carried r s) := by
  have hraised : ∀ (c : Cause) (b : Prop) [Decidable b] (u : State), RevisionsKept u →
      RevisionsKept (if b then raise .programme c u else u) := fun c b _ u hu =>
    iteInduction (fun _ => hu.apart rfl) fun _ => hu
  exact hraised _ _ _ (hraised _ _ _ (hs.withPanelAt addr ((hs.panelAt addr).ack _ _ _ _)))

theorem RevisionsKept.applyFailure {s : State} (hs : RevisionsKept s) (addr : Nat) (f : Failure) :
    RevisionsKept (applyFailure addr f s) := by
  have hfailed : RevisionsKept (s.withPanelAt addr ((s.panelAt addr).fail s.shows.clock f)) :=
    hs.withPanelAt addr ((hs.panelAt addr).fail _ _)
  simp only [Machine.applyFailure]
  split_ifs
  · exact hs.withPanelAt addr ((hs.panelAt addr).probeFail _ _)
  · exact hfailed.apart rfl
  · exact hfailed

theorem RevisionsKept.endTransaction {s : State} (hs : RevisionsKept s) (t : Transaction) (o : LinkOutcome) :
    RevisionsKept (endTransaction t o s) := by
  have hended : RevisionsKept ((s.withCond .idle).withPanelAt t.addr
      { (s.withCond .idle).panelAt t.addr with idle := 0 }) := by
    have hidle : RevisionsKept (s.withCond .idle) := hs.apart rfl
    exact hidle.withPanelAt t.addr (x := { (s.withCond .idle).panelAt t.addr with idle := 0 }) (hidle.panelAt t.addr)
  simp only [Machine.endTransaction]
  split
  · exact hended
  · unfold applyOutcome
    split
    · split
      · exact hended.applyFailure _ _
      · exact hended.applyAck _ _ _
    · exact hended.applyFailure _ _

theorem RevisionsKept.windowOut {s : State} (hs : RevisionsKept s) : RevisionsKept (windowOut s) := by
  unfold Machine.windowOut
  split
  · split
    · exact iteInduction (fun _ => hs.endTransaction _ _) fun _ => hs
    · exact hs
  · exact hs

theorem RevisionsKept.linkTick {s : State} (hs : RevisionsKept s) : RevisionsKept (linkTick s) := by
  unfold Machine.linkTick
  split
  · split
    · exact iteInduction (fun _ => hs.endTransaction _ _) fun _ => hs.apart rfl
    · exact hs
  · exact hs

theorem RevisionsKept.panelAnswer {s : State} (hs : RevisionsKept s) (bytes : List Byte) :
    RevisionsKept (panelAnswer bytes s) := by
  unfold Machine.panelAnswer
  split
  · exact iteInduction (fun _ => hs) fun _ => hs.endTransaction _ _
  · exact hs

theorem RevisionsKept.panelGrant {s : State} (hs : RevisionsKept s) : RevisionsKept (panelGrant s) := by
  unfold Machine.panelGrant
  split
  · split
    · exact RevisionsKept.apart (hs.withPanelAt _ ((hs.panelAt _).grantPanel hs.journal)) rfl
    · exact hs
  · exact hs

theorem panelFrameSent_revisions (s : State) : (panelFrameSent s).revisions = s.revisions := by
  unfold panelFrameSent
  split
  · split <;> rfl
  · rfl

theorem panelAnswerStart_revisions (s : State) : (panelAnswerStart s).revisions = s.revisions := by
  unfold panelAnswerStart
  split
  · split <;> rfl
  · rfl

theorem RevisionsKept.idleReaches {s : State} (hs : RevisionsKept s) (st : PanelState) (interval addr : Nat) :
    RevisionsKept (idleReaches st interval addr s) :=
  iteInduction (motive := RevisionsKept) (fun _ => hs.withPanelAt addr (hs.panelAt addr).idleTick) fun _ => hs

theorem RevisionsKept.setPanel {s : State} (hs : RevisionsKept s) (addr : Nat) (present : Bool) (view : ViewArg)
    (group : Nat) : RevisionsKept (setPanel addr present view group s).1 := by
  unfold Machine.setPanel
  split_ifs
  · exact hs
  · exact hs
  · split
    · exact hs
    · rename_i c _
      have hwritten := hs.withPanelAt addr ((hs.panelAt addr).reconfigured c (inFlight s addr))
      exact iteInduction (motive := RevisionsKept) (fun _ => hwritten.apart rfl) fun _ => hwritten

theorem RevisionsKept.panelRead {s : State} (hs : RevisionsKept s) (addr : Nat) (clear : Bool) :
    RevisionsKept (panelRead addr clear s) :=
  iteInduction (motive := RevisionsKept) (fun _ => hs.withPanelAt addr (hs.panelAt addr)) fun _ => hs

/-! ### Ticks -/

theorem RevisionsKept.msTickAt {s : State} (hs : RevisionsKept s) (lines : Word) (level : Level) (r : MsReceiver) :
    RevisionsKept (msTickAt lines level r s) := by
  cases r with
  | house => exact houseTick_invariant revisionsKept_keptByFiling lines level hs
  | link => exact hs.linkTick
  | ports => exact hs.apart rfl
  | chime => exact hs.apart rfl

theorem RevisionsKept.secTickAt {s : State} (hs : RevisionsKept s) (order : List MinReceiver) (r : SecReceiver) :
    RevisionsKept (secTickAt order r s) := by
  cases r with
  | clock => exact clockTick_invariant revisionsKept_keptByFiling order hs
  | seat => exact seatTick_invariant revisionsKept_keptByFiling hs
  | reel => exact reelTick_invariant revisionsKept_keptByFiling hs
  | link => exact hs.mapPanels Panel.idleTick rfl rfl fun _ hp => hp.idleTick

/-! ### Every command -/

/-- A command keeps the law: the link's commands by the lemmas above, every other one by filing alone. -/
theorem RevisionsKept.exec {s t : State} (hs : RevisionsKept s) (c : Instr) (h : exec c s = .next t) :
    RevisionsKept t := by
  have hP := revisionsKept_keptByFiling
  cases c with
  | hardReset =>
    cases h
    exact revisionsKept_ofConfigs rfl rfl
  | startUp w holds =>
    cases h
    exact hs.startUp w holds
  | startUpAlertFound l =>
    cases h
    exact iteInduction (fun _ => alertFound_invariant hP l hs) fun _ => hs
  | tick1ms w l order =>
    exact ticking_invariant hs h (foldl_inv RevisionsKept _ (fun _ r hu => hu.msTickAt w l r) _ _)
  | tick1s order m =>
    exact ticking_invariant hs h (foldl_inv RevisionsKept _ (fun _ r hu => hu.secTickAt m r) _ _)
  | minuteBoundary order =>
    exact ticking_invariant hs h fun hu => iteInduction (fun _ => minuteBoundary_invariant hP order hu) fun _ => hu
  | holdExpiry slot => exact ticking_invariant hs h (expiryDue_invariant hP slot)
  | reelItemEnd r =>
    exact ticking_invariant hs h fun hu => iteInduction (fun _ => cueReel_invariant hP false r hu) fun _ => hu
  | startLineQualified i => exact ticking_invariant hs h (lineDue_invariant hP i)
  | alertLineActive | alertLineInactive =>
    exact running_invariant hs h fun hu => iteInduction (fun _ => sampleAlert_invariant hP _ hu) fun _ => hu
  | chimeNoteEnd => exact ticking_invariant hs h fun hu => hP.apart hu (noteDue_revisions _)
  | noticeExpiry =>
    exact ticking_invariant hs h fun hu => iteInduction (fun _ => expireNotices_invariant hP hu) fun _ => hu
  | noticeInterval =>
    exact ticking_invariant hs h fun hu => iteInduction (fun _ => reachIntervals_invariant hP hu) fun _ => hu
  | frameGapTimeout _ | requestFrame _ _ | portByteReceived _ _ _ | answerSent _ =>
    exact running_invariant hs h fun hu => hu.apart rfl
  | beaconSend | beaconEnd | storeEraseDone | storeWriteDone | storeFault =>
    exact running_invariant hs h fun hu => iteInduction (fun _ => hu.apart rfl) fun _ => hu
  | panelPollDue a | panelProbeDue a => exact running_invariant hs h fun hu => hu.idleReaches _ _ a
  | panelGrant => exact running_invariant hs h fun hu => hu.panelGrant
  | panelFrameSent => exact running_invariant hs h fun hu => hu.apart (panelFrameSent_revisions _)
  | panelAnswerStart => exact running_invariant hs h fun hu => hu.apart (panelAnswerStart_revisions _)
  | panelAnswer bytes => exact running_invariant hs h fun hu => hu.panelAnswer bytes
  | responseTimeout => exact running_invariant hs h fun hu => hu.windowOut
  | storeCheckDone holds => exact running_invariant hs h fun hu => hP.apart hu (storeCheckDone_revisions holds _)
  | holdSeats hd key zone n =>
    exact request_tested_invariant hP (holdSeats_tested hd key zone n)
      (fun hu => availability_invariant hP key (hP.apart hu rfl)) hs h
  | confirmHold hd slot gen => exact request_invariant hP (confirmHold_invariant hP hd.port slot gen) hs h
  | releaseHold hd slot gen => exact request_invariant hP (releaseHold_invariant hP hd.port slot gen) hs h
  | extendHold hd slot gen => exact request_invariant hP (extendHold_invariant hP hd.port slot gen) hs h
  | queryHold hd slot gen =>
    exact request_invariant hP (fun hu => holdRequest_invariant (fun _ _ => hu) hd.port slot gen hu) hs h
  | sellNow hd key zone n =>
    exact request_tested_invariant hP (sellNow_tested key zone n) (countsChanged_invariant hP key _ _) hs h
  | refundSeats hd key zone n =>
    exact request_tested_invariant hP (refundSeats_tested key zone n) (countsChanged_invariant hP key _ _) hs h
  | queryShow hd key => exact request_apart_invariant hP (fun u => by rw [queryShow_state]) hs h
  | listShows hd day start => exact request_apart_invariant hP (fun u => by rw [listShows_state]) hs h
  | postNotice hd c p sc text life key m =>
    exact request_invariant hP (postNotice_invariant hP hd c p sc text life key m) hs h
  | withdrawNotice hd slot gen =>
    exact request_tested_invariant hP (withdrawNotice_tested hd.port slot gen)
      (noticeWithdrawn_invariant hP hd.port slot) hs h
  | readNotices _ | readAlert _ | readCauses _ | readPool _ | readBoard _ _ | readChime _ | readHouseLines _
  | readJournal _ _ | readPolicy _ | readClock _ => exact request_apart_invariant hP (fun _ => rfl) hs h
  | setCauseMask hd mask => exact request_apart_invariant hP (setCauseMask_revisions hd.port mask) hs h
  | readPortStatus hd sel clear =>
    exact request_tested_invariant hP (readPortStatus_tested hd.port sel clear)
      (fun hu => hP.apart hu (portStatus_revisions clear _ _)) hs h
  | loadShow hd key day aud title start run delay caps hidden sib sold withheld now =>
    exact request_invariant hP
      (loadShow_invariant hP key day aud title start run delay caps hidden sib sold withheld now) hs h
  | amendShow hd key start run aud title sib hidden =>
    exact request_invariant hP (amendShow_invariant hP key start run aud title sib hidden) hs h
  | openSales hd key => exact request_invariant hP (openSales_invariant hP key) hs h
  | cancelShow hd key => exact request_invariant hP (cancelShow_invariant hP key) hs h
  | removeShow hd key => exact request_invariant hP (removeShow_invariant hP key) hs h
  | readShow hd key => exact request_apart_invariant hP (fun u => by rw [readShow_state]) hs h
  | defineTitle hd index text rating => exact request_invariant hP (defineTitle_invariant hP index text rating) hs h
  | rollDay hd => exact request_invariant hP (rollDayRequest_invariant hP) hs h
  | dayClear hd => exact request_invariant hP (fun hu => hu.clearDay) hs h
  | setPoolSplit hd value => exact request_apart_invariant hP (setPoolSplit_revisions value) hs h
  | setCapacity hd key zone value => exact request_invariant hP (setCapacity_invariant hP key zone value) hs h
  | withhold hd key zone n =>
    exact request_tested_invariant hP (withhold_tested key zone n) (countsChanged_invariant hP key _ _) hs h
  | unwithhold hd key zone n =>
    exact request_tested_invariant hP (unwithhold_tested key zone n) (countsChanged_invariant hP key _ _) hs h
  | readSeatStatus hd clear => exact request_apart_invariant hP (readSeatStatus_revisions clear) hs h
  | readHold hd slot => exact request_apart_invariant hP (fun u => by rw [readHold_state]) hs h
  | readDoor hd aud => exact request_apart_invariant hP (fun u => by rw [readDoor_state]) hs h
  | defineSpot hd key media d title => exact request_apart_invariant hP (defineSpot_revisions key media d title) hs h
  | removeSpot hd key => exact request_apart_invariant hP (removeSpot_revisions key) hs h
  | buildReel hd r items step =>
    exact request_tested_invariant hP (buildReel_tested r items step)
      (fun hu => cueOrHold_invariant hP r (hP.apart hu rfl)) hs h
  | clearReel hd r => exact request_invariant hP (clearReel_invariant hP r) hs h
  | stopReel hd r => exact request_invariant hP (stopReel_invariant hP r) hs h
  | startReel hd r => exact request_invariant hP (startReel_invariant hP r) hs h
  | readSpot hd key => exact request_apart_invariant hP (fun u => by rw [readSpot_state]) hs h
  | readReel hd r => exact request_apart_invariant hP (fun u => by rw [readReel_state]) hs h
  | setChimePattern hd p notes =>
    exact request_tested_invariant hP (setChimePattern_tested p notes)
      (fun hu => hP.apart hu (patternWritten_revisions p notes _)) hs h
  | setStartLine hd line aud edge d =>
    exact request_apart_invariant hP (setStartLine_revisions line aud edge d) hs h
  | setAlertLine hd p d => exact request_invariant hP (setAlertLine_invariant hP p d) hs h
  | clearAlert hd => exact request_invariant hP (clearAlert_invariant hP) hs h
  | setPanel hd a present view g =>
    exact request_invariant hP (fun hu => hu.setPanel a present view g) hs h
  | linkReset hd =>
    exact request_invariant hP (fun hu => hu.mapPanels Panel.linkReset rfl rfl fun _ hp => hp.linkReset) hs h
  | readPanel hd a clear =>
    exact request_tested_invariant hP (readPanel_tested a clear)
      (fun hu => hu.panelRead a clear) hs h
  | setPolicy hd l => exact request_invariant hP (setPolicy_invariant hP l) hs h
  | setClock hd m sec => exact request_invariant hP (setClock_invariant hP m sec) hs h
  | saveSetup hd => exact request_apart_invariant hP saveSetup_revisions hs h

/-- Settles O7: a step is a command taken on a state with the queue's rest, and every command keeps the panels' revisions
within the journal's: a filing raises it, and the wrap, which takes it back, leaves every panel at 0. -/
theorem stepKeepsThePanelLaw : Obligations.StepKeepsThePanelLaw := by
  intro s t hj hs h
  unfold step at h
  split at h
  · cases h
    exact hs
  · rename_i c rest _
    have hp : RevisionsKept (s.withPending rest) := ⟨hj, hs⟩
    exact (hp.exec c h).panels

end Sys2Proof.Machine

/-! ## The link's free points and response windows (O53) -/

namespace Sys2Proof.Machine

theorem whenRunning_of_running {f : State → State} {s : State} (h : s.phase = .running) : whenRunning f s = f s :=
  if_pos h

/-- With the beacon pending no panel is granted the link (R176). -/
theorem exec_panelGrant_of_beacon {s : State} (h : s.link.beaconPending = true) : exec .panelGrant s = .next s := by
  have harm : exec .panelGrant s = .next (whenRunning panelGrant s) := rfl
  have hwaits : panelGrant s = s := if_neg fun hfree => Bool.false_ne_true (hfree.2.symm.trans h)
  rw [harm, whenRunning, hwaits, ite_self]

/-- The beacon's hour and minute: the wall time, or the start of the day when the clock is not set. -/
theorem beaconFrame_eq (s : State) {m : Nat}
    (hm : m = (s.policy.dayStart + if s.shows.clock.valid then s.shows.clock.minute else 0) % 1440) :
    beaconFrame s = linkFrame 0 5 0 (w1 (m / 60) ++ w1 (m % 60) ++ w1 (if s.shows.clock.valid then 1 else 0) ++
      w1 s.house.alert.code) := by
  have htime : (if s.shows.clock.valid then wallMinute s else s.policy.dayStart % 1440) = m := by
    rw [hm, wallMinute]
    split <;> rfl
  rw [beaconFrame, htime]
  rfl

theorem exec_beaconSend {s : State} (hrun : s.phase = .running) (hidle : s.link.cond = .idle)
    (hb : s.link.beaconPending = true) : exec .beaconSend s =
      .next (s.withLink { s.link with cond := .beacon, beaconPending := false, out := beaconFrame s }) := by
  have harm : exec .beaconSend s = .next (whenRunning beaconSend s) := rfl
  rw [harm, whenRunning_of_running hrun, beaconSend, if_pos ⟨freePoint_of_idle hidle, hb⟩]

theorem exec_beaconEnd {s : State} (hrun : s.phase = .running) (hc : s.link.cond = .beacon) :
    exec .beaconEnd s = .next (s.withLink { s.link with cond := .idle }) := by
  have harm : exec .beaconEnd s = .next (whenRunning beaconEnd s) := rfl
  rw [harm, whenRunning_of_running hrun, beaconEnd, if_pos hc]
  rfl

section
variable {s : State} {tr : Transaction} (hrun : s.phase = .running) (hc : s.link.cond = .transaction tr)
include hrun hc

theorem exec_panelFrameSent (hw : tr.window = none) : exec .panelFrameSent s = .next
    (s.withLink { s.link with cond := .transaction { tr with window := some s.policy.responseWindow } }) := by
  have harm : exec .panelFrameSent s = .next (whenRunning panelFrameSent s) := rfl
  simp only [harm, whenRunning_of_running hrun, panelFrameSent, hc, hw, if_true]
  rfl

theorem exec_panelAnswerStart {w : Nat} (hw : tr.window = some w) :
    exec .panelAnswerStart s = .next (s.withLink { s.link with cond := .transaction { tr with begun := true } }) := by
  have harm : exec .panelAnswerStart s = .next (whenRunning panelAnswerStart s) := rfl
  simp only [harm, whenRunning_of_running hrun, panelAnswerStart, hc, hw, reduceCtorEq, if_false]
  rfl

/-- A complete answer in the response window ends the transaction with what it says (R167). -/
theorem exec_panelAnswer {w : Nat} (hw : tr.window = some w) (bytes : List Byte) :
    exec (.panelAnswer bytes) s = .next (endTransaction tr (answerOutcome tr bytes) s) := by
  have harm : exec (.panelAnswer bytes) s = .next (whenRunning (panelAnswer bytes) s) := rfl
  simp only [harm, whenRunning_of_running hrun, panelAnswer, hc, hw, reduceCtorEq, if_false]

/-- The window's last millisecond ends the transaction (R167). -/
theorem exec_responseTimeout {w : Nat} (hw : tr.window = some w) (hlast : w ≤ 1) :
    exec .responseTimeout s = .next (endTransaction tr (windowOutcome tr) s) := by
  have harm : exec .responseTimeout s = .next (whenRunning windowOut s) := rfl
  simp only [harm, whenRunning_of_running hrun, windowOut, hc, hw, if_pos hlast]

end

/-! ### The intervals (R172, R174) -/

theorem idleTick_reaches {p : Panel} (ha : p.state ≠ .absent) (hle : p.idle + 1 ≤ 300) :
    p.idleTick = { p with idle := p.idle + 1 } := by
  rw [Panel.idleTick, if_neg ha]
  congr 1
  exact Nat.min_eq_right hle

/-- The tick that completes a panel's interval counts its idle time. -/
theorem idleReaches_due {s : State} {st : PanelState} {interval a : Nat} (h1 : 1 ≤ a) (h24 : a ≤ 24)
    (hst : (s.panelAt a).state = st) (hne : st ≠ .absent) (hdue : (s.panelAt a).idle + 1 = interval)
    (hle : interval ≤ 300) :
    idleReaches st interval a s = s.withPanelAt a { s.panelAt a with idle := interval } := by
  have hidle := idleTick_reaches (p := s.panelAt a) (hst ▸ hne) (hdue ▸ hle)
  unfold idleReaches
  dsimp only
  rw [if_pos ⟨h1, h24, hst, hdue⟩, hidle, hdue]

/-- Settles O53: the beacon before any grant, the two ends of a response window's opening, and both intervals. -/
theorem beaconWindowAndIntervals : Obligations.BeaconWindowAndIntervals := by
  refine ⟨fun s hrun => ⟨fun hidle hb => ⟨exec_panelGrant_of_beacon hb, fun m hm => ?_⟩, exec_beaconEnd hrun,
    fun tr hc => ⟨exec_panelFrameSent hrun hc, fun w hw => exec_panelAnswerStart hrun hc hw⟩⟩,
    fun s a hs hrun h1 h24 => ?_⟩
  · rw [exec_beaconSend hrun hidle hb, beaconFrame_eq s hm]
  · have hown : ∀ x, (s.withPanelAt a x).panelAt a = x := fun x => by
      rw [panelAt_withPanelAt h1 (hs.panels_length ▸ h24) h1, if_pos rfl]
    refine ⟨fun hst hdue hle => ⟨_, ?_, rfl, ?_⟩, fun hst hdue hle => ⟨_, ?_, rfl, ?_⟩⟩
    · have harm : exec (.panelPollDue a) s =
        .next (whenRunning (fun s => idleReaches .current s.policy.pollInterval a s) s) := rfl
      rw [harm, whenRunning_of_running hrun, idleReaches_due h1 h24 hst (by decide) hdue hle]
    · rw [hown, panel_waiting_iff]
      simp [hst]
    · have harm : exec (.panelProbeDue a) s =
        .next (whenRunning (fun s => idleReaches .offline s.policy.probeInterval a s) s) := rfl
      rw [harm, whenRunning_of_running hrun, idleReaches_due h1 h24 hst (by decide) hdue hle]
    · rw [hown, panel_waiting_iff]
      simp [hst]

end Sys2Proof.Machine

/-! ## The end of a transaction, and the failures (O55) -/

namespace Sys2Proof.Machine

/-! ### The link after a transaction (R167, R172) -/

/-- The transaction has ended and its panel stands as `x`. -/
def State.transactionEnded (s : State) (addr : Nat) (x : Panel) : State := (s.withCond .idle).withPanelAt addr x

theorem transactionEnded_panelAt {s : State} (hs : Sized s) {addr a : Nat} (h1 : 1 ≤ addr) (h24 : addr ≤ 24) (ha : 1 ≤ a)
    (x : Panel) : (s.transactionEnded addr x).panelAt a = if a = addr then x else s.panelAt a :=
  panelAt_withPanelAt (s := s.withCond .idle) h1 (hs.panels_length ▸ h24) ha x

theorem transactionEnded_twice (s : State) (addr : Nat) (x y : Panel) :
    (s.transactionEnded addr x).withPanelAt addr y = s.transactionEnded addr y := by
  simp [State.transactionEnded, State.withPanelAt]

theorem linkFrame_transactionEnded {s : State} (hs : Sized s) {addr : Nat} (h1 : 1 ≤ addr) (h24 : addr ≤ 24) (x : Panel) :
    LinkFrame addr s (s.transactionEnded addr x) :=
  ⟨rfl, rfl, rfl, rfl, rfl, fun a ha hne => by rw [transactionEnded_panelAt hs h1 h24 ha, if_neg hne]⟩

theorem LinkFrame.raised {addr : Nat} {s u : State} (h : LinkFrame addr s u) (c : Cause) :
    LinkFrame addr s (raise .programme c u) := by
  obtain ⟨hblocks, hquiet, hrest⟩ := h
  refine ⟨by rw [hblocks]; rfl, ?_, hrest⟩
  rw [← hquiet]
  simp

theorem endTransaction_discarded {tr : Transaction} (hd : tr.discard = true) (o : LinkOutcome) (s : State) :
    endTransaction tr o s = s.transactionEnded tr.addr { s.panelAt tr.addr with idle := 0 } := by
  simp only [endTransaction, hd, if_true]
  rfl

theorem endTransaction_applies {tr : Transaction} (hd : tr.discard = false) (o : LinkOutcome) (s : State) :
    endTransaction tr o s =
      applyOutcome tr.addr tr.hasBatch o (s.transactionEnded tr.addr { s.panelAt tr.addr with idle := 0 }) := by
  simp only [endTransaction, hd, Bool.false_eq_true, if_false]
  rfl

/-- The failing events of the running part are failure outcomes (R167, R169, R181). -/
theorem exec_failedBy {e : Instr} {s : State} {tr : Transaction} {w : Nat} {f : Failure} (hrun : s.phase = .running)
    (hc : s.link.cond = .transaction tr) (hw : tr.window = some w) (hd : tr.discard = false) (hf : FailedBy e tr w f) :
    exec e s = .next (applyFailure tr.addr f (s.transactionEnded tr.addr { s.panelAt tr.addr with idle := 0 })) := by
  obtain ⟨rfl, hlast, rfl⟩ | ⟨bytes, rfl, hnone, rfl⟩ | ⟨bytes, r, reason, rfl, hsome, hnak, rfl⟩ := hf
  · rw [exec_responseTimeout hrun hc hw hlast, endTransaction_applies hd]
    rfl
  · have ho : answerOutcome tr bytes = .failure .check := by rw [answerOutcome, hnone]
    rw [exec_panelAnswer hrun hc hw, endTransaction_applies hd, ho]
    rfl
  · have ho : answerOutcome tr bytes = .reply r := by rw [answerOutcome, hsome]
    rw [exec_panelAnswer hrun hc hw, endTransaction_applies hd, ho]
    simp only [applyOutcome, hnak]

/-! ### What moves of state leave of a panel (R173, R179) -/

/-- What a move between states does not touch, but for the phase and the retry count. -/
def Panel.lasting (p : Panel) : PanelConfig × Nat × ErrorRecord × Option Nat × Nat × Bool :=
  (p.config, p.shown, p.error, p.lastAnswer, p.idle, p.resync)

theorem toSyncing_eq (p : Panel) : p.toSyncing =
    { p with state := .syncing, batch := p.toSyncing.batch, refresh := p.toSyncing.refresh } := by
  unfold Panel.toSyncing
  split <;> rfl

theorem toSyncing_batch {p : Panel} (h : p.batch = none) : p.toSyncing.batch = none := by
  unfold Panel.toSyncing
  split
  · rfl
  · rfl
  · rfl
  · exact h

theorem toSyncing_refresh (p : Panel) : p.toSyncing.refresh = none ∨ p.toSyncing.refresh = p.refresh := by
  unfold Panel.toSyncing
  split
  · exact .inl rfl
  · exact .inl rfl
  · exact .inl rfl
  · exact .inr rfl

/-- Whatever refresh the panel holds is marked to restart (R179). -/
def Panel.restarts (p : Panel) : Prop := ∀ rf, p.refresh = some rf → rf.restart = true

theorem markRestart_restarts (p : Panel) : p.markRestart.restarts := fun rf h => by
  obtain ⟨r, -, rfl⟩ := Option.map_eq_some_iff.mp h
  rfl

theorem Panel.restarts.toSyncing {p : Panel} (h : p.restarts) : p.toSyncing.restarts := fun rf hrf => by
  rcases toSyncing_refresh p with hnone | hsame
  · rw [hnone] at hrf
    cases hrf
  · exact h rf (hsame ▸ hrf)

theorem syncUnlessUnknown_state (p : Panel) :
    p.syncUnlessUnknown.state = if p.state = .unknown then .unknown else .syncing := by
  unfold Panel.syncUnlessUnknown
  split
  · assumption
  · exact toSyncing_state p

/-- An UNKNOWN panel stays as it is; any other takes the steps of an entry to SYNCING. -/
theorem syncUnlessUnknown_cases (p : Panel) : p.syncUnlessUnknown = p ∨ p.syncUnlessUnknown = p.toSyncing := by
  unfold Panel.syncUnlessUnknown
  split
  · exact .inl rfl
  · exact .inr rfl

theorem syncUnlessUnknown_eq (p : Panel) : p.syncUnlessUnknown =
    { p with state := p.syncUnlessUnknown.state, batch := p.syncUnlessUnknown.batch,
             refresh := p.syncUnlessUnknown.refresh } := by
  rcases syncUnlessUnknown_cases p with h | h
  · rw [h]
  · rw [h, toSyncing_eq p]

theorem syncUnlessUnknown_batch {p : Panel} (h : p.batch = none) : p.syncUnlessUnknown.batch = none := by
  rcases syncUnlessUnknown_cases p with hp | hp
  · rwa [hp]
  · rw [hp, toSyncing_batch h]

theorem syncUnlessUnknown_refresh {p : Panel} (h : p.refresh = none) : p.syncUnlessUnknown.refresh = none := by
  rcases syncUnlessUnknown_cases p with hp | hp
  · rwa [hp]
  · rw [hp]
    exact (toSyncing_refresh p).elim id fun hsame => hsame.trans h

theorem Panel.restarts.syncUnlessUnknown {p : Panel} (h : p.restarts) : p.syncUnlessUnknown.restarts := by
  rcases syncUnlessUnknown_cases p with hp | hp
  · rwa [hp]
  · rw [hp]
    exact h.toSyncing

theorem syncUnlessUnknown_lasting (p : Panel) : p.syncUnlessUnknown.lasting = p.lasting := by
  rw [syncUnlessUnknown_eq]
  rfl

/-! ### Steps 2 to 4 of a failure (R181) -/

theorem failStep_lasting (resync : Bool) (p : Panel) : (p.failStep resync).lasting = p.lasting := by
  unfold Panel.failStep
  split_ifs
  · exact syncUnlessUnknown_lasting _
  · rfl
  · exact syncUnlessUnknown_lasting _
  · rfl

section
variable {p : Panel}

theorem failStep_retries (h : p.retry < 3) : p.failStep false = { p with retry := p.retry + 1 } := by
  rw [Panel.failStep, if_pos h, if_neg Bool.false_ne_true]

/-- A retry with resync pending drops the batch and restarts the refresh (R181, R187). -/
theorem failStep_restarts (h : p.retry < 3) {q : Panel} (hq : q = p.failStep true) :
    q.retry = p.retry + 1 ∧ q.phase = p.phase ∧ q.batch = none ∧ q.restarts ∧
      q.state = if p.state = .unknown then .unknown else .syncing := by
  have hstep : q = ({ p with retry := p.retry + 1, batch := none } : Panel).markRestart.syncUnlessUnknown := by
    rw [hq, Panel.failStep, if_pos h, if_pos rfl]
  subst hstep
  refine ⟨?_, ?_, syncUnlessUnknown_batch rfl, (markRestart_restarts _).syncUnlessUnknown, syncUnlessUnknown_state _⟩
  · rw [syncUnlessUnknown_eq]
    rfl
  · rw [syncUnlessUnknown_eq]
    rfl

/-- With the retries used up in NORMAL the panel enters RESYNC (R181). -/
theorem failStep_resyncs (h : 3 ≤ p.retry) (hphase : p.phase = .normal) (resync : Bool) {q : Panel}
    (hq : q = p.failStep resync) :
    q.retry = 0 ∧ q.batch = none ∧ q.refresh = none ∧ q.phase = .resync ∧
      q.state = if p.state = .unknown then .unknown else .syncing := by
  have hstep : q = ({ p with phase := .resync, retry := 0, batch := none, refresh := none } : Panel).syncUnlessUnknown := by
    rw [hq, Panel.failStep, if_neg (Nat.not_lt.mpr h), if_pos hphase]
  subst hstep
  refine ⟨?_, syncUnlessUnknown_batch rfl, syncUnlessUnknown_refresh rfl, ?_, syncUnlessUnknown_state _⟩
  · rw [syncUnlessUnknown_eq]
  · rw [syncUnlessUnknown_eq]

/-- With the retries used up in RESYNC the panel is OFFLINE (R181). -/
theorem failStep_gives_up (h : 3 ≤ p.retry) (hphase : p.phase = .resync) (resync : Bool) :
    p.failStep resync = { p with state := .offline, retry := 0, batch := none, refresh := none } := by
  rw [Panel.failStep, if_neg (Nat.not_lt.mpr h), if_neg (by rw [hphase]; decide)]

end

/-! ### A failure's effect on its panel -/

/-- The panel with the failure recorded and resync pending taken up (step 1 of R181). -/
def Panel.failRecorded (clock : Clock) (f : Failure) (p : Panel) : Panel := { p.failCounted clock f with resync := false }

theorem fail_eq (clock : Clock) (f : Failure) (p : Panel) :
    p.fail clock f = (p.failRecorded clock f).failStep p.resync := rfl

theorem failRecorded_eq (clock : Clock) (f : Failure) (p : Panel) : p.failRecorded clock f =
    { p with
      error := ({ p.error with recovered := false } : ErrorRecord).failed f
      lastAnswer := f.lastAnswer clock p.lastAnswer
      state := if p.state = .unknown ∧ f.isNak = true then .syncing else p.state
      resync := false } := by
  rw [Panel.failRecorded, failCounted_eq]

/-- An UNKNOWN panel is still UNKNOWN unless the failure is a NAK. -/
theorem failRecorded_unknown (clock : Clock) (f : Failure) (p : Panel) :
    (p.failRecorded clock f).state = .unknown ↔ p.state = .unknown ∧ f.isNak = false := by
  rw [failRecorded_eq]
  by_cases hp : p.state = .unknown <;> cases f.isNak <;> simp [hp]

theorem fail_lasting (clock : Clock) (f : Failure) (p : Panel) : (p.fail clock f).lasting =
    (p.config, p.shown, ({ p.error with recovered := false } : ErrorRecord).failed f, f.lastAnswer clock p.lastAnswer,
      p.idle, false) := by
  rw [fail_eq, failStep_lasting, failRecorded_eq]
  rfl

theorem probeFail_lasting (clock : Clock) (f : Failure) (p : Panel) : (p.probeFail clock f).lasting =
    (p.config, p.shown, p.error.failed f, f.lastAnswer clock p.lastAnswer, p.idle, false) := by
  rw [probeFail_eq]
  split
  · rw [toSyncing_eq]
    rfl
  · rename_i hf
    have hlast : f.lastAnswer clock p.lastAnswer = p.lastAnswer := by
      cases f with
      | nak reason report => exact absurd rfl hf
      | _ => rfl
    rw [hlast]
    rfl

theorem probeFail_moves (clock : Clock) (f : Failure) {p q : Panel} (hstate : p.state = .offline)
    (hq : q = p.probeFail clock f) :
    q.retry = 0 ∧ q.phase = p.phase ∧ q.state = if f.isNak = true then .syncing else .offline := by
  rw [probeFail_eq] at hq
  split at hq
  · rename_i hnak
    rw [hq, toSyncing_eq, if_pos hnak]
    exact ⟨rfl, rfl, rfl⟩
  · rename_i hnak
    rw [hq, if_neg hnak]
    exact ⟨rfl, rfl, hstate⟩

/-- What a failure makes of its panel: a failed probe, or a failure of a panel that is not OFFLINE. -/
def Panel.afterFailure (clock : Clock) (f : Failure) (p : Panel) : Panel :=
  if p.state = .offline then p.probeFail clock f else p.fail clock f

theorem afterFailure_lasting (clock : Clock) (f : Failure) (p : Panel) : ∃ b, (p.afterFailure clock f).lasting =
    (p.config, p.shown, ({ p.error with recovered := b } : ErrorRecord).failed f, f.lastAnswer clock p.lastAnswer,
      p.idle, false) ∧ (p.state ≠ .offline → b = false) := by
  unfold Panel.afterFailure
  split
  · rename_i hstate
    exact ⟨p.error.recovered, probeFail_lasting clock f p, fun hne => absurd hstate hne⟩
  · exact ⟨false, fail_lasting clock f p, fun _ => rfl⟩

/-! ### The error record, field by field -/

/-- A failure as the error record names it (R183). -/
def Failure.linkError : Failure → LinkError
  | .timeout => .timeout
  | .check => .answerCheck
  | .nak reason _ => .nak reason

theorem failed_nak (e : ErrorRecord) (reason : NakReason) (report : Nat) : e.failed (.nak reason report) =
    { e.count (.nak reason report) with report := if report = 0 then e.report else some report } := by
  unfold ErrorRecord.failed
  by_cases h : report = 0
  · rw [if_pos h]
    exact if_pos h
  · rw [if_neg h]
    exact if_neg h

section
variable (e : ErrorRecord) (f : Failure)

theorem failed_counts :
    (e.failed f).timeouts = (if f = .timeout then bump255 e.timeouts else e.timeouts) ∧
    (e.failed f).checks = (if f = .check then bump255 e.checks else e.checks) ∧
    (e.failed f).naks = (if f.isNak then bump255 e.naks else e.naks) := by
  cases f with
  | nak reason report =>
    rw [failed_nak]
    exact ⟨rfl, rfl, rfl⟩
  | timeout | check => exact ⟨rfl, rfl, rfl⟩

theorem failed_last : (e.failed f).last = some f.linkError := by
  cases f with
  | nak reason report =>
    rw [failed_nak]
    rfl
  | timeout | check => rfl

theorem failed_kept : (e.failed f).fault = e.fault ∧ (e.failed f).recovered = e.recovered := by
  cases f with
  | nak reason report =>
    rw [failed_nak]
    exact ⟨rfl, rfl⟩
  | timeout | check => exact ⟨rfl, rfl⟩

theorem failed_report_of_not_nak (h : f.isNak = false) (clock : Clock) (last : Option Nat) :
    (e.failed f).report = e.report ∧ f.lastAnswer clock last = last := by
  cases f with
  | nak reason report => cases h
  | timeout | check => exact ⟨rfl, rfl⟩

end

/-! ### The failure outcome (R181, R182) -/

/-- PANEL_OFFLINE is raised exactly when a panel not OFFLINE gives up. -/
theorem applyFailure_ended {s : State} (hs : Sized s) {addr : Nat} (h1 : 1 ≤ addr) (h24 : addr ≤ 24) (f : Failure)
    (p : Panel) : applyFailure addr f (s.transactionEnded addr p) =
      let t := s.transactionEnded addr (p.afterFailure s.shows.clock f)
      if p.state ≠ .offline ∧ ¬ p.retry < 3 ∧ p.phase = .resync then raise .programme .panelOffline t else t := by
  have hown : (s.transactionEnded addr p).panelAt addr = p := by
    rw [transactionEnded_panelAt hs h1 h24 h1, if_pos rfl]
  simp only [applyFailure, hown, transactionEnded_twice, Panel.afterFailure]
  by_cases hstate : p.state = .offline
  · rw [if_pos hstate, if_pos hstate, if_neg fun h => h.1 hstate]
    rfl
  · rw [if_neg hstate, if_neg hstate]
    simp only [hstate, ne_eq, not_false_eq_true, true_and]
    rfl

/-- What steps 2 to 4 of R181 make of a panel that is not OFFLINE, by its retry count, its phase and resync pending. -/
theorem fail_moves (clock : Clock) (f : Failure) {p q : Panel} (hq : q = p.fail clock f) :
    (p.retry < 3 → q.retry = p.retry + 1 ∧ q.phase = p.phase ∧
      (p.resync = false → q.batch = p.batch ∧ q.refresh = p.refresh ∧
        q.state = if p.state = .unknown ∧ f.isNak = true then .syncing else p.state) ∧
      (p.resync = true → q.batch = none ∧ q.restarts ∧
        q.state = if p.state = .unknown ∧ f.isNak = false then .unknown else .syncing)) ∧
    (3 ≤ p.retry → q.retry = 0 ∧ q.batch = none ∧ q.refresh = none ∧ q.phase = .resync ∧
      (p.phase = .normal → q.state = if p.state = .unknown ∧ f.isNak = false then .unknown else .syncing) ∧
      (p.phase = .resync → q.state = .offline)) := by
  rw [fail_eq] at hq
  have hunknown := failRecorded_unknown clock f p
  obtain ⟨c, hc⟩ : ∃ c, c = p.failRecorded clock f := ⟨_, rfl⟩
  rw [← hc] at hq hunknown
  rw [failRecorded_eq] at hc
  have hretry : c.retry = p.retry := by rw [hc]
  have hphase : c.phase = p.phase := by rw [hc]
  refine ⟨fun hlt => ?_, fun hge => ?_⟩
  · rw [← hretry] at hlt ⊢
    cases hresync : p.resync with
    | false =>
      rw [hresync, failStep_retries hlt] at hq
      subst hq
      refine ⟨rfl, hphase, fun _ => ?_, nofun⟩
      rw [hc]
      exact ⟨rfl, rfl, rfl⟩
    | true =>
      rw [hresync] at hq
      obtain ⟨hr, hph, hbatch, hrestarts, hstate⟩ := failStep_restarts hlt hq
      exact ⟨hr, hph.trans hphase, nofun, fun _ => ⟨hbatch, hrestarts, by simp only [hstate, hunknown]⟩⟩
  · rw [← hretry] at hge
    cases hp : p.phase with
    | normal =>
      obtain ⟨hr, hbatch, hrefresh, hph, hstate⟩ := failStep_resyncs hge (hphase.trans hp) _ hq
      exact ⟨hr, hbatch, hrefresh, hph, fun _ => by simp only [hstate, hunknown], nofun⟩
    | resync =>
      rw [failStep_gives_up hge (hphase.trans hp)] at hq
      subst hq
      exact ⟨rfl, rfl, rfl, hphase.trans hp, nofun, fun _ => rfl⟩

/-- The state a failing event leaves: its panel as the failure makes it, the link IDLE, and PANEL_OFFLINE raised or no
port changed. -/
structure FailureTaken (s t : State) (addr : Nat) (p q : Panel) : Prop where
  own : t.panelAt addr = q
  idle : t.link.cond = .idle
  frame : LinkFrame addr s t
  quiet : p.state = .offline ∨ p.retry < 3 ∨ p.phase = .normal → t.ports = s.ports
  raised : p.state ≠ .offline → 3 ≤ p.retry → p.phase = .resync → causeSet .programme .panelOffline t = true

theorem failureTaken {s : State} (hs : Sized s) {addr : Nat} (h1 : 1 ≤ addr) (h24 : addr ≤ 24) (f : Failure) (p : Panel) :
    FailureTaken s (applyFailure addr f (s.transactionEnded addr p)) addr p (p.afterFailure s.shows.clock f) := by
  have hown := transactionEnded_panelAt hs h1 h24 h1 (p.afterFailure s.shows.clock f)
  rw [if_pos rfl] at hown
  have hframe := linkFrame_transactionEnded hs h1 h24 (p.afterFailure s.shows.clock f)
  rw [applyFailure_ended hs h1 h24]
  dsimp only
  split
  · rename_i hup
    obtain ⟨hstate, hretry, hphase⟩ := hup
    refine ⟨hown, rfl, hframe.raised _, fun h => ?_, fun _ _ _ => raise_sets _ _ _ rfl⟩
    rcases h with h | h | h
    · exact absurd h hstate
    · exact absurd h hretry
    · rw [hphase] at h
      cases h
  · rename_i hup
    exact ⟨hown, rfl, hframe, fun _ => rfl, fun hstate hretry hphase =>
      absurd ⟨hstate, Nat.not_lt.mpr hretry, hphase⟩ hup⟩

/-- Settles O55: the error record field by field, then a failed probe, or the steps of R181. -/
theorem panelFails : Obligations.PanelFails := by
  intro s tr w e f p hs hrun hc hw h1 h24 hd hf hp
  subst hp
  obtain ⟨p, hp⟩ : ∃ p, p = s.panelAt tr.addr := ⟨_, rfl⟩
  have hexec := exec_failedBy hrun hc hw hd hf
  rw [← hp] at hexec ⊢
  have htaken := failureTaken hs h1 h24 f { p with idle := 0 }
  obtain ⟨b, hlasting, hb⟩ := afterFailure_lasting s.shows.clock f { p with idle := 0 }
  simp only [Panel.lasting, Prod.mk.injEq] at hlasting
  obtain ⟨hconfig, hshown, herror, hanswer, hidle, hresync⟩ := hlasting
  obtain ⟨htimeouts, hchecks, hnaks⟩ := failed_counts ({ p.error with recovered := b }) f
  obtain ⟨hfault, hrecovered⟩ := failed_kept ({ p.error with recovered := b }) f
  have hlast := failed_last ({ p.error with recovered := b }) f
  refine ⟨_, _, hexec, htaken.own.symm, htaken.idle, hidle, hresync, hshown, hconfig, ?_, ?_, ?_, fun h => ?_,
    fun h => ?_, fun reason report h => ?_, fun h => ?_, ?_, fun hstate => ⟨?_, ?_⟩, fun hstate => ?_, htaken.frame⟩
  · rw [herror, htimeouts]
  · rw [herror, hchecks]
  · rw [herror, hnaks]
  · rw [herror, hlast, h]
    rfl
  · rw [herror, hlast, h]
    rfl
  · rw [herror, hlast, hanswer, h, failed_nak]
    exact ⟨rfl, rfl, rfl⟩
  · obtain ⟨hreport, hminute⟩ := failed_report_of_not_nak ({ p.error with recovered := b }) f h s.shows.clock p.lastAnswer
    rw [herror, hanswer]
    exact ⟨hreport, hminute⟩
  · rw [herror, hfault]
  · rw [herror, hrecovered]
    exact hb hstate
  · have hq : ({ p with idle := 0 } : Panel).afterFailure s.shows.clock f = ({ p with idle := 0 } : Panel).fail s.shows.clock f :=
      if_neg hstate
    obtain ⟨hless, hmore⟩ := fail_moves s.shows.clock f hq
    refine ⟨hless, fun hge => ?_, fun h => htaken.quiet (.inr h)⟩
    obtain ⟨hr, hbatch, hrefresh, hph, hnormal, hoffline⟩ := hmore hge
    exact ⟨hr, hbatch, hrefresh, hph, hnormal, fun h => ⟨hoffline h, htaken.raised hstate hge h⟩⟩
  · obtain ⟨hr, hph, hst⟩ := probeFail_moves s.shows.clock f (p := { p with idle := 0 }) hstate (if_pos hstate)
    exact ⟨hr, hph, hst, htaken.quiet (.inl hstate)⟩

end Sys2Proof.Machine

/-! ## Answers and acknowledgements (O54) -/

namespace Sys2Proof.Machine

/-! ### The nine bytes of an answer (R169) -/

theorem byte_toNat_eq_iff (b : Byte) {n : Nat} (h : n < 256) : b.toNat = n ↔ b = BitVec.ofNat 8 n := by
  rw [← BitVec.toNat_inj, BitVec.toNat_ofNat, Nat.mod_eq_of_lt h]

/-- A word's two bytes are its value, high byte first (log 39). -/
theorem wordBytes_eq_iff (w : Word) (hi lo : Byte) : wordBytes w = [hi, lo] ↔ w.toNat = 256 * hi.toNat + lo.toNat := by
  have hw := w.isLt
  have hlo := lo.isLt
  have hhi := hi.isLt
  have hhigh : ((w >>> 8).truncate 8).toNat = w.toNat / 256 := by
    simp [BitVec.toNat_ushiftRight, Nat.shiftRight_eq_div_pow]
    omega
  have hlow : (w.truncate 8).toNat = w.toNat % 256 := by simp
  simp only [wordBytes, List.cons.injEq, and_true, ← BitVec.toNat_inj, hhigh, hlow]
  omega

theorem nakReasonOf_eq_some (n : Nat) (x : NakReason) : nakReasonOf n = some x ↔
    (n = 3 ∧ x = .bodyCheck) ∨ (n = 4 ∧ x = .unknownKind) ∨ (n = 5 ∧ x = .badLength) ∨ (n = 6 ∧ x = .overrun) := by
  unfold nakReasonOf
  split
  · simp [eq_comm]
  · simp [eq_comm]
  · simp [eq_comm]
  · simp [eq_comm]
  · rename_i h3 h4 h5 h6
    simp only [reduceCtorEq, false_iff]
    rintro (⟨h, -⟩ | ⟨h, -⟩ | ⟨h, -⟩ | ⟨h, -⟩)
    · exact h3 h
    · exact h4 h
    · exact h5 h
    · exact h6 h

theorem replyOf_ack {request fault report : Nat} (reason : Nat) (h : report ≤ 6) (r : PanelReply) :
    replyOf 1 reason request fault report = some r ↔
      reason = 0 ∧ request ≤ 2 ∧ (request = 2 ↔ fault ≠ 0) ∧ r = ⟨none, request, fault, report⟩ := by
  rw [replyOf, if_neg (Nat.not_lt.mpr h), if_pos rfl]
  split
  · rename_i hfields
    simp [hfields, eq_comm]
  · rename_i hfields
    simp only [reduceCtorEq, false_iff]
    exact fun hr => hfields ⟨hr.1, hr.2.1, hr.2.2.1⟩

theorem replyOf_nak {request fault report : Nat} (reason : Nat) (h : report ≤ 6) (r : PanelReply) :
    replyOf 2 reason request fault report = some r ↔
      request = 0 ∧ fault = 0 ∧ ∃ x, nakReasonOf reason = some x ∧ r = ⟨some x, 0, 0, report⟩ := by
  rw [replyOf, if_neg (Nat.not_lt.mpr h), if_neg (by decide), if_pos rfl]
  split
  · rename_i hfields
    simp only [hfields, Option.map_eq_some_iff, true_and]
    exact exists_congr fun x => and_congr_right fun _ => eq_comm
  · rename_i hfields
    simp only [reduceCtorEq, false_iff]
    exact fun hr => hfields ⟨hr.1, hr.2.1⟩

/-- The kind is that of an ACK or of a NAK, and the report is in its range. -/
theorem replyOf_kind {kind reason request fault report : Nat} {r : PanelReply}
    (h : replyOf kind reason request fault report = some r) : report ≤ 6 ∧ (kind = 1 ∨ kind = 2) := by
  unfold replyOf at h
  split at h
  · cases h
  · rename_i hreport
    refine ⟨Nat.not_lt.mp hreport, ?_⟩
    split at h
    · rename_i hkind
      exact .inl hkind
    · split at h
      · rename_i hkind
        exact .inr hkind
      · cases h

theorem replyOf_bytes (kind reason request fault report : Byte) (r : PanelReply) :
    replyOf kind.toNat reason.toNat request.toNat fault.toNat report.toNat = some r ↔ report.toNat ≤ 6 ∧
      ((kind = 1#8 ∧ reason = 0#8 ∧ request.toNat ≤ 2 ∧ (request = 2#8 ↔ fault ≠ 0#8) ∧
          r = ⟨none, request.toNat, fault.toNat, report.toNat⟩) ∨
        (kind = 2#8 ∧ request = 0#8 ∧ fault = 0#8 ∧
          ((reason = 3#8 ∧ r = ⟨some .bodyCheck, 0, 0, report.toNat⟩) ∨
            (reason = 4#8 ∧ r = ⟨some .unknownKind, 0, 0, report.toNat⟩) ∨
            (reason = 5#8 ∧ r = ⟨some .badLength, 0, 0, report.toNat⟩) ∨
            (reason = 6#8 ∧ r = ⟨some .overrun, 0, 0, report.toNat⟩)))) := by
  have hbyte : ∀ (b : Byte) (n : Nat), n < 256 → (b = BitVec.ofNat 8 n ↔ b.toNat = n) := fun b n hn =>
    (byte_toNat_eq_iff b hn).symm
  rw [hbyte kind 1 (by decide), hbyte kind 2 (by decide), hbyte reason 0 (by decide), hbyte reason 3 (by decide),
    hbyte reason 4 (by decide), hbyte reason 5 (by decide), hbyte reason 6 (by decide), hbyte request 0 (by decide),
    hbyte request 2 (by decide), ne_eq, hbyte fault 0 (by decide)]
  constructor
  · intro h
    obtain ⟨hreport, hkind | hkind⟩ := replyOf_kind h
    · rw [hkind] at h
      exact ⟨hreport, .inl ⟨hkind, (replyOf_ack _ hreport r).mp h⟩⟩
    · rw [hkind] at h
      obtain ⟨hrequest, hfault, x, hx, rfl⟩ := (replyOf_nak _ hreport r).mp h
      refine ⟨hreport, .inr ⟨hkind, hrequest, hfault, ?_⟩⟩
      simpa using (nakReasonOf_eq_some _ x).mp hx
  · rintro ⟨hreport, ⟨hkind, hack⟩ | ⟨hkind, hrequest, hfault, hnak⟩⟩
    · rw [hkind]
      exact (replyOf_ack _ hreport r).mpr hack
    · rw [hkind]
      refine (replyOf_nak _ hreport r).mpr ⟨hrequest, hfault, ?_⟩
      rcases hnak with ⟨hreason, hr⟩ | ⟨hreason, hr⟩ | ⟨hreason, hr⟩ | ⟨hreason, hr⟩
      · exact ⟨_, by rw [hreason]; rfl, hr⟩
      · exact ⟨_, by rw [hreason]; rfl, hr⟩
      · exact ⟨_, by rw [hreason]; rfl, hr⟩
      · exact ⟨_, by rw [hreason]; rfl, hr⟩

theorem checkAnswer_eq_some (addr : Nat) (bytes : List Byte) (r : PanelReply) : checkAnswer addr bytes = some r ↔
    ∃ a kind reason request fault report hi lo, bytes = [0xB4#8, a, kind, reason, request, fault, report, hi, lo] ∧
      a.toNat = addr ∧ (crc16 [a, kind, reason, request, fault, report]).toNat = 256 * hi.toNat + lo.toNat ∧
      replyOf kind.toNat reason.toNat request.toNat fault.toNat report.toNat = some r := by
  constructor
  · intro h
    unfold checkAnswer at h
    split at h
    · split at h
      · rename_i hchecks
        obtain ⟨rfl, haddr, hcrc⟩ := hchecks
        exact ⟨_, _, _, _, _, _, _, _, rfl, haddr, (wordBytes_eq_iff _ _ _).mp hcrc, h⟩
      · cases h
    · cases h
  · rintro ⟨a, kind, reason, request, fault, report, hi, lo, rfl, haddr, hcrc, h⟩
    exact (if_pos ⟨rfl, haddr, (wordBytes_eq_iff _ _ _).mpr hcrc⟩).trans h

/-! ### What the moves of a panel keep (R173, R179) -/

/-- A panel but for its state, its batch and its refresh. -/
def Panel.unmoved (p : Panel) : Panel := { p with state := .absent, batch := none, refresh := none }

theorem unmoved_toSyncing (p : Panel) : p.toSyncing.unmoved = p.unmoved := by
  rw [toSyncing_eq]
  rfl

theorem unmoved_classify (j : Journal) (p : Panel) : (p.classify j).unmoved = p.unmoved := by
  unfold Panel.classify
  split_ifs
  · exact unmoved_toSyncing p
  · rfl
  · rfl

/-- A property of a panel's batch and refresh that an entry to SYNCING and a mark to restart keep. -/
structure KeptByMoves (K : Panel → Prop) : Prop where
  toSyncing : ∀ {p}, K p → K p.toSyncing
  markRestart : ∀ {p}, K p → K p.markRestart
  apart : ∀ {p q}, K p → q.batch = p.batch → q.refresh = p.refresh → K q

theorem batch_none_keptByMoves : KeptByMoves (fun p => p.batch = none) where
  toSyncing h := toSyncing_batch h
  markRestart h := h
  apart h hb _ := hb.trans h

theorem refresh_none_keptByMoves : KeptByMoves (fun p => p.refresh = none) where
  toSyncing {p} h := (toSyncing_refresh p).elim id fun hsame => hsame.trans h
  markRestart h := Option.map_eq_none_iff.mpr h
  apart h _ hr := hr.trans h

theorem KeptByMoves.classify {K : Panel → Prop} (hK : KeptByMoves K) {p : Panel} (h : K p) (j : Journal) :
    K (p.classify j) := by
  unfold Panel.classify
  split_ifs
  · exact hK.toSyncing h
  · exact hK.apart h rfl rfl
  · exact hK.apart h rfl rfl

/-! ### Steps 1 and 2 of an ACK (R180) -/

/-- The panel with the answer recorded, its retry count 0 and its phase NORMAL. -/
def Panel.acknowledged (clock : Clock) (report : Nat) (p : Panel) : Panel := (p.answered clock report).recover

theorem acknowledged_eq (clock : Clock) (report : Nat) (p : Panel) : p.acknowledged clock report =
    { p with
      lastAnswer := if clock.valid then some clock.minute else p.lastAnswer
      error := { p.error with
        report := if report = 0 then p.error.report else some report
        recovered := p.error.recovered || decide (0 < p.retry) || decide (p.phase = .resync) }
      retry := 0
      phase := .normal } := by
  have hanswered : (p.answered clock report).error =
      { p.error with report := if report = 0 then p.error.report else some report } := by
    unfold Panel.answered
    by_cases h : report = 0
    · simp only [if_pos h]
    · simp only [if_neg h]
  have hrecovered : (if 0 < p.retry ∨ p.phase = .resync then
      { (p.answered clock report).error with recovered := true } else (p.answered clock report).error) =
      { (p.answered clock report).error with
        recovered := p.error.recovered || decide (0 < p.retry) || decide (p.phase = .resync) } := by
    by_cases h : 0 < p.retry ∨ p.phase = .resync
    · rw [if_pos h]
      rcases h with h | h <;> simp [h]
    · rw [if_neg h, hanswered]
      obtain ⟨hretry, hphase⟩ := not_or.mp h
      simp [hretry, hphase]
  rw [hanswered] at hrecovered
  rw [← hrecovered, ← hanswered]
  rfl

/-! ### Step 3: the batch in hand takes effect (R177, R179) -/

section
variable {j : Journal} {p : Panel}

theorem batchDone_of_none {carried : Bool} (h : carried = false ∨ p.batch = none) : p.batchDone j carried = p := by
  unfold Panel.batchDone
  split
  · rfl
  · rfl
  · rename_i hb
    rcases h with h | h
    · cases h
    · rw [h] at hb
      cases hb

variable {b : Batch} (hb : p.batch = some b)
include hb

theorem batchDone_begin (hk : b.kind = .refreshBegin) : p.batchDone j true = { p with batch := none } := by
  simp only [Panel.batchDone, hb, hk]

theorem batchDone_update (hk : b.kind = .update) {rev : Nat} (hr : b.rev = some rev) :
    p.batchDone j true = { p with batch := none, shown := rev } := by
  simp only [Panel.batchDone, hb, hk, hr]

theorem batchDone_refresh (hk : b.kind = .refreshUpdate false) {rf : Refresh} (hr : p.refresh = some rf) :
    p.batchDone j true =
      { p with batch := none, refresh := some { rf with position := rf.position + b.records.length } } := by
  simp only [Panel.batchDone, hb, hk, hr]

theorem batchDone_final (hk : b.kind = .refreshUpdate true) {rf : Refresh} (hr : p.refresh = some rf) :
    p.batchDone j true =
      ({ p with batch := none, shown := rf.snapshot, refresh := none } : Panel).classify j := by
  simp only [Panel.batchDone, hb, hk, hr]

theorem batchDone_batch : (p.batchDone j true).batch = none := by
  simp only [Panel.batchDone, hb]
  split
  · rfl
  · rfl
  · exact batch_none_keptByMoves.classify rfl j
  · rfl

end

theorem steady_batchDone (j : Journal) (carried : Bool) (p : Panel) : (p.batchDone j carried).steady = p.steady := by
  unfold Panel.batchDone
  split
  · rfl
  · rfl
  · dsimp only
    split
    · rfl
    · rfl
    · exact steady_classify j _
    · rfl

/-! ### Steps 4 to 7 (R180, R184) -/

/-- What an ACK makes of its panel once the batch has taken effect. -/
def Panel.ackRest (j : Journal) (r : PanelReply) (p : Panel) : Panel :=
  ((p.answeredState.requested r.request r.fault).resyncDone).reclassify j

theorem ack_eq (j : Journal) (clock : Clock) (carried : Bool) (r : PanelReply) (p : Panel) :
    p.ack j clock carried r = ((p.acknowledged clock r.report).batchDone j carried).ackRest j r := rfl

theorem KeptByMoves.ackRest {K : Panel → Prop} (hK : KeptByMoves K) {p : Panel} (h : K p) (j : Journal) (r : PanelReply) :
    K (p.ackRest j r) := by
  have hanswered : K p.answeredState := by
    unfold Panel.answeredState
    split
    · exact hK.apart h rfl rfl
    · exact hK.toSyncing h
    · exact h
  have hme : K p.answeredState.refreshMe := by
    unfold Panel.refreshMe
    split
    · exact hK.markRestart hanswered
    · exact hK.markRestart hanswered
    · exact hK.markRestart (hK.toSyncing hanswered)
  have hrequested : K (p.answeredState.requested r.request r.fault) :=
    iteInduction (motive := K) (fun _ => hme)
      fun _ => iteInduction (motive := K) (fun _ => hK.apart hanswered rfl rfl) fun _ => hanswered
  have hresync : K (p.answeredState.requested r.request r.fault).resyncDone :=
    iteInduction (motive := K) (fun _ => hK.apart (hK.markRestart (hK.toSyncing hrequested)) rfl rfl) fun _ => hrequested
  exact iteInduction (motive := K) (fun _ => hK.classify hresync j) fun _ => hresync

/-! The record of the panel: a fault code when it reports one, and resync pending taken up. -/

theorem unmoved_answeredState (p : Panel) : p.answeredState.unmoved = p.unmoved := by
  unfold Panel.answeredState
  split
  · rfl
  · exact unmoved_toSyncing p
  · rfl

theorem unmoved_requested (request fault : Nat) (p : Panel) : (p.requested request fault).unmoved =
    { p.unmoved with error := { p.error with fault := if request = 2 then some fault else p.error.fault } } := by
  have hme : p.refreshMe.unmoved = p.unmoved := by
    unfold Panel.refreshMe
    split
    · rfl
    · rfl
    · exact unmoved_toSyncing p
  unfold Panel.requested
  split
  · rename_i h
    rw [hme, if_neg (by omega)]
    rfl
  · split
    · rfl
    · rfl

theorem unmoved_resyncDone (p : Panel) : p.resyncDone.unmoved = { p.unmoved with resync := false } := by
  unfold Panel.resyncDone
  split
  · exact congrArg (fun x : Panel => { x with resync := false }) (unmoved_toSyncing p)
  · rename_i h
    rw [← Bool.eq_false_iff.mpr h]
    rfl

theorem unmoved_reclassify (j : Journal) (p : Panel) : (p.reclassify j).unmoved = p.unmoved := by
  unfold Panel.reclassify
  split
  · exact unmoved_classify j p
  · rfl

theorem unmoved_ackRest (j : Journal) (r : PanelReply) (p : Panel) : (p.ackRest j r).unmoved =
    { p.unmoved with
      error := { p.error with fault := if r.request = 2 then some r.fault else p.error.fault }, resync := false } := by
  have herror := congrArg Panel.error (unmoved_answeredState p)
  rw [Panel.ackRest, unmoved_reclassify, unmoved_resyncDone, unmoved_requested, unmoved_answeredState,
    show p.answeredState.error = p.error from herror]

/-! The next state of the panel. -/

theorem answeredState_ne_unknown (p : Panel) : p.answeredState.state ≠ .unknown := by
  unfold Panel.answeredState
  split
  · exact nofun
  · rw [toSyncing_state]
    exact nofun
  · assumption

theorem answeredState_syncing {p : Panel} (h : p.state = .unknown ∨ p.state = .offline ∨ p.state = .syncing) :
    p.answeredState.state = .syncing := by
  unfold Panel.answeredState
  split
  · rfl
  · exact toSyncing_state p
  · rename_i hunknown hoffline
    exact h.elim (fun h => absurd h hunknown) fun h => h.elim (fun h => absurd h hoffline) id

theorem refreshMe_state {p : Panel} (h : p.state ≠ .unknown) : p.refreshMe.state = .syncing := by
  unfold Panel.refreshMe
  split
  · contradiction
  · assumption
  · exact toSyncing_state p

theorem refreshMe_restarts (p : Panel) : p.refreshMe.restarts := by
  unfold Panel.refreshMe
  split
  · exact markRestart_restarts _
  · exact markRestart_restarts _
  · exact markRestart_restarts _

theorem requested_syncing {p : Panel} (h : p.state = .syncing) (request fault : Nat) :
    (p.requested request fault).state = .syncing := by
  unfold Panel.requested
  split
  · exact refreshMe_state (by rw [h]; exact nofun)
  · split
    · exact h
    · exact h

theorem requested_of_refreshMe (p : Panel) (fault : Nat) : p.requested 1 fault = p.refreshMe := rfl

theorem resyncDone_of_pending {p : Panel} (h : p.resync = true) : p.resyncDone.state = .syncing ∧ p.resyncDone.restarts := by
  rw [Panel.resyncDone, if_pos h]
  exact ⟨toSyncing_state p, markRestart_restarts p.toSyncing⟩

theorem resyncDone_of_not_pending {p : Panel} (h : p.resync = false) : p.resyncDone = p := by
  rw [Panel.resyncDone, h]
  exact if_neg Bool.false_ne_true

/-- A panel that is SYNCING with its refresh to restart stays so. -/
theorem resyncDone_keeps {p : Panel} (hs : p.state = .syncing) (hr : p.restarts) :
    p.resyncDone.state = .syncing ∧ p.resyncDone.restarts := by
  cases h : p.resync with
  | true => exact resyncDone_of_pending h
  | false =>
    rw [resyncDone_of_not_pending h]
    exact ⟨hs, hr⟩

theorem reclassify_of_syncing {p : Panel} (h : p.state = .syncing) (j : Journal) : p.reclassify j = p := by
  rw [Panel.reclassify, Panel.isServed, h]
  exact if_neg nofun

theorem ackRest_syncing {p : Panel} (h : p.state = .unknown ∨ p.state = .offline ∨ p.state = .syncing) (j : Journal)
    (r : PanelReply) : (p.ackRest j r).state = .syncing := by
  have hrequested := requested_syncing (answeredState_syncing h) r.request r.fault
  have hresync : (p.answeredState.requested r.request r.fault).resyncDone.state = .syncing := by
    cases hr : (p.answeredState.requested r.request r.fault).resync with
    | true => exact (resyncDone_of_pending hr).1
    | false => rwa [resyncDone_of_not_pending hr]
  rw [Panel.ackRest, reclassify_of_syncing hresync, hresync]

/-- REFRESH_ME and resync pending both lead to SYNCING, a refresh held marked to restart (R184, R187). -/
theorem ackRest_restarts {p : Panel} {r : PanelReply} (h : r.request = 1 ∨ p.resync = true) (j : Journal) :
    (p.ackRest j r).state = .syncing ∧ (p.ackRest j r).restarts := by
  have hresync : (p.answeredState.requested r.request r.fault).resyncDone.state = .syncing ∧
      (p.answeredState.requested r.request r.fault).resyncDone.restarts := by
    rcases h with h | h
    · rw [h, requested_of_refreshMe]
      exact resyncDone_keeps (refreshMe_state (answeredState_ne_unknown p)) (refreshMe_restarts _)
    · refine resyncDone_of_pending ?_
      have hrequested := congrArg Panel.resync (unmoved_requested r.request r.fault p.answeredState)
      have hanswered := congrArg Panel.resync (unmoved_answeredState p)
      exact hrequested.trans (hanswered.trans h)
  rw [Panel.ackRest, reclassify_of_syncing hresync.1]
  exact hresync

/-- A refresh goes on through an ACK that asks for nothing. -/
theorem ackRest_refresh {p : Panel} {r : PanelReply} (hs : p.state = .syncing) (hr : r.request ≠ 1)
    (hp : p.resync = false) (j : Journal) : (p.ackRest j r).refresh = p.refresh := by
  have hanswered : p.answeredState = p := by rw [Panel.answeredState, hs]
  have hrequested : (p.requested r.request r.fault).refresh = p.refresh ∧
      (p.requested r.request r.fault).resync = p.resync := by
    unfold Panel.requested
    rw [if_neg hr]
    split <;> exact ⟨rfl, rfl⟩
  have hdone : (p.requested r.request r.fault).resyncDone = p.requested r.request r.fault :=
    resyncDone_of_not_pending (hrequested.2.trans hp)
  rw [Panel.ackRest, hanswered, hdone, reclassify_of_syncing (requested_syncing hs _ _), hrequested.1]

theorem classify_served {p q : Panel} {j : Journal} (hq : q = p.classify j) (h : q.state = .current ∨ q.state = .behind) :
    j.floor ≤ p.shown ∧ (q.state = .behind ↔ j.second p.shown p.config = true) := by
  unfold Panel.classify at hq
  split at hq
  · rw [hq, toSyncing_state] at h
    rcases h with h | h <;> cases h
  · rename_i hfloor
    refine ⟨Nat.not_lt.mp hfloor, ?_⟩
    split at hq
    · rename_i hsecond
      rw [hq]
      exact ⟨fun _ => hsecond, fun _ => rfl⟩
    · rename_i hsecond
      rw [hq]
      exact ⟨nofun, fun h => absurd h hsecond⟩

/-- A panel left CURRENT or BEHIND without a refresh has just been classified (R173). -/
theorem reclassify_served {p q : Panel} {j : Journal} (hq : q = p.reclassify j)
    (h : q.state = .current ∨ q.state = .behind) (hr : q.refresh = none) :
    j.floor ≤ q.shown ∧ (q.state = .behind ↔ j.second q.shown q.config = true) := by
  have hkept : q.unmoved = p.unmoved := hq ▸ unmoved_reclassify j p
  have hshown : q.unmoved.shown = p.unmoved.shown := congrArg Panel.shown hkept
  have hconfig : q.unmoved.config = p.unmoved.config := congrArg Panel.config hkept
  unfold Panel.reclassify at hq
  split at hq
  · rw [show q.shown = p.shown from hshown, show q.config = p.config from hconfig]
    exact classify_served hq h
  · rename_i hnot
    rw [← hq] at hnot
    refine absurd ?_ hnot
    rcases h with h | h <;> simp [Panel.isServed, h, hr]

/-! ### The ACK outcome -/

theorem applyAck_ended {s : State} (hs : Sized s) {addr : Nat} (h1 : 1 ≤ addr) (h24 : addr ≤ 24) (carried : Bool)
    (r : PanelReply) (p : Panel) : applyAck addr carried r (s.transactionEnded addr p) =
      let u := s.transactionEnded addr (p.ack s.journal s.shows.clock carried r)
      let v := if p.phase = .resync then raise .programme .recovered u else u
      if r.request = 2 then raise .programme .panelFault v else v := by
  have hown : (s.transactionEnded addr p).panelAt addr = p := by
    rw [transactionEnded_panelAt hs h1 h24 h1, if_pos rfl]
  simp only [applyAck, hown, transactionEnded_twice]
  rfl

/-- The state an ACK leaves: its panel as the ACK makes it, the link IDLE, and the causes due raised. -/
structure AckTaken (s t : State) (addr : Nat) (r : PanelReply) (p q : Panel) : Prop where
  own : t.panelAt addr = q
  idle : t.link.cond = .idle
  frame : LinkFrame addr s t
  quiet : p.phase = .normal → r.request ≠ 2 → t.ports = s.ports
  recovered : p.phase = .resync → causeSet .programme .recovered t = true
  fault : r.request = 2 → causeSet .programme .panelFault t = true

theorem ackTaken {s : State} (hs : Sized s) {addr : Nat} (h1 : 1 ≤ addr) (h24 : addr ≤ 24) (carried : Bool)
    (r : PanelReply) (p : Panel) : AckTaken s (applyAck addr carried r (s.transactionEnded addr p)) addr r p
      (p.ack s.journal s.shows.clock carried r) := by
  obtain ⟨q, hq⟩ : ∃ q, q = p.ack s.journal s.shows.clock carried r := ⟨_, rfl⟩
  have hown := transactionEnded_panelAt hs h1 h24 h1 q
  rw [if_pos rfl] at hown
  have hframe := linkFrame_transactionEnded hs h1 h24 q
  rw [applyAck_ended hs h1 h24, ← hq]
  dsimp only
  by_cases hphase : p.phase = .resync
  · have hset : causeSet .programme .recovered (raise .programme .recovered (s.transactionEnded addr q)) = true :=
      raise_sets _ _ _ rfl
    have hnormal : p.phase ≠ .normal := by rw [hphase]; exact nofun
    rw [if_pos hphase]
    split
    · exact ⟨hown, rfl, (hframe.raised _).raised _, fun h => absurd h hnormal,
        fun _ => raise_keeps _ _ _ _ _ hset, fun _ => raise_sets _ _ _ rfl⟩
    · rename_i hrequest
      exact ⟨hown, rfl, hframe.raised _, fun h => absurd h hnormal, fun _ => hset,
        fun h => absurd h hrequest⟩
  · rw [if_neg hphase]
    split
    · rename_i hrequest
      exact ⟨hown, rfl, hframe.raised _, fun _ h => absurd hrequest h, fun h => absurd h hphase,
        fun _ => raise_sets _ _ _ rfl⟩
    · rename_i hrequest
      exact ⟨hown, rfl, hframe, fun _ _ => rfl, fun h => absurd h hphase, fun h => absurd h hrequest⟩

theorem exec_acknowledged {s : State} {tr : Transaction} {w : Nat} {bytes : List Byte} {r : PanelReply}
    (hrun : s.phase = .running) (hc : s.link.cond = .transaction tr) (hw : tr.window = some w)
    (hd : tr.discard = false) (hcheck : checkAnswer tr.addr bytes = some r) (hnak : r.nak = none) :
    exec (.panelAnswer bytes) s = .next (applyAck tr.addr tr.hasBatch r
      (s.transactionEnded tr.addr { s.panelAt tr.addr with idle := 0 })) := by
  have ho : answerOutcome tr bytes = .reply r := by rw [answerOutcome, hcheck]
  rw [exec_panelAnswer hrun hc hw, endTransaction_applies hd, ho]
  simp only [applyOutcome, hnak]

/-- What an ACK records of its panel, beside the state, the batch, the refresh and the shown revision. -/
theorem steady_ack (j : Journal) (clock : Clock) (carried : Bool) (r : PanelReply) (p : Panel) :
    (p.ack j clock carried r).steady =
      { p.steady with
        phase := .normal
        retry := 0
        error := { p.error with
          report := if r.report = 0 then p.error.report else some r.report
          recovered := p.error.recovered || decide (0 < p.retry) || decide (p.phase = .resync)
          fault := if r.request = 2 then some r.fault else p.error.fault }
        lastAnswer := if clock.valid then some clock.minute else p.lastAnswer
        resync := false } := by
  obtain ⟨x, hx⟩ : ∃ x, x = (p.acknowledged clock r.report).batchDone j carried := ⟨_, rfl⟩
  have hrest := congrArg Panel.steady (unmoved_ackRest j r x)
  have hdone := steady_batchDone j carried (p.acknowledged clock r.report)
  rw [← hx, acknowledged_eq] at hdone
  have herror := congrArg Panel.error hdone
  calc (p.ack j clock carried r).steady
      = { x.steady with
          error := { x.steady.error with fault := if r.request = 2 then some r.fault else x.steady.error.fault }
          resync := false } := by rw [ack_eq, ← hx]; exact hrest
    _ = _ := by rw [hdone]; rfl

theorem ack_shown (j : Journal) (clock : Clock) (carried : Bool) (r : PanelReply) (p : Panel) :
    (p.ack j clock carried r).shown = ((p.acknowledged clock r.report).batchDone j carried).shown := by
  have h := congrArg Panel.shown (unmoved_ackRest j r ((p.acknowledged clock r.report).batchDone j carried))
  exact h

/-- What an ACK does with the batch in hand (step 3 of R180): the revision shown, and the refresh. -/
theorem ack_batch (j : Journal) (clock : Clock) (r : PanelReply) {p q : Panel} (hq : q = p.ack j clock true r) {b : Batch}
    (hb : p.batch = some b) : q.batch = none ∧
      (∀ rev, b.kind = .update → b.rev = some rev → q.shown = rev) ∧
      (b.kind = .refreshBegin → q.shown = p.shown) ∧
      (∀ rf, b.kind = .refreshUpdate false → p.refresh = some rf → q.shown = p.shown ∧
        (r.request ≠ 1 → p.resync = false → p.state = .syncing →
          q.refresh = some { rf with position := rf.position + b.records.length })) ∧
      (∀ rf, b.kind = .refreshUpdate true → p.refresh = some rf → q.shown = rf.snapshot ∧ q.refresh = none) := by
  have hbatch : (p.acknowledged clock r.report).batch = some b := hb
  have hshown := ack_shown j clock true r p
  rw [← hq] at hshown
  rw [ack_eq] at hq
  refine ⟨?_, fun rev hk hr => ?_, fun hk => ?_, fun rf hk hr => ⟨?_, fun hreq hresync hstate => ?_⟩,
    fun rf hk hr => ?_⟩
  · rw [hq]
    exact batch_none_keptByMoves.ackRest (batchDone_batch hbatch) j r
  · rw [hshown, batchDone_update hbatch hk hr]
  · rw [hshown, batchDone_begin hbatch hk]
    rfl
  · rw [hshown, batchDone_refresh hbatch hk hr]
    rfl
  · rw [hq, batchDone_refresh hbatch hk hr, ackRest_refresh _ hreq _ j]
    · exact hstate
    · exact hresync
  · rw [batchDone_final hbatch hk hr] at hshown hq
    refine ⟨hshown.trans ?_, ?_⟩
    · have h := congrArg Panel.shown (unmoved_classify j
        { p.acknowledged clock r.report with batch := none, shown := rf.snapshot, refresh := none })
      exact h
    · rw [hq]
      exact refresh_none_keptByMoves.ackRest (refresh_none_keptByMoves.classify rfl j) j r

/-- The batch in hand, if it is none or a REFRESH_BEGIN, leaves the panel's state. -/
theorem batchDone_state {j : Journal} {carried : Bool} {p : Panel} (h : ∀ b, p.batch = some b → b.kind = .refreshBegin) :
    (p.batchDone j carried).state = p.state := by
  cases hb : p.batch with
  | none => rw [batchDone_of_none (.inr hb)]
  | some b =>
    cases carried with
    | false => rw [batchDone_of_none (.inl rfl)]
    | true => rw [batchDone_begin hb (h b hb)]

theorem ack_shown_kept (j : Journal) (clock : Clock) {carried : Bool} (r : PanelReply) {p : Panel}
    (h : carried = false ∨ p.batch = none) : (p.ack j clock carried r).shown = p.shown := by
  rw [ack_shown, batchDone_of_none (p := p.acknowledged clock r.report) h]
  rfl

/-- The state an ACK gives its panel (steps 4 to 7 of R180). -/
theorem ack_moves (j : Journal) (clock : Clock) (carried : Bool) (r : PanelReply) {p q : Panel}
    (hq : q = p.ack j clock carried r) :
    ((p.state = .unknown ∨ p.state = .offline) → (∀ b, p.batch = some b → b.kind = .refreshBegin) →
      q.state = .syncing) ∧
    (r.request = 1 ∨ p.resync = true → q.state = .syncing ∧ q.restarts) ∧
    (q.state = .current ∨ q.state = .behind → q.refresh = none →
      j.floor ≤ q.shown ∧ (q.state = .behind ↔ j.second q.shown q.config = true)) := by
  have hkept := congrArg Panel.resync (steady_batchDone j carried (p.acknowledged clock r.report))
  rw [ack_eq] at hq
  refine ⟨fun hfrom hbatch => ?_, fun h => ?_, reclassify_served hq⟩
  · rw [hq]
    refine ackRest_syncing ?_ j r
    rw [batchDone_state (p := p.acknowledged clock r.report) hbatch]
    exact hfrom.imp id .inl
  · rw [hq]
    refine ackRest_restarts (h.imp id fun hresync => ?_) j
    exact Eq.trans hkept hresync

/-- Settles O54: the nine bytes read as their fields; an ACK's record, its batch, and the panel's next state. -/
theorem panelAcknowledges : Obligations.PanelAcknowledges := by
  refine ⟨fun addr bytes r => ?_, fun s tr w bytes r p hs hrun hc hw h1 h24 hd hcheck hnak hp => ?_⟩
  · simp only [checkAnswer_eq_some, replyOf_bytes]
  · have hexec := exec_acknowledged hrun hc hw hd hcheck hnak
    rw [← hp] at hexec
    have htaken := ackTaken hs h1 h24 tr.hasBatch r { p with idle := 0 }
    obtain ⟨q, hq⟩ : ∃ q, q = ({ p with idle := 0 } : Panel).ack s.journal s.shows.clock tr.hasBatch r := ⟨_, rfl⟩
    have hsteady := steady_ack s.journal s.shows.clock tr.hasBatch r { p with idle := 0 }
    obtain ⟨hfrom, hrestarts, hserved⟩ := ack_moves s.journal s.shows.clock tr.hasBatch r hq
    rw [← hq] at htaken hsteady
    simp only [Panel.steady, Panel.mk.injEq, true_and] at hsteady
    obtain ⟨hconfig, hphase, hretry, herror, hanswer, hidle, hresync⟩ := hsteady
    refine ⟨_, q, hexec, htaken.own.symm, htaken.idle, hidle, hretry, hphase, hresync, hconfig, hanswer, by rw [herror],
      by rw [herror], by rw [herror], htaken.recovered, htaken.fault, htaken.quiet, fun h => ?_, fun b hcarried hb => ?_,
      fun hu hb => hfrom (.inl hu) hb, fun ho hb => hfrom (.inr ho) fun b h => absurd h (hb b),
      fun h => hrestarts (.inl h), fun h => hrestarts (.inr h), hserved, htaken.frame⟩
    · rw [hq]
      exact ack_shown_kept s.journal s.shows.clock r (p := { p with idle := 0 }) h
    · rw [hcarried] at hq
      exact ack_batch s.journal s.shows.clock r hq hb

end Sys2Proof.Machine

/-! ## Set Panel and Link Reset (O56, O57) -/

namespace Sys2Proof.Machine

/-! ### The tests of Set Panel and the configuration it writes (R187) -/

/-- The view names nothing a panel can show. -/
def viewBad : ViewArg → Bool
  | .unknown _ => true
  | .door a => decide (a = 0 ∨ 16 < a)
  | _ => false

/-- The configuration with the view's parameters, clamped. -/
def PanelConfig.viewing (c : PanelConfig) : ViewArg → PanelConfig
  | .board n d => { c with view := .board, page := clampTo 4 12 n, dwell := clampTo 5 60 d }
  | .door a => { c with view := .door, aud := a }
  | .spot r => { c with view := .spot, reel := clampTo 0 3 r }
  | _ => { c with view := .blank }

/-- The configuration Set Panel writes. -/
def PanelConfig.written (c : PanelConfig) (present : Bool) (view : ViewArg) (group : Nat) : PanelConfig :=
  { c.viewing view with present := present, group := group }

theorem withView_eq (c : PanelConfig) (present : Bool) (group : Nat) (view : ViewArg) :
    c.withView present group view = if viewBad view then none else some (c.written present view group) := by
  cases view with
  | door a =>
    by_cases h : a = 0 ∨ 16 < a
    · simp only [PanelConfig.withView, viewBad, h, decide_true, if_true]
    · simp only [PanelConfig.withView, viewBad, h, decide_false, Bool.false_eq_true, if_false]
      rfl
  | _ => rfl

/-- The panel configured, and the transaction in flight to a panel made absent marked for discard. -/
def panelConfigured (addr : Nat) (c : PanelConfig) (s : State) : State :=
  (s.withPanelAt addr ((s.panelAt addr).reconfigured c (inFlight s addr))).withCond
    (if discards s addr c then s.link.cond.markDiscard else s.link.cond)

theorem setPanel_tested (addr : Nat) (present : Bool) (view : ViewArg) (group : Nat) (s : State) :
    setPanel addr present view group s =
      tested [(s.store.state != .idle, .storeBusy),
        (decide (addr = 0 ∨ 24 < addr ∨ 7 < group) || viewBad view, .badArgument)] s
        (panelConfigured addr ((s.panelAt addr).config.written present view group) s, okMarked (viewClamped view) []) := by
  have hmarked : ∀ c, (if discards s addr c then
      (s.withPanelAt addr ((s.panelAt addr).reconfigured c (inFlight s addr))).withCond s.link.cond.markDiscard
      else s.withPanelAt addr ((s.panelAt addr).reconfigured c (inFlight s addr))) = panelConfigured addr c s := fun c => by
    unfold panelConfigured
    split <;> rfl
  rw [tested_cons, tested_cons, tested_nil, setPanel, withView_eq]
  by_cases hrange : addr = 0 ∨ 24 < addr ∨ 7 < group
  · simp only [hrange, decide_true, Bool.true_or, if_true]
    rfl
  · cases hbad : viewBad view with
    | true =>
      simp only [hrange, if_false, decide_false, Bool.or_true, if_true]
      rfl
    | false =>
      simp only [hrange, if_false, decide_false, Bool.or_false, Bool.false_eq_true]
      rw [← hmarked]
      rfl

/-! ### What a new configuration does to its panel (R187, log 34) -/

section
variable {c : PanelConfig} {flight : Bool} {p : Panel}

theorem reconfigured_config : (p.reconfigured c flight).config = c := by
  simp only [Panel.reconfigured]
  split_ifs
  · rfl
  · rfl
  · rfl
  · rfl
  · rfl
  · split
    · rfl
    · rfl
    · exact toSyncing_config _
    · exact toSyncing_config _
    · rfl

theorem viewChanged_iff (a b : PanelConfig) : viewChanged a b = true ↔ viewRecord a ≠ viewRecord b := bne_iff_ne

theorem reconfigured_appears (hp : p.state = .absent) (hc : c.present = true) : p.reconfigured c flight =
    { p with config := c, state := .unknown, shown := 0, phase := .normal, retry := 0, idle := 0 } := by
  simp only [Panel.reconfigured, hp, hc, if_true]

theorem reconfigured_absent (hp : p.state = .absent) (hc : c.present = false) :
    p.reconfigured c flight = { p with config := c } := by
  simp only [Panel.reconfigured, hp, hc, if_true, Bool.false_eq_true, if_false]

theorem reconfigured_leaves (hp : p.state ≠ .absent) (hc : c.present = false) : p.reconfigured c flight =
    { p with config := c, state := .absent, shown := 0, phase := .normal, retry := 0, batch := none,
             refresh := none } := by
  simp only [Panel.reconfigured, hp, hc, if_false, Bool.not_false, if_true]

theorem reconfigured_same_view (hp : p.state ≠ .absent) (hc : c.present = true)
    (hv : viewRecord p.config = viewRecord c) : p.reconfigured c flight = { p with config := c } := by
  have hsame : viewChanged p.config c = false := Bool.eq_false_iff.mpr fun h => (viewChanged_iff _ _).mp h hv
  simp only [Panel.reconfigured, hp, hc, hsame, if_false, if_true, Bool.not_true, Bool.not_false, Bool.false_eq_true]

variable (hp : p.state ≠ .absent) (hc : c.present = true) (hv : viewRecord p.config ≠ viewRecord c)
include hp hc hv

theorem reconfigured_in_flight : p.reconfigured c true = { p with config := c, resync := true } := by
  have hchanged : viewChanged p.config c = true := (viewChanged_iff _ _).mpr hv
  simp only [Panel.reconfigured, hp, hc, hchanged, if_false, if_true, Bool.not_true, Bool.false_eq_true]

/-- With no transaction in flight a changed view is taken up by the panel's state. -/
theorem reconfigured_between :
    (p.state = .unknown ∨ p.state = .syncing → p.reconfigured c false = { p with
      config := c, batch := none, retry := 0, refresh := p.refresh.map (fun r => { r with restart := true }) }) ∧
    (p.state = .current ∨ p.state = .behind → p.reconfigured c false = { p with
      config := c, state := .syncing, retry := 0, batch := none, refresh := none }) ∧
    (p.state = .offline → p.reconfigured c false = { p with config := c }) := by
  have hchanged : viewChanged p.config c = true := (viewChanged_iff _ _).mpr hv
  simp only [Panel.reconfigured, hp, hc, hchanged, if_false, Bool.not_true, Bool.false_eq_true]
  refine ⟨fun h => ?_, fun h => ?_, fun h => ?_⟩
  · rcases h with h | h <;> simp only [h, Panel.markRestart]
  · rcases h with h | h <;> simp only [h, Panel.toSyncing]
  · simp only [h]

end

/-! ### Set Panel on the link -/

theorem panelConfigured_panelAt {addr a : Nat} {s : State} (h1 : 1 ≤ addr) (hl : addr ≤ s.link.panels.length)
    (ha : 1 ≤ a) (c : PanelConfig) : (panelConfigured addr c s).panelAt a =
      if a = addr then (s.panelAt addr).reconfigured c (inFlight s addr) else s.panelAt a :=
  panelAt_withPanelAt h1 hl ha _

theorem panelConfigured_cond (addr : Nat) (c : PanelConfig) (s : State) : (panelConfigured addr c s).link.cond =
    if discards s addr c then s.link.cond.markDiscard else s.link.cond := rfl

/-- A panel made absent has the answer of its transaction discarded (R187). -/
theorem panelConfigured_discards {addr : Nat} {c : PanelConfig} {s : State} {tr : Transaction}
    (hc : s.link.cond = .transaction tr) (haddr : tr.addr = addr) (hp : (s.panelAt addr).state ≠ .absent)
    (hpresent : c.present = false) :
    (panelConfigured addr c s).link.cond = .transaction { tr with discard := true } := by
  have hflight : inFlight s addr = true := by
    unfold inFlight
    rw [hc]
    exact beq_iff_eq.mpr haddr
  have hdiscards : discards s addr c = true := by
    rw [discards, hflight, hpresent, bne_iff_ne.mpr hp]
    rfl
  rw [panelConfigured_cond, if_pos hdiscards, hc]
  rfl

theorem panelConfigured_cond_same {addr : Nat} {s : State} (h : inFlight s addr = false) (c : PanelConfig) :
    (panelConfigured addr c s).link.cond = s.link.cond := by
  rw [panelConfigured_cond, discards, h]
  rfl

/-- Settles O56: the configuration written, then the rows of R187 by presence, view and transaction. -/
theorem panelsAreConfigured : Obligations.PanelsAreConfigured := by
  intro h addr present view group s hs
  refine takenOrRefused_of (setPanel addr present view group)
    (fun u => panelConfigured addr ((u.panelAt addr).config.written present view group) u)
    (okMarked (viewClamped view) []) rfl rfl (fun q => setPanel_tested addr present view group (s.withPorts q))
    fun s1 t hn a hx f p c hp hc => ?_
  have hrange : ¬ (addr = 0 ∨ 24 < addr ∨ 7 < group) := by
    have htest := firstRefusal_eq_none.mp hn _ (List.mem_cons_of_mem _ (List.mem_singleton_self _))
    exact of_decide_eq_false (Bool.or_eq_false_iff.mp htest).1
  have hlen : addr ≤ s.link.panels.length := by
    rw [hs.panels_length]
    omega
  have hlink : t.link = (panelConfigured addr c s).link := by
    rw [f.link, a.eq_withPorts, hc, hp]
    rfl
  have hpanel : ∀ b, 1 ≤ b → t.panelAt b = if b = addr then p.reconfigured c (inFlight s addr) else s.panelAt b :=
    fun b hb => by rw [panelAt_link hlink, panelConfigured_panelAt (by omega) hlen hb, hp]
  have hown := hpanel addr (by omega)
  rw [if_pos rfl] at hown
  obtain rfl : present = c.present := by rw [hc]
  refine ⟨t, _, ⟨hx, f.answered⟩, rfl, ?_, fun hstate hin => ?_, fun hstate hout => ?_, fun hstate hout => ⟨?_, ?_⟩,
    fun hstate hin hview => ?_, fun hstate hin hview => ⟨fun hflight => ?_, fun hflight => ?_⟩, fun hflight => ?_,
    fun b hb hne => ?_, ?_, quietly_of a f rfl⟩
  · rw [hown, reconfigured_config]
  · rw [hown, reconfigured_appears hstate hin]
  · rw [hown, reconfigured_absent hstate hout]
  · rw [hown, reconfigured_leaves hstate hout]
  · intro tr hcond haddr
    rw [hlink, panelConfigured_discards hcond haddr (hp ▸ hstate) hout]
  · rw [hown, reconfigured_same_view hstate hin hview]
  · rw [hown, hflight, reconfigured_in_flight hstate hin hview]
  · rw [hown, hflight]
    exact reconfigured_between hstate hin hview
  · rw [hlink, panelConfigured_cond_same hflight]
  · rw [hpanel b hb, if_neg hne]
  · rw [f.blocks, a.blocks]
    rfl

/-! ### Link Reset (R188) -/

theorem linkReset_panel {p : Panel} (h : p.state ≠ .absent) : p.linkReset =
    { p with state := .unknown, shown := 0, phase := .normal, retry := 0, idle := 0, batch := none, refresh := none,
             resync := false, error := .clear } := if_neg h

theorem linkReset_absent {p : Panel} (h : p.state = .absent) : p.linkReset = p := if_pos h

theorem reset_panelAt {s u : State} (hs : Sized s) (hu : u.link = s.link.reset) {a : Nat} (h1 : 1 ≤ a) (h24 : a ≤ 24) :
    u.panelAt a = (s.panelAt a).linkReset := by
  have hl : a - 1 < s.link.panels.length := by
    rw [hs.panels_length]
    omega
  simp [State.panelAt, hu, PanelLink.reset, List.getElem?_eq_getElem hl]

theorem markDiscard_other {c : LinkCond} (h : ∀ tr, c ≠ .transaction tr) : c.markDiscard = c := by
  cases c with
  | transaction tr => exact absurd rfl (h tr)
  | _ => rfl

/-- Settles O57: the link reset panel by panel; a discarded answer ends its transaction and nothing else. -/
theorem linkResets : Obligations.LinkResets := by
  intro h s hs
  refine ⟨?_, fun tr w bytes hrun hc hw hd _ _ => ?_⟩
  · refine takenOrRefused_of linkReset (fun u => u.withLink u.link.reset) (okWith []) rfl rfl (fun _ => rfl)
      fun s1 t _ a hx f => ?_
    have hlink : t.link = s.link.reset := by rw [f.link, withLink_link, a.link]
    have hcond : t.link.cond = s.link.cond.markDiscard := by
      rw [hlink]
      rfl
    refine ⟨t, ⟨hx, f.answered⟩, fun b h1 h24 => ⟨fun hp => ?_, fun hp => ?_⟩, fun tr hc => ?_, fun hc => ?_,
      by rw [hlink]; rfl, by rw [hlink]; rfl, by rw [hlink]; rfl, ?_, quietly_of a f rfl⟩
    · rw [reset_panelAt hs hlink h1 h24, linkReset_absent hp]
    · rw [reset_panelAt hs hlink h1 h24, linkReset_panel hp]
    · rw [hcond, hc]
      rfl
    · rw [hcond, markDiscard_other hc]
    · rw [f.blocks, a.blocks]
      rfl
  · rw [exec_panelAnswer hrun hc hw, endTransaction_discarded hd]
    rfl

end Sys2Proof.Machine

/-! ## What raising causes leaves of the ports (R197) -/

namespace Sys2Proof.Machine

/-! ### A port without the causes of its table -/

/-- A port without the causes of its table: what raising a cause leaves of it. -/
def PortState.untabled (p : Port) (x : PortState) : PortState := { x with causes := x.causes >>> causeBits p }

/-- The ports without the causes of their tables: what a block other than the ports leaves of them. -/
def Ports.untabled (q : Ports) : Ports :=
  ⟨q.a.untabled .salesA, q.b.untabled .salesB, q.p.untabled .programme⟩

theorem untabled_at (q : Ports) (p : Port) : q.untabled.at_ p = (q.at_ p).untabled p := by cases p <;> rfl

theorem untabled_portAt {s t : State} (h : t.ports.untabled = s.ports.untabled) (p : Port) :
    (t.portAt p).untabled p = (s.portAt p).untabled p := by
  rw [portAt_eq, portAt_eq, ← untabled_at, ← untabled_at, h]

/-- A cause of a port's table has its bit in the table (R197). -/
theorem causeBit_lt {p : Port} {c : Cause} {n : Nat} (h : c.bit p = some n) : n < causeBits p := by
  cases p <;> cases c <;> cases h <;> decide

theorem raisedWord_untabled (p : Port) (c : Cause) (w : Word) :
    raisedWord p c w >>> causeBits p = w >>> causeBits p := by
  unfold raisedWord
  split
  · rename_i n hn
    refine BitVec.eq_of_getLsbD_eq fun i _ => ?_
    have hlt : ¬ n = causeBits p + i := by have := causeBit_lt hn; omega
    simp [setBit, BitVec.getLsbD_shiftLeft, BitVec.getLsbD_one]
    omega
  · rfl

@[simp] theorem raise_untabled (p : Port) (c : Cause) (s : State) : (raise p c s).ports.untabled = s.ports.untabled := by
  have hraised : ({ s.portAt p with causes := raisedWord p c (s.portAt p).causes } : PortState).untabled p =
      (s.portAt p).untabled p := by
    simp only [PortState.untabled, raisedWord_untabled]
  refine ports_ext _ _ fun q => ?_
  rw [untabled_at, untabled_at, raise, withPortAt_ports, put_at]
  split
  · rename_i hq
    rw [hq]
    exact hraised
  · rfl

@[simp] theorem raiseAll_untabled (c : Cause) (s : State) : (raiseAll c s).ports.untabled = s.ports.untabled := by
  simp [raiseAll]

/-- The causes a change of shows may raise are all in the tables. -/
theorem causeBit_above_of_showCauses {s t : State} (h : OnlyShowCauses s t) {p : Port} {n : Nat} (hn : causeBits p ≤ n) :
    causeBit p n t = causeBit p n s :=
  h p n (by rintro ⟨rfl, rfl | rfl⟩ <;> exact absurd hn (by decide))
    (by rintro ⟨-, rfl | rfl⟩ <;> cases p <;> exact absurd hn (by decide))

theorem untabled_of_showCauses {s t : State} (hq : t.ports.quiet = s.ports.quiet) (hc : OnlyShowCauses s t) :
    t.ports.untabled = s.ports.untabled := by
  refine ports_ext _ _ fun p => ?_
  have hquiet : (t.portAt p).quiet = (s.portAt p).quiet := by
    have h := congrArg (fun q : Ports => q.at_ p) hq
    cases p <;> exact h
  have hcauses : (t.portAt p).causes >>> causeBits p = (s.portAt p).causes >>> causeBits p :=
    BitVec.eq_of_getLsbD_eq fun i _ => by
      rw [BitVec.getLsbD_ushiftRight, BitVec.getLsbD_ushiftRight]
      exact causeBit_above_of_showCauses hc (Nat.le_add_right _ i)
  calc t.ports.untabled.at_ p
      = { (t.portAt p).quiet with causes := (t.portAt p).causes >>> causeBits p } := untabled_at _ p
    _ = { (s.portAt p).quiet with causes := (s.portAt p).causes >>> causeBits p } := by rw [hquiet, hcauses]
    _ = s.ports.untabled.at_ p := (untabled_at _ p).symm

theorem Framed.untabled {s t : State} (a : Framed s t) : t.ports.untabled = s.ports.untabled :=
  untabled_of_showCauses a.quiet a.causes

/-! ### Filings, shows and seats -/

@[simp] theorem file_untabled (t : Target) (f : Form) (s : State) : (file t f s).ports.untabled = s.ports.untabled :=
  untabled_of_showCauses (by simp) (.of_forced (file_onlyForced t f s))

@[simp] theorem publishTitle_untabled (index : Nat) (s : State) :
    (publishTitle index s).ports.untabled = s.ports.untabled := by
  simp only [publishTitle]
  split <;> simp

@[simp] theorem publishShow_untabled (key : Nat) (auds : List Nat) (s : State) :
    (publishShow key auds s).ports.untabled = s.ports.untabled := (framed_publish key auds s).untabled

@[simp] theorem testWindows_untabled (s : State) : (testWindows s).ports.untabled = s.ports.untabled :=
  untabled_of_showCauses (by simp) (.of_forced (publishLines_onlyForced _ s))

@[simp] theorem availability_untabled (key : Nat) (s : State) :
    (availability key s).ports.untabled = s.ports.untabled := (availability_framed key s).untabled

@[simp] theorem computeAll_untabled (s : State) : (computeAll s).ports.untabled = s.ports.untabled :=
  (computeAll_framed s).untabled

@[simp] theorem enterState_untabled (publish : Bool) (key : Nat) (st : ShowState) (x : Option (StartedBy × Nat))
    (s : State) : (enterState publish key st x s).ports.untabled = s.ports.untabled :=
  (moved_enterState publish key st x s).framed.untabled

@[simp] theorem evaluate_untabled (publish : Bool) (key : Nat) (s : State) :
    (evaluate publish key s).ports.untabled = s.ports.untabled := (moved_evaluate publish key s).framed.untabled

@[simp] theorem evaluateKeys_untabled (publish : Bool) (keys : List Nat) (s : State) :
    (evaluateKeys publish keys s).ports.untabled = s.ports.untabled := (evaluateKeys_framed publish keys s).untabled

@[simp] theorem evaluateAll_untabled (s : State) : (evaluateAll s).ports.untabled = s.ports.untabled :=
  (evaluateAll_framed s).untabled

@[simp] theorem startChanged_untabled (key aud : Nat) (s : State) :
    (startChanged key aud s).ports.untabled = s.ports.untabled := (startChanged_framed key aud s).untabled

@[simp] theorem arrival_untabled (aud : Nat) (s : State) : (arrival aud s).ports.untabled = s.ports.untabled := by
  unfold arrival
  split
  · rfl
  · split <;> simp

/-- A hold that lapses raises a cause of its port's table (R67). -/
@[simp] theorem expireHold_untabled (slot : Nat) (s : State) :
    (expireHold slot s).ports.untabled = s.ports.untabled := by
  unfold expireHold
  split <;> simp

@[simp] theorem tickSlot_untabled (slot : Nat) (s : State) : (tickSlot slot s).ports.untabled = s.ports.untabled := by
  unfold tickSlot
  split
  · split <;> simp
  · rfl

@[simp] theorem seatTick_untabled (s : State) : (seatTick s).ports.untabled = s.ports.untabled := by
  unfold seatTick
  split
  · exact foldl_keep (fun u : State => u.ports.untabled) _ (by intros; simp) _ s
  · rfl

/-! ### Notices, the day and the clock -/

@[simp] theorem fileNotices_untabled (s : State) : (fileNotices s).ports.untabled = s.ports.untabled :=
  file_untabled _ _ s

@[simp] theorem withdrawWhere_untabled (f : Notice → Bool) (s : State) :
    (withdrawWhere f s).ports.untabled = s.ports.untabled := (framed_withdraw f s).untabled

@[simp] theorem raiseEnded_untabled (gone : List Notice) (s : State) :
    (raiseEnded gone s).ports.untabled = s.ports.untabled :=
  foldl_keep (fun u : State => u.ports.untabled) _ (by intros; split <;> simp) gone s

@[simp] theorem raiseWithdrawn_untabled (p : Port) (n : Notice) (s : State) :
    (raiseWithdrawn p n s).ports.untabled = s.ports.untabled := by
  unfold raiseWithdrawn
  split <;> simp

@[simp] theorem expireNotices_untabled (s : State) : (expireNotices s).ports.untabled = s.ports.untabled := by
  simp only [expireNotices]
  split <;> simp

@[simp] theorem noticeBoundary_untabled (s : State) : (noticeBoundary s).ports.untabled = s.ports.untabled := by
  simp only [noticeBoundary]
  split_ifs <;> simp

@[simp] theorem rollDay_untabled (s : State) : (rollDay s).ports.untabled = s.ports.untabled :=
  untabled_of_showCauses (by simp) (rollDay_framed s).causes

@[simp] theorem clockSet_untabled (s : State) : (clockSet s).ports.untabled = s.ports.untabled := by
  simp [clockSet, noticesAtClockSet]

@[simp] theorem boundaryAt_untabled (r : MinReceiver) (s : State) :
    (boundaryAt r s).ports.untabled = s.ports.untabled := by
  cases r <;> simp [boundaryAt]

@[simp] theorem minuteBoundary_untabled (order : List MinReceiver) (s : State) :
    (minuteBoundary order s).ports.untabled = s.ports.untabled := by
  have hshares : ∀ (l : List MinReceiver) (u : State),
      (l.foldl (fun v r => boundaryAt r v) u).ports.untabled = u.ports.untabled :=
    foldl_keep (fun u : State => u.ports.untabled) _ (by intros; simp)
  simp only [minuteBoundary, hshares]
  split <;> simp

@[simp] theorem clockTick_untabled (order : List MinReceiver) (s : State) :
    (clockTick order s).ports.untabled = s.ports.untabled := by
  unfold clockTick
  split_ifs <;> simp

@[simp] theorem journalDayClear_untabled (s : State) : (journalDayClear s).ports.untabled = s.ports.untabled := by
  simp only [journalDayClear]
  split <;> simp

@[simp] theorem clearDay_untabled (s : State) : (clearDay s).ports.untabled = s.ports.untabled := by
  simp [clearDay]

/-! ### Reels, the house and the link -/

@[simp] theorem fileReel_untabled (r : Nat) (s : State) : (fileReel r s).ports.untabled = s.ports.untabled :=
  file_untabled _ _ s

@[simp] theorem cueReel_untabled (starting : Bool) (r : Nat) (s : State) :
    (cueReel starting r s).ports.untabled = s.ports.untabled := by
  simp [cueReel]

@[simp] theorem cueOrHold_untabled (r : Nat) (s : State) : (cueOrHold r s).ports.untabled = s.ports.untabled := by
  unfold cueOrHold
  split <;> simp

@[simp] theorem tickReel_untabled (r : Nat) (s : State) : (tickReel r s).ports.untabled = s.ports.untabled := by
  unfold tickReel
  split_ifs <;> simp

@[simp] theorem reelTick_untabled (s : State) : (reelTick s).ports.untabled = s.ports.untabled := by
  unfold reelTick
  split
  · exact foldl_keep (fun u : State => u.ports.untabled) _ (by intros; simp) _ s
  · rfl

@[simp] theorem holdReels_untabled (s : State) : (holdReels s).ports.untabled = s.ports.untabled :=
  foldl_keep (fun u : State => u.ports.untabled) _ (by intro u r; unfold holdReel; split <;> simp) _ s

@[simp] theorem resumeReel_untabled (r : Nat) (s : State) : (resumeReel r s).ports.untabled = s.ports.untabled := by
  unfold resumeReel
  split
  · split <;> simp
  · rfl

@[simp] theorem resumeReels_untabled (s : State) : (resumeReels s).ports.untabled = s.ports.untabled :=
  foldl_keep (fun u : State => u.ports.untabled) _ (by intros; simp) _ s

@[simp] theorem alertReturn_untabled (s : State) : (alertReturn s).ports.untabled = s.ports.untabled := by
  simp [alertReturn]

/-- Whatever the alert state becomes, the ports get ALERT_CHANGE and no other cause (R142). -/
@[simp] theorem readingChanged_untabled (active : Bool) (s : State) :
    (readingChanged active s).ports.untabled = s.ports.untabled := by
  cases active with
  | true =>
    show (becomesActive s).ports.untabled = _
    unfold becomesActive
    split <;> simp [alertEntry, alertReentry]
  | false =>
    show (becomesInactive s).ports.untabled = _
    unfold becomesInactive
    split <;> simp [alertHold]

@[simp] theorem writeAlertEntry_untabled (p : Polarity) (d : Nat) (s : State) :
    (writeAlertEntry p d s).ports.untabled = s.ports.untabled := by
  simp only [writeAlertEntry]
  split <;> simp

@[simp] theorem sampleLine_untabled (i : Nat) (level : Level) (s : State) :
    (sampleLine i level s).ports.untabled = s.ports.untabled := by
  simp only [sampleLine, lineQualified]
  split_ifs <;> simp

@[simp] theorem sampleLines_untabled (lines : Word) (s : State) :
    (sampleLines lines s).ports.untabled = s.ports.untabled :=
  foldl_keep (fun u : State => u.ports.untabled) _ (by intros; simp) _ s

@[simp] theorem sampleAlert_untabled (level : Level) (s : State) :
    (sampleAlert level s).ports.untabled = s.ports.untabled := by
  simp only [sampleAlert]
  split <;> simp

@[simp] theorem raiseInvalid_untabled (s : State) : (raiseInvalid s).ports.untabled = s.ports.untabled := by
  unfold raiseInvalid
  split <;> simp

@[simp] theorem alertFound_untabled (level : Level) (s : State) :
    (alertFound level s).ports.untabled = s.ports.untabled := by
  have hlevel : (levelTaken level s).ports = s.ports := by
    unfold levelTaken
    split <;> simp
  simp [alertFound_eq, hlevel]

@[simp] theorem startUpAlertSample_untabled (level : Level) (s : State) :
    (startUpAlertSample level s).ports.untabled = s.ports.untabled := by
  simp only [startUpAlertSample]
  split <;> simp

@[simp] theorem houseTick_untabled (lines : Word) (level : Level) (s : State) :
    (houseTick lines level s).ports.untabled = s.ports.untabled := by
  simp only [houseTick]
  split <;> simp

@[simp] theorem applyAck_untabled (addr : Nat) (carried : Bool) (r : PanelReply) (s : State) :
    (applyAck addr carried r s).ports.untabled = s.ports.untabled := by
  simp only [applyAck]
  split_ifs <;> simp

@[simp] theorem applyFailure_untabled (addr : Nat) (f : Failure) (s : State) :
    (applyFailure addr f s).ports.untabled = s.ports.untabled := by
  simp only [applyFailure]
  split_ifs <;> simp

@[simp] theorem endTransaction_untabled (t : Transaction) (o : LinkOutcome) (s : State) :
    (endTransaction t o s).ports.untabled = s.ports.untabled := by
  simp only [endTransaction]
  split
  · rfl
  · unfold applyOutcome
    split
    · split <;> simp
    · simp

@[simp] theorem windowOut_untabled (s : State) : (windowOut s).ports.untabled = s.ports.untabled := by
  unfold windowOut
  repeat' split
  all_goals simp

@[simp] theorem linkTick_untabled (s : State) : (linkTick s).ports.untabled = s.ports.untabled := by
  unfold linkTick
  repeat' split
  all_goals simp

end Sys2Proof.Machine

/-! ## The operations of a port, and the law they keep (R191 to R196) -/

namespace Sys2Proof.Machine

/-! ### Answering a request, by the answers that stand and the requests that wait (R194, R195) -/

theorem promote_of_none_waiting {x : PortState} (hw : x.waiting = []) : x.promote = x := by
  simp only [PortState.promote, hw]
  split <;> simp_all

theorem promote_of_waiting {x : PortState} (he : x.execution = none) (hh : x.held = none) {f : Frame}
    {rest : List Frame} (hw : x.waiting = f :: rest) :
    x.promote = { x with execution := some f, waiting := rest } := by
  simp only [PortState.promote, he, hh, hw]

/-- With the answer list full the answer waits for a place, and so do the requests behind it (log 19). -/
theorem finish_of_full {x : PortState} (ha : 8 ≤ x.answers.length) (a : Answer) :
    x.finish a = { x with held := some a, execution := none } := by
  have hfull : ¬ x.answers.length < Config.answerPlaces := Nat.not_lt.mpr ha
  simp only [PortState.finish, PortState.answer, if_neg hfull]
  rfl

theorem finish_of_none_waiting {x : PortState} (ha : x.answers.length < 8) (hw : x.waiting = []) (a : Answer) :
    x.finish a = { x with answers := x.answers ++ [a], execution := none } := by
  have hroom : x.answers.length < Config.answerPlaces := ha
  rw [PortState.finish, PortState.answer, if_pos hroom]
  exact promote_of_none_waiting hw

theorem finish_of_waiting {x : PortState} (ha : x.answers.length < 8) (hh : x.held = none) {f : Frame}
    {rest : List Frame} (hw : x.waiting = f :: rest) (a : Answer) :
    x.finish a = { x with answers := x.answers ++ [a], execution := some f, waiting := rest } := by
  have hroom : x.answers.length < Config.answerPlaces := ha
  rw [PortState.finish, PortState.answer, if_pos hroom]
  exact promote_of_waiting (x := { x with answers := x.answers ++ [a], execution := none }) rfl hh hw

/-! ### The port's checks (R196) -/

theorem settle_of_idle {p : Port} {x : PortState} (h : x.execution = none) (n : Nat) : x.settle p n = x := by
  cases n with
  | zero => rfl
  | succ n => simp only [PortState.settle, h]

theorem settle_of_checked {p : Port} {x : PortState} (h : PortChecked p x) (n : Nat) : x.settle p n = x := by
  cases n with
  | zero => rfl
  | succ n =>
    cases hx : x.execution with
    | none => exact settle_of_idle hx _
    | some f => simp only [PortState.settle, hx, h f hx]

theorem settle_of_refused {p : Port} {x : PortState} {f : Frame} {c : Result} (hx : x.execution = some f)
    (hc : portCheck p f = some c) (n : Nat) : x.settle p (n + 1) = (x.finish (echo f (refuse c))).settle p n := by
  simp only [PortState.settle, hx, hc]

theorem portChecked_of_idle {p : Port} {x : PortState} (h : x.execution = none) : PortChecked p x := fun f hf => by
  rw [h] at hf
  cases hf

/-! ### The law of one port -/

theorem bump255_le {n : Nat} (h : n ≤ 255) : bump255 n ≤ 255 := by
  unfold bump255
  split <;> omega

theorem PortLaw.held_none {p : Port} {x : PortState} (hx : PortLaw p x) {f : Frame} (hf : x.execution = some f) :
    x.held = none := by
  obtain ⟨-, -, hheld, -⟩ := hx
  cases h : x.held with
  | none => rfl
  | some a =>
    have hidle := (hheld (by rw [h]; rfl)).2
    rw [hf] at hidle
    cases hidle

/-- An answer waits for a place, or joins the list and the next request comes into execution (log 19). -/
theorem PortLaw.finish {p : Port} {x : PortState} (hx : PortLaw p x) {f : Frame} (hf : x.execution = some f)
    (a : Answer) : PortLaw p (x.finish a) := by
  have hnone := hx.held_none hf
  obtain ⟨hwaiting, hanswers, -, -, hcounts⟩ := hx
  by_cases hroom : x.answers.length < 8
  · have hlen : (x.answers ++ [a]).length ≤ 8 := by simpa using hroom
    cases hw : x.waiting with
    | nil =>
      rw [finish_of_none_waiting hroom hw]
      exact ⟨hwaiting, hlen, by simp [hnone], fun _ _ => hw, hcounts⟩
    | cons g rest =>
      rw [hw, List.length_cons] at hwaiting
      rw [finish_of_waiting hroom hnone hw]
      exact ⟨Nat.le_of_succ_le hwaiting, hlen, by simp [hnone], by simp, hcounts⟩
  · rw [finish_of_full (Nat.le_of_not_lt hroom)]
    exact ⟨hwaiting, hanswers, fun _ => ⟨by show x.answers.length = 8; omega, rfl⟩, by simp, hcounts⟩

theorem PortLaw.settle {p : Port} {x : PortState} (hx : PortLaw p x) (n : Nat) : PortLaw p (x.settle p n) := by
  induction n generalizing x with
  | zero => exact hx
  | succ n ih =>
    unfold PortState.settle
    split
    · rename_i f hf
      split
      · exact ih (hx.finish hf _)
      · exact hx
    · exact hx

/-- As many checks as requests stand on the port reach one that passes, or an end of the requests. -/
theorem PortLaw.settle_checked {p : Port} {x : PortState} (hx : PortLaw p x) {n : Nat} (hn : x.waiting.length < n) :
    PortChecked p (x.settle p n) := by
  induction n generalizing x with
  | zero => exact absurd hn (Nat.not_lt_zero _)
  | succ n ih =>
    cases hf : x.execution with
    | none =>
      rw [settle_of_idle hf]
      exact portChecked_of_idle hf
    | some f =>
      cases hc : portCheck p f with
      | none =>
        have hpassed : PortChecked p x := fun g hg => by rwa [← Option.some.inj (hf.symm.trans hg)]
        rwa [settle_of_checked hpassed]
      | some c =>
        rw [settle_of_refused hf hc]
        have hlaw := hx.finish hf (echo f (refuse c))
        by_cases hroom : x.answers.length < 8
        · cases hw : x.waiting with
          | nil =>
            rw [finish_of_none_waiting hroom hw, settle_of_idle rfl]
            exact portChecked_of_idle rfl
          | cons g rest =>
            rw [hw, List.length_cons] at hn
            refine ih hlaw ?_
            rw [finish_of_waiting hroom (hx.held_none hf) hw]
            exact Nat.lt_of_succ_lt_succ hn
        · rw [finish_of_full (Nat.le_of_not_lt hroom), settle_of_idle rfl]
          exact portChecked_of_idle rfl

/-- A port between two events: the bounds of its buffers, and its request in execution checked. -/
def PortKept (p : Port) (x : PortState) : Prop := PortLaw p x ∧ PortChecked p x

theorem PortLaw.settled {p : Port} {x : PortState} (hx : PortLaw p x) : PortKept p (x.settled p) :=
  ⟨hx.settle _, hx.settle_checked (Nat.lt_succ_self _)⟩

theorem PortLaw.of_untabled {p : Port} {x y : PortState} (hx : PortLaw p x) (h : y.untabled p = x.untabled p) :
    PortLaw p y := by
  have hcause : ∀ {z : PortState} {n : Nat}, causeBits p ≤ n →
      z.causes.getLsbD n = ((z.untabled p).causes).getLsbD (n - causeBits p) := fun hn => by
    rw [PortState.untabled, BitVec.getLsbD_ushiftRight, Nat.add_sub_cancel' hn]
  obtain ⟨hwaiting, hanswers, hheld, hidle, hframe, hbusy, hun, hbits⟩ := hx
  have hbits' : ∀ n, causeBits p ≤ n → y.causes.getLsbD n = false := fun n hn => by
    rw [hcause hn, h, ← hcause hn]
    exact (hbits n hn).1
  simp only [PortState.untabled, PortState.mk.injEq] at h
  obtain ⟨-, he, hw, hl, ha, hf, hb, hu, -, hm⟩ := h
  unfold PortLaw
  rw [he, hw, hl, ha, hf, hb, hu, hm]
  exact ⟨hwaiting, hanswers, hheld, hidle, hframe, hbusy, hun, fun n hn => ⟨hbits' n hn, (hbits n hn).2⟩⟩

theorem PortChecked.of_execution {p : Port} {x y : PortState} (hx : PortChecked p x) (h : y.execution = x.execution) :
    PortChecked p y := fun f hf => hx f (h ▸ hf)

/-! ### Frames, bytes and answers -/

theorem isFree_iff {x : PortState} : x.isFree = true ↔ x.execution = none ∧ x.waiting = [] ∧ x.held = none := by
  simp [PortState.isFree, and_assoc]

/-- The request that comes into execution on a free port. -/
theorem PortLaw.seated {p : Port} {x : PortState} (hx : PortLaw p x) (hfree : x.isFree = true) (f : Frame) :
    PortLaw p { x with execution := some f } := by
  obtain ⟨-, -, hnone⟩ := isFree_iff.mp hfree
  obtain ⟨hwaiting, hanswers, -, -, hcounts⟩ := hx
  exact ⟨hwaiting, hanswers, by simp [hnone], by simp, hcounts⟩

/-- On a port that is not free, requests wait behind the one in execution or behind the answer that waits. -/
theorem PortLaw.isFree_false {p : Port} {x : PortState} (hx : PortLaw p x) (h : ¬ x.isFree = true) :
    ¬ (x.execution = none ∧ x.held = none) := fun ⟨he, hh⟩ => by
  obtain ⟨-, -, -, hidle, -⟩ := hx
  exact h (isFree_iff.mpr ⟨he, hidle he hh, hh⟩)

theorem PortKept.accept {p : Port} {x : PortState} (hx : PortKept p x) (f : Frame) : PortKept p (x.accept p f) := by
  obtain ⟨hlaw, hchecked⟩ := hx
  unfold PortState.accept
  split
  · rename_i hfree
    exact (hlaw.seated hfree f).settled
  · rename_i hfree
    have hbehind := hlaw.isFree_false hfree
    obtain ⟨hwaiting, hanswers, hheld, hidle, hframe, hbusy, hun, hbits⟩ := hlaw
    split
    · rename_i hroom
      refine ⟨⟨?_, hanswers, hheld, fun he hh => absurd ⟨he, hh⟩ hbehind, hframe, hbusy, hun, hbits⟩, hchecked⟩
      rw [List.length_append]
      exact hroom
    · split
      · rename_i hroom
        have hroom8 : x.answers.length < 8 := hroom
        refine ⟨⟨hwaiting, by simpa using hroom8, fun hh => ?_, hidle, hframe, bump255_le hbusy, hun, hbits⟩, hchecked⟩
        have := (hheld hh).1
        omega
      · exact ⟨⟨hwaiting, hanswers, hheld, hidle, hframe, hbusy, bump255_le hun, hbits⟩, hchecked⟩

theorem PortKept.discard {p : Port} {x : PortState} (hx : PortKept p x) : PortKept p x.discard := by
  obtain ⟨⟨hwaiting, hanswers, hheld, hidle, hframe, hcounts⟩, hchecked⟩ := hx
  exact ⟨⟨hwaiting, hanswers, hheld, hidle, bump255_le hframe, hcounts⟩, hchecked⟩

/-- The receiver is no part of the law. -/
theorem PortKept.withReceiver {p : Port} {x : PortState} (hx : PortKept p x) (r : Receiver) :
    PortKept p { x with receiver := r } := hx

theorem PortKept.complete {p : Port} {x : PortState} (hx : PortKept p x) (bytes : List Byte) :
    PortKept p (x.complete p bytes) := by
  unfold PortState.complete
  split
  · exact (hx.withReceiver _).accept _
  · exact hx.discard

theorem PortKept.takeByte {p : Port} {x : PortState} (hx : PortKept p x) (b : Byte) (stopLow : Bool) :
    PortKept p (x.takeByte p b stopLow) := by
  unfold PortState.takeByte
  split
  · split
    · exact hx
    · split
      · exact hx.withReceiver _
      · exact hx
  · split_ifs
    · exact hx.discard
    · exact hx.discard
    · exact hx.complete _
    · exact hx.withReceiver _

theorem PortKept.gapTick {p : Port} {x : PortState} (hx : PortKept p x) : PortKept p x.gapTick := by
  unfold PortState.gapTick
  split
  · split
    · exact hx.discard
    · exact hx.withReceiver _
  · exact hx

theorem PortKept.gapDue {p : Port} {x : PortState} (hx : PortKept p x) : PortKept p x.gapDue := by
  unfold PortState.gapDue
  split
  · split
    · exact hx.discard
    · exact hx
  · exact hx

/-- The answer that waited takes the place of the one sent, and the head of the waiting list comes into execution. -/
theorem promote_law {p : Port} {x : PortState} (hx : PortLaw p x) {a b : Answer} {rest : List Answer}
    (ha : x.answers = b :: rest) (hh : x.held = some a) :
    PortLaw p (PortState.promote { x with answers := rest ++ [a], held := none }) := by
  obtain ⟨hwaiting, -, hheld, -, hcounts⟩ := hx
  obtain ⟨hfull, hexec⟩ := hheld (by rw [hh]; rfl)
  have hlen : (rest ++ [a]).length ≤ 8 := by
    rw [ha] at hfull
    simpa using hfull.le
  by_cases hw : x.waiting = []
  · rw [promote_of_none_waiting (x := { x with answers := rest ++ [a], held := none }) hw]
    exact ⟨hwaiting, hlen, by simp, fun _ _ => hw, hcounts⟩
  · obtain ⟨f, fs, hw⟩ := List.exists_cons_of_ne_nil hw
    rw [hw, List.length_cons] at hwaiting
    rw [promote_of_waiting (x := { x with answers := rest ++ [a], held := none }) hexec rfl hw]
    exact ⟨Nat.le_of_succ_le hwaiting, hlen, by simp, by simp, hcounts⟩

theorem PortKept.sent {p : Port} {x : PortState} (hx : PortKept p x) : PortKept p (x.sent p) := by
  unfold PortState.sent
  split
  · exact hx
  · rename_i b rest ha
    split
    · rename_i a hh
      exact (promote_law hx.1 ha hh).settled
    · rename_i hh
      obtain ⟨⟨hwaiting, hanswers, -, hidle, hcounts⟩, hchecked⟩ := hx
      rw [ha] at hanswers
      exact ⟨⟨hwaiting, Nat.le_of_succ_le hanswers, by simp [hh], hidle, hcounts⟩, hchecked⟩

end Sys2Proof.Machine

/-! ## The ports' law (O8) -/

namespace Sys2Proof.Machine

/-! ### The law as a property of the state -/

theorem execution_of_untabled {p : Port} {x y : PortState} (h : y.untabled p = x.untabled p) :
    y.execution = x.execution := by
  have hexec := congrArg PortState.execution h
  exact hexec

theorem PortKept.of_untabled {p : Port} {x y : PortState} (hx : PortKept p x) (h : y.untabled p = x.untabled p) :
    PortKept p y :=
  ⟨hx.1.of_untabled h, hx.2.of_execution (execution_of_untabled h)⟩

/-- What leaves the ports but for causes of their tables keeps the law. -/
theorem PortsLaw.of_untabled {s t : State} (hs : PortsLaw s) (h : t.ports.untabled = s.ports.untabled) : PortsLaw t :=
  fun p => PortKept.of_untabled (hs p) (untabled_portAt h p)

theorem PortsLaw.of_ports {s t : State} (hs : PortsLaw s) (h : t.ports = s.ports) : PortsLaw t :=
  hs.of_untabled (by rw [h])

theorem PortsLaw.atPort {s : State} (hs : PortsLaw s) (p : Port) {f : PortState → PortState}
    (hf : ∀ {x}, PortKept p x → PortKept p (f x)) : PortsLaw (atPort p f s) := fun q => by
  rw [Machine.atPort, portAt_withPortAt]
  split
  · rename_i hq
    rw [hq]
    exact hf (hs p)
  · exact hs q

theorem portKept_reset (p : Port) : PortKept p .reset :=
  ⟨by simp [PortLaw, PortState.reset], portChecked_of_idle rfl⟩

theorem portsLaw_reset {s : State} (h : s.ports = ⟨.reset, .reset, .reset⟩) : PortsLaw s := fun p => by
  have hp : s.portAt p = .reset := by
    rw [portAt_eq, h]
    cases p <;> rfl
  rw [hp]
  exact portKept_reset p

theorem PortsLaw.gaps {s : State} (hs : PortsLaw s) : PortsLaw (portsTick s) := fun p => by
  rw [portsTick_portAt]
  exact PortKept.gapTick (hs p)

/-! ### Requests (R195, R196) -/

/-- While an owning block acts, a request stands in execution on port `p`, of which the port's checks say nothing yet. -/
structure AtWork (p : Port) (s : State) : Prop where
  law : ∀ q, PortLaw q (s.portAt q)
  checked : ∀ q, q ≠ p → PortChecked q (s.portAt q)
  taken : ∃ f, (s.portAt p).execution = some f

theorem AtWork.of_untabled {p : Port} {s t : State} (hs : AtWork p s) (h : t.ports.untabled = s.ports.untabled) :
    AtWork p t where
  law q := (hs.law q).of_untabled (untabled_portAt h q)
  checked q hq := (hs.checked q hq).of_execution (execution_of_untabled (untabled_portAt h q))
  taken := by
    obtain ⟨f, hf⟩ := hs.taken
    exact ⟨f, (execution_of_untabled (untabled_portAt h p)).trans hf⟩

/-- An owner that writes a port's own words leaves the request in execution. -/
theorem AtWork.withPortAt {p q : Port} {s : State} (hs : AtWork p s) {x : PortState} (hx : PortLaw q x)
    (he : x.execution = (s.portAt q).execution) : AtWork p (s.withPortAt q x) := by
  have hexec : ∀ r, ((s.withPortAt q x).portAt r).execution = (s.portAt r).execution := fun r => by
    rw [portAt_withPortAt]
    split
    · rename_i hr
      rw [hr, he]
    · rfl
  refine ⟨fun r => ?_, fun r hr => (hs.checked r hr).of_execution (hexec r), ?_⟩
  · rw [portAt_withPortAt]
    split
    · rename_i hr
      rwa [hr]
    · exact hs.law r
  · rw [hexec]
    exact hs.taken

/-- A request in its turn stands in execution already, or its port is free and takes it (log 3). -/
theorem PortsLaw.putInExecution {s : State} (hs : PortsLaw s) {c : Instr} {h : Hdr}
    (hturn : inTurn c h.port (s.portAt h.port) = true) (f : Frame) : AtWork h.port (putInExecution h f s) := by
  cases he : (s.portAt h.port).execution with
  | some g =>
    have hput : Machine.putInExecution h f s = s := by simp only [Machine.putInExecution, he]
    rw [hput]
    exact ⟨fun q => (hs q).1, fun q _ => (hs q).2, g, he⟩
  | none =>
    have hfree : (s.portAt h.port).isFree = true := by simpa only [inTurn, he] using hturn
    have hput : Machine.putInExecution h f s =
        s.withPortAt h.port { s.portAt h.port with execution := some f } := by
      simp only [Machine.putInExecution, he]
    rw [hput]
    refine ⟨fun q => ?_, fun q hq => ?_, f, by rw [portAt_withPortAt_same]⟩
    · rw [portAt_withPortAt]
      split
      · rename_i hq
        rw [hq]
        exact (hs h.port).1.seated hfree f
      · exact (hs q).1
    · rw [portAt_withPortAt, if_neg hq]
      exact (hs q).2

/-- The answer is made and the next requests are checked. -/
theorem AtWork.finishRequest {h : Hdr} {s : State} (hs : AtWork h.port s) (f : Frame) (r : Reply) :
    PortsLaw (finishRequest h f r s) := fun q => by
  obtain ⟨g, hg⟩ := hs.taken
  rw [Machine.finishRequest, portAt_withPortAt]
  split
  · rename_i hq
    rw [hq]
    exact ((hs.law h.port).finish hg _).settled
  · rename_i hq
    exact ⟨hs.law q, hs.checked q hq⟩

/-- A request keeps the law when its owner leaves the request in execution and the bounds of the buffers. -/
theorem PortsLaw.request {c : Instr} {owner : Owner} {s t : State} (hs : PortsLaw s)
    (ho : ∀ p u, AtWork p u → AtWork p (owner u).1) (h : request c owner s = .next t) : PortsLaw t := by
  cases h
  unfold takeRequest
  split
  · exact hs
  · split
    · rename_i hturn
      dsimp only
      split
      · exact (hs.putInExecution hturn.2 _).finishRequest _ _
      · exact (ho _ _ (hs.putInExecution hturn.2 _)).finishRequest _ _
    · exact hs

theorem PortsLaw.request_apart {c : Instr} {owner : Owner} {s t : State} (hs : PortsLaw s)
    (ho : ∀ u, (owner u).1.ports.untabled = u.ports.untabled) (h : Machine.request c owner s = .next t) :
    PortsLaw t :=
  hs.request (fun _ u hu => hu.of_untabled (ho u)) h

/-- A request whose rule is tests before an effect that leaves the ports but for causes. -/
theorem PortsLaw.request_tested {c : Instr} {owner : Owner} {tests : State → List (Bool × Result)}
    {done : State → State × Reply} {s t : State} (hs : PortsLaw s) (ho : ∀ u, owner u = tested (tests u) u (done u))
    (hd : ∀ u, (done u).1.ports.untabled = u.ports.untabled) (h : Machine.request c owner s = .next t) : PortsLaw t :=
  hs.request_apart (fun u => by
    rw [ho]
    exact tested_invariant (P := fun v => v.ports.untabled = u.ports.untabled) rfl (hd u)) h

/-! ### The ports' own requests (R198 to R200) -/

theorem AtWork.readCauses {p q : Port} {s : State} (hs : AtWork p s) : AtWork p (readCauses q s).1 := by
  obtain ⟨hwaiting, hanswers, hheld, hidle, hframe, hbusy, hun, hbits⟩ := hs.law q
  exact hs.withPortAt ⟨hwaiting, hanswers, hheld, hidle, hframe, hbusy, hun, fun n hn => ⟨by simp, (hbits n hn).2⟩⟩ rfl

/-- A mask below the first value past the table has no bit beyond it (R198). -/
theorem getLsbD_mask_above {p : Port} {mask n : Nat} (hm : mask < 2 ^ causeBits p) (hn : causeBits p ≤ n) :
    (BitVec.ofNat 16 mask).getLsbD n = false := by
  have hbit : mask.testBit n = false :=
    Nat.testBit_lt_two_pow (hm.trans_le (Nat.pow_le_pow_right (by decide) hn))
  simp [BitVec.getLsbD_ofNat, hbit]

theorem AtWork.setCauseMask {p q : Port} {s : State} (hs : AtWork p s) (mask : Nat) :
    AtWork p (setCauseMask q mask s).1 := by
  unfold Machine.setCauseMask
  split
  · exact hs
  · rename_i hm
    obtain ⟨hwaiting, hanswers, hheld, hidle, hframe, hbusy, hun, hbits⟩ := hs.law q
    exact hs.withPortAt ⟨hwaiting, hanswers, hheld, hidle, hframe, hbusy, hun, fun n hn =>
      ⟨(hbits n hn).1, getLsbD_mask_above (Nat.lt_of_not_le hm) hn⟩⟩ rfl

theorem AtWork.portStatus {p q : Port} {s : State} (hs : AtWork p s) (clear : Bool) :
    AtWork p (portStatus clear q s).1 := by
  cases clear with
  | false => exact hs
  | true =>
    obtain ⟨hwaiting, hanswers, hheld, hidle, -, -, -, hbits⟩ := hs.law q
    exact hs.withPortAt ⟨hwaiting, hanswers, hheld, hidle, Nat.zero_le _, Nat.zero_le _, Nat.zero_le _, hbits⟩ rfl

/-! ### Owners and events that leave the ports but for causes -/

theorem setCapacity_untabled (key zone n : Nat) (s : State) :
    (setCapacity key zone n s).1.ports.untabled = s.ports.untabled := by
  unfold setCapacity zoneRequest
  split
  · rfl
  · split
    · rfl
    · dsimp only
      split_ifs <;> simp [deny, countsChanged]

theorem confirmHold_untabled (p : Port) (slot gen : Nat) (s : State) :
    (confirmHold p slot gen s).1.ports.untabled = s.ports.untabled :=
  holdRequest_invariant (P := fun u => u.ports.untabled = s.ports.untabled) (fun _ _ => by simp) p slot gen rfl

theorem releaseHold_untabled (p : Port) (slot gen : Nat) (s : State) :
    (releaseHold p slot gen s).1.ports.untabled = s.ports.untabled :=
  holdRequest_invariant (P := fun u => u.ports.untabled = s.ports.untabled) (fun _ _ => by simp) p slot gen rfl

theorem extendHold_untabled (p : Port) (slot gen : Nat) (s : State) :
    (extendHold p slot gen s).1.ports.untabled = s.ports.untabled := by
  unfold extendHold
  split_ifs
  · rfl
  · rfl
  · exact holdRequest_invariant (P := fun u => u.ports.untabled = s.ports.untabled)
      (fun _ _ => by split <;> rfl) p slot gen rfl

theorem loadShow_untabled (key day aud title start run delay : Nat) (caps : Nat × Nat × Nat) (hidden : Bool)
    (sibling : Option Nat) (sold withheld : Option Nat × Option Nat × Option Nat) (openNow : Bool) (s : State) :
    (loadShow key day aud title start run delay caps hidden sibling sold withheld openNow s).1.ports.untabled =
      s.ports.untabled := by
  simp only [loadShow]
  split
  · rfl
  · simp [createShow]

theorem amendShow_untabled (key : Nat) (start run aud title : Option Nat) (sibling : Option (Option Nat))
    (hidden : Option Bool) (s : State) :
    (amendShow key start run aud title sibling hidden s).1.ports.untabled = s.ports.untabled := by
  unfold amendShow
  split
  · rfl
  · dsimp only
    split_ifs <;> simp [deny]

theorem openSales_untabled (key : Nat) (s : State) : (openSales key s).1.ports.untabled = s.ports.untabled := by
  unfold openSales
  repeat' split
  all_goals simp [deny]

theorem cancelShow_untabled (key : Nat) (s : State) : (cancelShow key s).1.ports.untabled = s.ports.untabled := by
  unfold cancelShow
  repeat' split
  all_goals simp [deny]

theorem removeShow_untabled (key : Nat) (s : State) : (removeShow key s).1.ports.untabled = s.ports.untabled := by
  unfold removeShow
  repeat' split
  all_goals simp [deny]

theorem defineTitle_untabled (index : Nat) (text : List Byte) (rating : Nat) (s : State) :
    (defineTitle index text rating s).1.ports.untabled = s.ports.untabled := by
  unfold defineTitle
  split <;> simp [deny]

theorem rollDayRequest_untabled (s : State) : (rollDayRequest s).1.ports.untabled = s.ports.untabled := by
  unfold rollDayRequest
  split <;> simp [deny]

theorem setClock_untabled (minute second : Nat) (s : State) :
    (setClock minute second s).1.ports.untabled = s.ports.untabled := by
  unfold setClock
  split <;> simp [deny]

theorem policyChanged_untabled (old : Policy) (s : State) :
    (policyChanged old s).ports.untabled = s.ports.untabled := by
  simp only [policyChanged]
  split_ifs <;> simp

theorem setPolicy_untabled (l : List (Nat × Nat)) (s : State) : (setPolicy l s).1.ports.untabled = s.ports.untabled := by
  simp only [setPolicy]
  split_ifs
  · rfl
  · rfl
  · rfl
  · exact policyChanged_untabled _ _

theorem postDelay_untabled (h : Hdr) (x : Posting) (sh : Show) (s : State) :
    (postDelay h x sh s).ports.untabled = s.ports.untabled := by
  simp only [postDelay]
  split_ifs <;> simp [takeSlot, announce_eq]

theorem postNotice_untabled (h : Hdr) (cls prio : Nat) (scope : ScopeArg) (text : List Byte) (life : LifeArg)
    (key minutes : Option Nat) (s : State) :
    (postNotice h cls prio scope text life key minutes s).1.ports.untabled = s.ports.untabled := by
  unfold postNotice
  repeat' split
  · rfl
  · rfl
  · exact postDelay_untabled h _ _ s
  · simp [postCancel, takeSlot, announce_eq]
  · simp [postPlain, takeSlot, announce_eq]

theorem noticeWithdrawn_untabled (p : Port) (slot : Nat) (s : State) :
    (noticeWithdrawn p slot s).ports.untabled = s.ports.untabled := by
  unfold noticeWithdrawn
  split <;> simp

theorem clearReel_untabled (r : Nat) (s : State) : (clearReel r s).1.ports.untabled = s.ports.untabled := by
  simp only [clearReel]
  split_ifs <;> simp [deny]

theorem stopReel_untabled (r : Nat) (s : State) : (stopReel r s).1.ports.untabled = s.ports.untabled := by
  simp only [stopReel]
  split_ifs <;> simp [deny]

theorem startReel_untabled (r : Nat) (s : State) : (startReel r s).1.ports.untabled = s.ports.untabled := by
  unfold startReel
  split_ifs <;> simp [deny]

theorem setAlertLine_untabled (polarity debounce : Nat) (s : State) :
    (setAlertLine polarity debounce s).1.ports.untabled = s.ports.untabled := by
  unfold setAlertLine
  repeat' split
  all_goals simp [deny]

theorem clearAlert_untabled (s : State) : (clearAlert s).1.ports.untabled = s.ports.untabled := by
  unfold clearAlert
  split <;> simp [deny]

theorem setStartLine_ports (line aud edge debounce : Nat) (s : State) :
    (setStartLine line aud edge debounce s).1.ports = s.ports := by
  unfold setStartLine
  repeat' split
  all_goals rfl

theorem setPoolSplit_ports (value : Nat) (s : State) : (setPoolSplit value s).1.ports = s.ports := by
  simp only [setPoolSplit]
  split_ifs <;> rfl

theorem defineSpot_ports (key media duration : Nat) (title : Option Nat) (s : State) :
    (defineSpot key media duration title s).1.ports = s.ports := by
  simp only [defineSpot]
  split_ifs <;> rfl

theorem removeSpot_ports (key : Nat) (s : State) : (removeSpot key s).1.ports = s.ports := by
  unfold removeSpot
  split_ifs <;> rfl

theorem patternWritten_ports (pattern : Nat) (notes : List (Nat × Nat)) (s : State) :
    (patternWritten pattern notes s).ports = s.ports := by
  unfold patternWritten
  split <;> rfl

theorem setPanel_ports (addr : Nat) (present : Bool) (view : ViewArg) (group : Nat) (s : State) :
    (setPanel addr present view group s).1.ports = s.ports := by
  unfold setPanel
  split_ifs
  · rfl
  · rfl
  · split
    · rfl
    · dsimp only
      split <;> rfl

theorem saveSetup_ports (s : State) : (saveSetup s).1.ports = s.ports := by
  unfold saveSetup
  split <;> rfl

theorem storeCheckDone_untabled (holds : Bool) (s : State) :
    (storeCheckDone holds s).ports.untabled = s.ports.untabled := by
  unfold storeCheckDone
  split_ifs <;> simp

theorem panelGrant_ports (s : State) : (panelGrant s).ports = s.ports := by
  unfold panelGrant
  repeat' split
  all_goals rfl

theorem panelFrameSent_ports (s : State) : (panelFrameSent s).ports = s.ports := by
  unfold panelFrameSent
  repeat' split
  all_goals rfl

theorem panelAnswerStart_ports (s : State) : (panelAnswerStart s).ports = s.ports := by
  unfold panelAnswerStart
  repeat' split
  all_goals rfl

theorem panelAnswer_untabled (bytes : List Byte) (s : State) :
    (panelAnswer bytes s).ports.untabled = s.ports.untabled := by
  unfold panelAnswer
  repeat' split
  · rfl
  · simp
  · rfl

theorem expiryDue_untabled (slot : Nat) (s : State) : (expiryDue slot s).ports.untabled = s.ports.untabled := by
  unfold expiryDue
  repeat' split
  all_goals simp

theorem lineDue_untabled (i : Nat) (s : State) : (lineDue i s).ports.untabled = s.ports.untabled := by
  unfold lineDue
  split <;> simp

theorem alertDue_untabled (active : Bool) (s : State) : (alertDue active s).ports.untabled = s.ports.untabled := by
  simp only [alertDue]
  split <;> simp

theorem noteDue_ports (s : State) : (noteDue s).ports = s.ports := by
  unfold noteDue
  repeat' split
  all_goals rfl

theorem secTickAt_untabled (minute : List MinReceiver) (r : SecReceiver) (s : State) :
    (secTickAt minute r s).ports.untabled = s.ports.untabled := by
  cases r <;> simp [secTickAt]

theorem PortsLaw.msTickAt {s : State} (hs : PortsLaw s) (lines : Word) (level : Level) (r : MsReceiver) :
    PortsLaw (msTickAt lines level r s) := by
  cases r with
  | house => exact hs.of_untabled (houseTick_untabled lines level s)
  | link => exact hs.of_untabled (linkTick_untabled s)
  | ports => exact hs.gaps
  | chime => exact hs.of_ports rfl

/-! ### Every command -/

theorem portsLaw_ite {c : Prop} [Decidable c] {a b : State} (ha : PortsLaw a) (hb : PortsLaw b) :
    PortsLaw (if c then a else b) := iteInduction (fun _ => ha) fun _ => hb

/-- An event of the running part that leaves the ports but for causes. -/
theorem PortsLaw.running_apart {f : State → State} {s t : State} (hs : PortsLaw s)
    (h : (Host.Outcome.next (whenRunning f s) : StepOutcome) = .next t)
    (hf : ∀ u, (f u).ports.untabled = u.ports.untabled) : PortsLaw t :=
  running_invariant hs h fun {u} hu => hu.of_untabled (hf u)

theorem PortsLaw.ticking_apart {f : State → State} {s t : State} (hs : PortsLaw s)
    (h : (Host.Outcome.next (whenTicking f s) : StepOutcome) = .next t)
    (hf : ∀ u, (f u).ports.untabled = u.ports.untabled) : PortsLaw t :=
  ticking_invariant hs h fun {u} hu => hu.of_untabled (hf u)

theorem untabled_ite {c : Prop} [Decidable c] {u v : State} (h : v.ports.untabled = u.ports.untabled) :
    (if c then v else u).ports.untabled = u.ports.untabled := by
  split
  · exact h
  · rfl

/-- A command keeps the law: the ports' own by the lemmas on a port, every other one by raising causes alone. -/
theorem PortsLaw.exec {s t : State} (hs : PortsLaw s) (c : Instr) (h : exec c s = .next t) : PortsLaw t := by
  cases c with
  | hardReset =>
    cases h
    exact portsLaw_reset rfl
  | startUp w holds =>
    cases h
    exact portsLaw_ite (portsLaw_reset rfl) hs
  | startUpAlertFound l =>
    cases h
    exact portsLaw_ite (hs.of_untabled (alertFound_untabled l s)) hs
  | tick1ms w l order =>
    exact ticking_invariant hs h (foldl_inv PortsLaw _ (fun _ r hu => hu.msTickAt w l r) _ _)
  | tick1s order m =>
    exact ticking_invariant hs h
      (foldl_inv PortsLaw _ (fun u r hu => hu.of_untabled (secTickAt_untabled m r u)) _ _)
  | minuteBoundary order => exact hs.ticking_apart h fun u => untabled_ite (minuteBoundary_untabled order u)
  | holdExpiry slot => exact hs.ticking_apart h (expiryDue_untabled slot)
  | reelItemEnd r => exact hs.ticking_apart h fun u => untabled_ite (cueReel_untabled false r u)
  | startLineQualified i => exact hs.ticking_apart h (lineDue_untabled i)
  | alertLineActive => exact hs.running_apart h (alertDue_untabled true)
  | alertLineInactive => exact hs.running_apart h (alertDue_untabled false)
  | chimeNoteEnd => exact hs.ticking_apart h fun u => by rw [noteDue_ports]
  | noticeExpiry => exact hs.ticking_apart h fun u => untabled_ite (expireNotices_untabled u)
  | noticeInterval => exact hs.ticking_apart h fun u => untabled_ite (by simp)
  | frameGapTimeout p => exact running_invariant hs h fun hu => hu.atPort p PortKept.gapDue
  | requestFrame p bytes => exact running_invariant hs h fun hu => hu.atPort p fun hx => hx.complete bytes
  | portByteReceived p b stopLow => exact running_invariant hs h fun hu => hu.atPort p fun hx => hx.takeByte b stopLow
  | answerSent p => exact running_invariant hs h fun hu => hu.atPort p PortKept.sent
  | panelPollDue _ | panelProbeDue _ | beaconSend | beaconEnd | storeEraseDone | storeWriteDone =>
    exact hs.running_apart h fun u => untabled_ite rfl
  | storeFault => exact hs.running_apart h fun u => untabled_ite (by simp)
  | panelGrant => exact hs.running_apart h fun u => by rw [panelGrant_ports]
  | panelFrameSent => exact hs.running_apart h fun u => by rw [panelFrameSent_ports]
  | panelAnswerStart => exact hs.running_apart h fun u => by rw [panelAnswerStart_ports]
  | panelAnswer bytes => exact hs.running_apart h (panelAnswer_untabled bytes)
  | responseTimeout => exact hs.running_apart h windowOut_untabled
  | storeCheckDone holds => exact hs.running_apart h (storeCheckDone_untabled holds)
  | holdSeats hd key zone n =>
    exact hs.request_tested (holdSeats_tested hd key zone n) (fun u => by simp [granted, grantHold]) h
  | confirmHold hd slot gen => exact hs.request_apart (confirmHold_untabled hd.port slot gen) h
  | releaseHold hd slot gen => exact hs.request_apart (releaseHold_untabled hd.port slot gen) h
  | extendHold hd slot gen => exact hs.request_apart (extendHold_untabled hd.port slot gen) h
  | queryHold hd slot gen =>
    exact hs.request_apart (fun u => holdRequest_invariant (P := fun v => v.ports.untabled = u.ports.untabled)
      (fun _ _ => rfl) hd.port slot gen rfl) h
  | sellNow hd key zone n =>
    exact hs.request_tested (sellNow_tested key zone n) (fun u => by simp [countsChanged]) h
  | refundSeats hd key zone n =>
    exact hs.request_tested (refundSeats_tested key zone n) (fun u => by simp [countsChanged]) h
  | withhold hd key zone n =>
    exact hs.request_tested (withhold_tested key zone n) (fun u => by simp [countsChanged]) h
  | unwithhold hd key zone n =>
    exact hs.request_tested (unwithhold_tested key zone n) (fun u => by simp [countsChanged]) h
  | setCapacity hd key zone value => exact hs.request_apart (setCapacity_untabled key zone value) h
  | queryShow hd key => exact hs.request_apart (fun u => by rw [queryShow_state]) h
  | listShows hd day start => exact hs.request_apart (fun u => by rw [listShows_state]) h
  | readShow hd key => exact hs.request_apart (fun u => by rw [readShow_state]) h
  | readHold hd slot => exact hs.request_apart (fun u => by rw [readHold_state]) h
  | readDoor hd aud => exact hs.request_apart (fun u => by rw [readDoor_state]) h
  | readSpot hd key => exact hs.request_apart (fun u => by rw [readSpot_state]) h
  | readReel hd r => exact hs.request_apart (fun u => by rw [readReel_state]) h
  | readNotices _ | readAlert _ | readPool _ | readBoard _ _ | readChime _ | readHouseLines _ | readJournal _ _
  | readPolicy _ | readClock _ | linkReset _ => exact hs.request_apart (fun _ => rfl) h
  | readSeatStatus hd clear => exact hs.request_apart (fun u => by cases clear <;> rfl) h
  | readCauses hd => exact hs.request (fun _ _ hu => hu.readCauses) h
  | setCauseMask hd mask => exact hs.request (fun _ _ hu => hu.setCauseMask mask) h
  | readPortStatus hd sel clear =>
    exact hs.request (fun p u hu => by
      rw [readPortStatus_tested]
      exact tested_invariant (P := AtWork p) hu (hu.portStatus clear)) h
  | postNotice hd c p sc text life key m => exact hs.request_apart (postNotice_untabled hd c p sc text life key m) h
  | withdrawNotice hd slot gen =>
    exact hs.request_tested (withdrawNotice_tested hd.port slot gen) (noticeWithdrawn_untabled hd.port slot) h
  | loadShow hd key day aud title start run delay caps hidden sib sold withheld now =>
    exact hs.request_apart (loadShow_untabled key day aud title start run delay caps hidden sib sold withheld now) h
  | amendShow hd key start run aud title sib hidden =>
    exact hs.request_apart (amendShow_untabled key start run aud title sib hidden) h
  | openSales hd key => exact hs.request_apart (openSales_untabled key) h
  | cancelShow hd key => exact hs.request_apart (cancelShow_untabled key) h
  | removeShow hd key => exact hs.request_apart (removeShow_untabled key) h
  | defineTitle hd index text rating => exact hs.request_apart (defineTitle_untabled index text rating) h
  | rollDay hd => exact hs.request_apart rollDayRequest_untabled h
  | dayClear hd => exact hs.request_apart clearDay_untabled h
  | setPoolSplit hd value => exact hs.request_apart (fun u => by rw [setPoolSplit_ports]) h
  | defineSpot hd key media d title => exact hs.request_apart (fun u => by rw [defineSpot_ports]) h
  | removeSpot hd key => exact hs.request_apart (fun u => by rw [removeSpot_ports]) h
  | buildReel hd r items step =>
    exact hs.request_tested (buildReel_tested r items step) (fun u => cueOrHold_untabled r _) h
  | clearReel hd r => exact hs.request_apart (clearReel_untabled r) h
  | stopReel hd r => exact hs.request_apart (stopReel_untabled r) h
  | startReel hd r => exact hs.request_apart (startReel_untabled r) h
  | setChimePattern hd p notes =>
    exact hs.request_tested (setChimePattern_tested p notes) (fun u => by rw [patternWritten_ports]) h
  | setStartLine hd line aud edge d => exact hs.request_apart (fun u => by rw [setStartLine_ports]) h
  | setAlertLine hd p d => exact hs.request_apart (setAlertLine_untabled p d) h
  | clearAlert hd => exact hs.request_apart clearAlert_untabled h
  | setPanel hd a present view g => exact hs.request_apart (fun u => by rw [setPanel_ports]) h
  | readPanel hd a clear => exact hs.request_tested (readPanel_tested a clear) (fun u => by rw [panelRead_blocks]) h
  | setPolicy hd l => exact hs.request_apart (setPolicy_untabled l) h
  | setClock hd m sec => exact hs.request_apart (setClock_untabled m sec) h
  | saveSetup hd => exact hs.request_apart (fun u => by rw [saveSetup_ports]) h

/-- Settles O8: a step is a command taken on a state with the queue's rest. Outside the ports a command raises causes of
their tables alone; the ports' operations keep the bounds, and what comes into execution is checked. -/
theorem stepKeepsThePortsLaw : Obligations.StepKeepsThePortsLaw := by
  intro s t hs h
  unfold step at h
  split at h
  · cases h
    exact hs
  · rename_i c rest _
    have hp : PortsLaw (s.withPending rest) := hs.of_ports rfl
    exact hp.exec c h

end Sys2Proof.Machine

/-! ## Attention lines, causes and masks (O28, O29) -/

namespace Sys2Proof.Machine

/-! ### The attention line (R198) -/

theorem word_ne_zero_iff (w : Word) : w ≠ 0 ↔ ∃ n, n < 16 ∧ w.getLsbD n = true := by
  simp [BitVec.eq_of_getLsbD_eq_iff]

theorem attention_iff {p : Port} {s : State} (hrun : s.phase = .running) : attention p s = true ↔
    ∃ n, n < 16 ∧ (s.portAt p).causes.getLsbD n = true ∧ (s.portAt p).mask.getLsbD n = false := by
  have hbit : ∀ n, n < 16 → (((s.portAt p).causes &&& ~~~(s.portAt p).mask).getLsbD n = true ↔
      (s.portAt p).causes.getLsbD n = true ∧ (s.portAt p).mask.getLsbD n = false) := fun n hn => by
    simp [hn]
  calc attention p s = true ↔ (s.portAt p).causes &&& ~~~(s.portAt p).mask ≠ 0 := by simp [attention, hrun]
    _ ↔ ∃ n, n < 16 ∧ ((s.portAt p).causes &&& ~~~(s.portAt p).mask).getLsbD n = true := word_ne_zero_iff _
    _ ↔ _ := exists_congr fun n => and_congr_right fun hn => hbit n hn

theorem attention_of_no_causes {p : Port} {s : State} (h : (s.portAt p).causes = 0) : attention p s = false := by
  simp [attention, h]

theorem causeBits_le (p : Port) : causeBits p ≤ 16 := by cases p <;> decide

theorem raise_portAt_same {p : Port} {c : Cause} {n : Nat} (hc : c.bit p = some n) (s : State) :
    (raise p c s).portAt p = { s.portAt p with causes := (s.portAt p).causes ||| ((1 : Word) <<< n) } := by
  rw [raise, portAt_withPortAt_same, raisedWord, hc]
  rfl

/-- Settles O28: the line by the bits of the causes under the mask; a cause raised is one bit set in them. -/
theorem attentionLine : Obligations.AttentionLine := by
  intro p s hrun
  refine ⟨attention_iff hrun, fun c n hc => ?_⟩
  have hset : causeSet p c (raise p c s) = true := raise_sets p c s (by rw [hc]; rfl)
  refine ⟨raise_portAt_same hc s, hset, fun hmask => ?_, fun m hm => ?_⟩
  · rw [causeSet_eq_causeBit hc] at hset
    have hphase : (raise p c s).phase = .running := by simpa using hrun
    refine (attention_iff hphase).mpr ⟨n, (causeBit_lt hc).trans_le (causeBits_le p), hset, ?_⟩
    rw [raise_portAt_same hc]
    exact hmask
  · have hother : ¬ c.bit p = some m := fun h => hm (Option.some.inj (h.symm.trans hc))
    simp [raise_causeBit, hother]

/-! ### Read Causes and Set Cause Mask (R198, R199) -/

/-- What a request leaves whose owner writes its own port's state. -/
theorem own_port_written {h : Hdr} {k : Nat} {r : Reply} {s s1 t : State} {x : PortState} (a : Seated h s s1)
    (f : Finished h k r (s1.withPortAt h.port x) t) : t = { s with ports := t.ports } ∧
    (t.portAt h.port).counters = x.counters ∧ ∀ q, q ≠ h.port → t.portAt q = s.portAt q := by
  refine ⟨?_, ?_, fun q hq => ?_⟩
  · rw [f.blocks, a.blocks]
    rfl
  · rw [f.counters, portAt_withPortAt_same]
  · rw [f.others q hq, portAt_withPortAt, if_neg hq, a.others q hq]

theorem causes_read (h : Hdr) (s : State) : TakenOrRefused (.readCauses h) h 14 s [] (∃ t,
    Takes (.readCauses h) s h 14
      (okWith (wCauses h.port (s.portAt h.port).causes ++ wCauses h.port (s.portAt h.port).mask)) t ∧
    t = { s with ports := t.ports } ∧ (t.portAt h.port).causes = 0 ∧ attention h.port t = false ∧
    BuffersKept h.port s t ∧ ∀ q, q ≠ h.port → t.portAt q = s.portAt q) := by
  refine takenOrRefused_done (readCauses h.port) (readCauses h.port) rfl rfl (fun _ => rfl) fun s1 t _ a hx f => ?_
  obtain ⟨hblocks, hown, hothers⟩ := own_port_written a f
  have hseated := a.counters h.port
  simp only [PortState.counters, Prod.mk.injEq] at hown hseated
  obtain ⟨hrec, hmask, hframe, hbusy, hun, hcauses⟩ := hown
  obtain ⟨srec, smask, sframe, sbusy, sun, scauses⟩ := hseated
  have hanswered := f.answered
  simp only [readCauses, smask, scauses] at hanswered
  exact ⟨t, ⟨hx, hanswered⟩, hblocks, hcauses, attention_of_no_causes hcauses,
    ⟨fun q hq => by rw [hothers q hq], hrec.trans srec, hmask.trans smask, hframe.trans sframe, hbusy.trans sbusy,
      hun.trans sun⟩, hothers⟩

/-- The mask written and answered (R198). -/
def maskWritten (p : Port) (mask : Nat) : Owner := fun s =>
  (s.withPortAt p { s.portAt p with mask := BitVec.ofNat 16 mask }, okWith (wCauses p (BitVec.ofNat 16 mask)))

theorem setCauseMask_tested (p : Port) (mask : Nat) (s : State) : setCauseMask p mask s =
    tested [(decide (2 ^ causeBits p ≤ mask), .badArgument)] s (maskWritten p mask s) := by
  rw [tested_cons, tested_nil, setCauseMask]
  simp only [decide_eq_true_eq]
  rfl

theorem mask_set (h : Hdr) (mask : Nat) (s : State) :
    TakenOrRefused (.setCauseMask h mask) h 15 s [(decide (2 ^ causeBits h.port ≤ mask), .badArgument)] (∃ t,
      Takes (.setCauseMask h mask) s h 15 (okWith (wCauses h.port (BitVec.ofNat 16 mask))) t ∧
      t = { s with ports := t.ports } ∧ (t.portAt h.port).mask = BitVec.ofNat 16 mask ∧ CausesKept s t ∧
      (t.portAt h.port).receiver = (s.portAt h.port).receiver ∧
      (t.portAt h.port).frameErrors = (s.portAt h.port).frameErrors ∧
      (t.portAt h.port).busy = (s.portAt h.port).busy ∧
      (t.portAt h.port).unanswered = (s.portAt h.port).unanswered ∧
      ∀ q, q ≠ h.port → t.portAt q = s.portAt q) := by
  refine takenOrRefused_done (setCauseMask h.port mask) (maskWritten h.port mask) rfl rfl
    (fun q => setCauseMask_tested h.port mask (s.withPorts q)) fun s1 t _ a hx f => ?_
  obtain ⟨hblocks, hown, hothers⟩ := own_port_written a f
  have hseated := a.counters h.port
  simp only [PortState.counters, Prod.mk.injEq] at hown hseated
  obtain ⟨hrec, hmask, hframe, hbusy, hun, hcauses⟩ := hown
  obtain ⟨srec, -, sframe, sbusy, sun, scauses⟩ := hseated
  refine ⟨t, ⟨hx, f.answered⟩, hblocks, hmask, fun q => ?_, hrec.trans srec, hframe.trans sframe, hbusy.trans sbusy,
    hun.trans sun, hothers⟩
  by_cases hq : q = h.port
  · rw [hq]
    exact hcauses.trans scauses
  · rw [hothers q hq]

/-- Settles O29: both requests by what their owner writes of its own port. -/
theorem causesAreRead : Obligations.CausesAreRead := fun h s => ⟨causes_read h s, fun mask => mask_set h mask s⟩

end Sys2Proof.Machine

/-! ## Bytes, frames and answers at a port (O3, O25, O26, O27) -/

namespace Sys2Proof.Machine

/-! ### The bytes of a frame (R192) -/

@[simp] theorem wordBytes_length (w : Word) : (wordBytes w).length = 2 := rfl

theorem frameComplete_length {bytes : List Byte} (h : frameComplete bytes = true) : ∃ hi lo rest,
    bytes = hi :: lo :: rest ∧ hi = 0 ∧ bytes.length = 7 + lo.toNat := by
  unfold frameComplete at h
  split at h
  · rename_i hi lo rest
    simp only [Bool.and_eq_true, beq_iff_eq] at h
    exact ⟨hi, lo, rest, rfl, h.1, h.2⟩
  · cases h

theorem frameComplete_of_frameOf {bytes : List Byte} {f : Frame} (h : frameOf bytes = some f) :
    frameComplete bytes = true := by
  by_contra hn
  rw [frameOf, if_neg hn] at h
  cases h

theorem lengthBad_of_frameComplete {bytes : List Byte} (h : frameComplete bytes = true) : lengthBad bytes = false := by
  obtain ⟨hi, lo, rest, rfl, rfl, -⟩ := frameComplete_length h
  rfl

/-- The bytes of a frame begin with its length, below 256. -/
theorem frameBytes_cons {f : Frame} (hf : f.body.length ≤ 255) : ∃ rest,
    frameBytes f = 0#8 :: BitVec.ofNat 8 f.body.length :: rest ∧ rest.length = 5 + f.body.length := by
  have hhigh : f.body.length / 256 = 0 := Nat.div_eq_of_lt (Nat.lt_succ_of_le hf)
  refine ⟨_, by simp only [frameBytes, w2, hhigh]; rfl, ?_⟩
  simp
  omega

theorem frameBytes_ne_nil (f : Frame) : frameBytes f ≠ [] := by simp [frameBytes, w2]

/-- What has come of a frame is never of a bad length, and is complete with its last byte alone. -/
theorem frameBytes_prefix {f : Frame} (hf : f.body.length ≤ 255) {pre suf : List Byte} (h : pre ++ suf = frameBytes f) :
    lengthBad pre = false ∧ (frameComplete pre = true ↔ suf = []) := by
  obtain ⟨rest, hbytes, hlen⟩ := frameBytes_cons hf
  rw [hbytes] at h
  match pre with
  | [] | [_] =>
    have hsuf : suf ≠ [] := by
      rintro rfl
      simp at h
    simp [lengthBad, frameComplete, hsuf]
  | hi :: lo :: pre =>
    simp only [List.cons_append, List.cons.injEq] at h
    obtain ⟨rfl, rfl, rfl⟩ := h
    have hlow : f.body.length % 256 = f.body.length := Nat.mod_eq_of_lt (Nat.lt_succ_of_le hf)
    rw [List.length_append] at hlen
    have hcount : pre.length + 2 = 7 + f.body.length ↔ suf.length = 0 := by omega
    simp [lengthBad, frameComplete, hlow, hcount]

theorem frameOf_frameBytes {f : Frame} (hf : f.body.length ≤ 255) : frameOf (frameBytes f) = some f := by
  have hcomplete : frameComplete (frameBytes f) = true :=
    ((frameBytes_prefix hf (List.append_nil _)).2).mpr rfl
  generalize hcovered : w2 f.body.length ++ [f.tag, f.kind, f.terminal] ++ f.body = covered
  have hbytes : frameBytes f = covered ++ wordBytes (crc16 covered) := by rw [← hcovered]; rfl
  have hcut : (frameBytes f).length - 2 = covered.length := by simp [hbytes]
  rw [frameOf, if_pos hcomplete, hcut, hbytes, List.take_left, List.drop_left, if_pos rfl, ← hcovered]
  rfl

/-! ### One byte (R191, R193) -/

theorem takeByte_hunting {p : Port} {b : Byte} {stopLow : Bool} {x : PortState} (hx : x.receiver = .hunting) :
    x.takeByte p b stopLow =
      if stopLow = false ∧ b = 0xC3#8 then { x with receiver := .inFrame [] 0 } else x := by
  rw [PortState.takeByte, hx]
  cases stopLow <;> simp

theorem takeByte_drops {p : Port} {b : Byte} {stopLow : Bool} {x : PortState} {bytes : List Byte} {gap : Nat}
    (hx : x.receiver = .inFrame bytes gap)
    (hbad : stopLow = true ∨ lengthBad (bytes ++ [b]) = true ∨
      (frameComplete (bytes ++ [b]) = true ∧ frameOf (bytes ++ [b]) = none)) :
    x.takeByte p b stopLow = x.discard := by
  simp only [PortState.takeByte, hx]
  split_ifs with hstop hlen hcomplete
  · rfl
  · rfl
  · obtain h | h | ⟨-, hnone⟩ := hbad
    · exact absurd h hstop
    · exact absurd h hlen
    · simp only [PortState.complete, hnone]
  · obtain h | h | ⟨h, -⟩ := hbad
    · exact absurd h hstop
    · exact absurd h hlen
    · exact absurd h hcomplete

theorem takeByte_joins {p : Port} {b : Byte} {x : PortState} {bytes : List Byte} {gap : Nat}
    (hx : x.receiver = .inFrame bytes gap) (hlen : lengthBad (bytes ++ [b]) = false)
    (hcomplete : frameComplete (bytes ++ [b]) = false) :
    x.takeByte p b false = { x with receiver := .inFrame (bytes ++ [b]) 0 } := by
  simp [PortState.takeByte, hx, hlen, hcomplete]

theorem takeByte_completes {p : Port} {b : Byte} {x : PortState} {bytes : List Byte} {gap : Nat}
    (hx : x.receiver = .inFrame bytes gap) {f : Frame} (hf : frameOf (bytes ++ [b]) = some f) :
    x.takeByte p b false = PortState.accept p f { x with receiver := .hunting } := by
  have hcomplete := frameComplete_of_frameOf hf
  have hlen := lengthBad_of_frameComplete hcomplete
  simp [PortState.takeByte, hx, hlen, hcomplete, PortState.complete, hf]

/-- The rest of a frame's bytes, from any point within it. -/
theorem takeBytes_rest {p : Port} {f : Frame} (hf : f.body.length ≤ 255) (suf : List Byte) (hsuf : suf ≠ []) :
    ∀ (pre : List Byte) (gap : Nat) (x : PortState), pre ++ suf = frameBytes f → x.receiver = .inFrame pre gap →
      suf.foldl (fun y b => PortState.takeByte p b false y) x =
        PortState.accept p f { x with receiver := .hunting } := by
  induction suf with
  | nil => exact absurd rfl hsuf
  | cons b suf ih =>
    intro pre gap x hpre hx
    have hnext : (pre ++ [b]) ++ suf = frameBytes f := by rw [← hpre, List.append_assoc]; rfl
    obtain ⟨hlen, hcomplete⟩ := frameBytes_prefix hf hnext
    rw [List.foldl_cons]
    by_cases hlast : suf = []
    · rw [hlast, List.append_nil] at hnext
      rw [hlast, List.foldl_nil, takeByte_completes hx (by rw [hnext]; exact frameOf_frameBytes hf)]
    · have hmore : frameComplete (pre ++ [b]) = false := Bool.eq_false_iff.mpr fun h => hlast (hcomplete.mp h)
      rw [takeByte_joins hx hlen hmore]
      exact ih hlast (pre ++ [b]) 0 _ hnext rfl

/-- Settles O3: the decoder by the frame's own check, the bytes by induction on those still to come. -/
theorem bytesMakeTheFrame : Obligations.BytesMakeTheFrame := by
  intro p f x hf hx
  refine ⟨frameOf_frameBytes hf, ?_⟩
  have hback : ({ x with receiver := .hunting } : PortState) = x := by rw [← hx]
  rw [List.foldl_cons, takeByte_hunting hx, if_pos ⟨rfl, rfl⟩,
    takeBytes_rest hf (frameBytes f) (frameBytes_ne_nil f) [] 0 _ rfl rfl]
  exact congrArg (PortState.accept p f) hback

/-! ### Events at one port -/

/-- An event of the running part at one port. -/
theorem exec_at_port {s : State} (hrun : s.phase = .running) {p : Port} {f : PortState → PortState} {c : Instr}
    (hc : exec c s = .next (whenRunning (atPort p f) s)) : exec c s = .next (s.withPortAt p (f (s.portAt p))) := by
  rw [hc, whenRunning, if_pos hrun]
  rfl

theorem gapDue_completes {x : PortState} {bytes : List Byte} {gap : Nat} (hx : x.receiver = .inFrame bytes gap)
    (hgap : 4 ≤ gap) : x.gapDue = x.discard := by
  rw [PortState.gapDue, hx]
  exact if_pos (Nat.succ_le_succ hgap)

/-- Settles O25: the byte by the state of the receiver and what the bytes with it are, the gap by its count. -/
theorem portBytesAndGaps : Obligations.PortBytesAndGaps := by
  intro p b stopLow s hrun
  refine ⟨⟨_, exec_at_port hrun rfl, by rw [portAt_withPortAt_same], ?_⟩,
    fun bytes gap hx hgap => ⟨_, exec_at_port hrun rfl, by rw [portAt_withPortAt_same], ?_⟩⟩
  · rw [portAt_withPortAt_same]
    refine ⟨takeByte_hunting, fun bytes gap hx => ⟨takeByte_drops hx, fun hstop hlen hcomplete => ?_,
      fun f hstop hf => ?_⟩⟩
    · rw [hstop]
      exact takeByte_joins hx hlen hcomplete
    · rw [hstop]
      exact takeByte_completes hx hf
  · rw [portAt_withPortAt_same]
    exact gapDue_completes hx hgap

/-! ### A frame accepted (R194, R196) -/

theorem settled_of_checked {p : Port} {x : PortState} (h : PortChecked p x) : x.settled p = x := settle_of_checked h _

theorem accept_checked {p : Port} {f : Frame} {x : PortState} (hfree : x.isFree = true) (hc : portCheck p f = none) :
    x.accept p f = { x with execution := some f } := by
  have hchecked : PortChecked p { x with execution := some f } := fun g hg => by rwa [← Option.some.inj hg]
  rw [PortState.accept, if_pos hfree, settled_of_checked hchecked]

/-- On a free port the port's own refusal leaves no request behind. -/
theorem accept_refused {p : Port} {f : Frame} {x : PortState} (hfree : x.isFree = true) {c : Result}
    (hc : portCheck p f = some c) :
    x.accept p f = ({ x with execution := some f } : PortState).finish (echo f (refuse c)) := by
  obtain ⟨-, hw, -⟩ := isFree_iff.mp hfree
  rw [PortState.accept, if_pos hfree]
  show PortState.settle p (x.waiting.length + 1) _ = _
  rw [settle_of_refused rfl hc, hw]
  rfl

theorem accept_refused_room {p : Port} {f : Frame} {x : PortState} (hfree : x.isFree = true) {c : Result}
    (hc : portCheck p f = some c) (ha : x.answers.length < 8) :
    x.accept p f = { x with answers := x.answers ++ [echo f (refuse c)] } := by
  obtain ⟨he, hw, -⟩ := isFree_iff.mp hfree
  rw [accept_refused hfree hc, finish_of_none_waiting (x := { x with execution := some f }) ha hw, ← he]

theorem accept_refused_full {p : Port} {f : Frame} {x : PortState} (hfree : x.isFree = true) {c : Result}
    (hc : portCheck p f = some c) (ha : 8 ≤ x.answers.length) :
    x.accept p f = { x with held := some (echo f (refuse c)) } := by
  obtain ⟨he, -, -⟩ := isFree_iff.mp hfree
  rw [accept_refused hfree hc, finish_of_full (x := { x with execution := some f }) ha, ← he]

theorem accept_waits {p : Port} {f : Frame} {x : PortState} (hfree : x.isFree = false) (hw : x.waiting.length < 4) :
    x.accept p f = { x with waiting := x.waiting ++ [f] } := by
  have hroom : x.waiting.length < Config.waitingPlaces := hw
  simp only [PortState.accept, hfree, if_pos hroom, Bool.false_eq_true, if_false]

theorem accept_busy {p : Port} {f : Frame} {x : PortState} (hfree : x.isFree = false) (hw : 4 ≤ x.waiting.length)
    (ha : x.answers.length < 8) :
    x.accept p f = { x with answers := x.answers ++ [echo f (refuse .busy)], busy := bump255 x.busy } := by
  have hfull : ¬ x.waiting.length < Config.waitingPlaces := Nat.not_lt.mpr hw
  have hroom : x.answers.length < Config.answerPlaces := ha
  simp only [PortState.accept, hfree, if_neg hfull, if_pos hroom, Bool.false_eq_true, if_false]

theorem accept_lost {p : Port} {f : Frame} {x : PortState} (hfree : x.isFree = false) (hw : 4 ≤ x.waiting.length)
    (ha : 8 ≤ x.answers.length) : x.accept p f = { x with unanswered := bump255 x.unanswered } := by
  have hfull : ¬ x.waiting.length < Config.waitingPlaces := Nat.not_lt.mpr hw
  have hstanding : ¬ x.answers.length < Config.answerPlaces := Nat.not_lt.mpr ha
  simp only [PortState.accept, hfree, if_neg hfull, if_neg hstanding, Bool.false_eq_true, if_false]

theorem complete_frameBytes {p : Port} {f : Frame} (hf : f.body.length ≤ 255) (x : PortState) :
    x.complete p (frameBytes f) = PortState.accept p f { x with receiver := .hunting } := by
  simp only [PortState.complete, frameOf_frameBytes hf]

/-- Settles O26: the frame's bytes are the frame, and the port accepts it by what stands on it. -/
theorem frameIsTaken : Obligations.FrameIsTaken := by
  intro p f s hrun hf
  refine ⟨_, exec_at_port hrun rfl, by rw [portAt_withPortAt_same], ?_⟩
  rw [portAt_withPortAt_same, complete_frameBytes hf]
  refine ⟨fun hfree => ⟨accept_checked hfree, fun code hc => ⟨fun ha => ?_, fun ha => ?_⟩⟩,
    fun hfree => ⟨fun hw => ?_, fun hw ha => ?_, fun hw ha => ?_⟩⟩
  · exact accept_refused_room (x := { s.portAt p with receiver := .hunting }) hfree hc ha
  · exact accept_refused_full (x := { s.portAt p with receiver := .hunting }) hfree hc ha
  · exact accept_waits hfree hw
  · exact accept_busy hfree hw ha
  · exact accept_lost hfree hw ha

/-! ### An answer sent (R194, R195) -/

theorem sent_of_none_held {p : Port} {x : PortState} {a : Answer} {rest : List Answer} (ha : x.answers = a :: rest)
    (hh : x.held = none) : x.sent p = { x with answers := rest } := by
  simp only [PortState.sent, ha, hh]

theorem sent_of_held {p : Port} {x : PortState} {a w : Answer} {rest : List Answer} (ha : x.answers = a :: rest)
    (hh : x.held = some w) :
    x.sent p = (PortState.promote { x with answers := rest ++ [w], held := none }).settled p := by
  simp only [PortState.sent, ha, hh]

theorem promote_answers (x : PortState) : x.promote.answers = x.answers := by
  unfold PortState.promote
  split <;> rfl

theorem answers_prefix_finish (a : Answer) (x : PortState) : x.answers <+: (x.finish a).answers := by
  rw [PortState.finish, promote_answers, PortState.answer]
  split
  · exact List.prefix_append _ _
  · exact List.prefix_refl _

/-- The port's refusals are answered behind the answers that stand. -/
theorem answers_prefix_settle (p : Port) (n : Nat) (x : PortState) : x.answers <+: (x.settle p n).answers := by
  induction n generalizing x with
  | zero => exact List.prefix_refl _
  | succ n ih =>
    unfold PortState.settle
    split
    · split
      · exact (answers_prefix_finish _ x).trans (ih _)
      · exact List.prefix_refl _
    · exact List.prefix_refl _

theorem answers_prefix_settled (p : Port) (x : PortState) : x.answers <+: (x.settled p).answers :=
  answers_prefix_settle p _ x

theorem sent_answers_prefix {p : Port} {x : PortState} {a w : Answer} {rest : List Answer}
    (ha : x.answers = a :: rest) (hh : x.held = some w) : (rest ++ [w]) <+: (x.sent p).answers := by
  have hstand := answers_prefix_settled p (PortState.promote { x with answers := rest ++ [w], held := none })
  rw [promote_answers] at hstand
  rw [sent_of_held ha hh]
  exact hstand

theorem sent_none_waiting {p : Port} {x : PortState} {a w : Answer} {rest : List Answer} (ha : x.answers = a :: rest)
    (hh : x.held = some w) (he : x.execution = none) (hw : x.waiting = []) :
    x.sent p = { x with answers := rest ++ [w], held := none } := by
  rw [sent_of_held ha hh, promote_of_none_waiting (x := { x with answers := rest ++ [w], held := none }) hw]
  exact settled_of_checked (portChecked_of_idle he)

theorem sent_waiting {p : Port} {x : PortState} {a w : Answer} {rest : List Answer} (ha : x.answers = a :: rest)
    (hh : x.held = some w) (he : x.execution = none) {f : Frame} {fs : List Frame} (hw : x.waiting = f :: fs)
    (hc : portCheck p f = none) :
    x.sent p = { x with answers := rest ++ [w], held := none, execution := some f, waiting := fs } := by
  rw [sent_of_held ha hh, promote_of_waiting (x := { x with answers := rest ++ [w], held := none }) he rfl hw]
  exact settled_of_checked fun g hg => by rwa [← Option.some.inj hg]

/-- Settles O27: the answer leaves the list; with an answer that waits, by what waits behind it. -/
theorem answerIsSent : Obligations.AnswerIsSent := by
  intro p a rest s hrun ha
  refine ⟨_, exec_at_port hrun rfl, by rw [portAt_withPortAt_same], ?_⟩
  rw [portAt_withPortAt_same]
  exact ⟨sent_of_none_held ha, fun w hh => sent_answers_prefix ha hh, fun he w hh =>
    ⟨sent_none_waiting ha hh he, fun f fs hw hc => sent_waiting ha hh he hw hc⟩⟩

end Sys2Proof.Machine

/-! ## Request bodies (O2) -/

namespace Sys2Proof.Machine

/-! ### Fields that read back (R192) -/

/-- A value written at the front of any bytes is read off them, and the rest is left. -/
def Codec.ReadsBack {α : Type} (f : Codec α) (x : α) : Prop := ∀ rest, f.get (f.put x ++ rest) = some (x, rest)

theorem readForm_put {α : Type} {f : Codec α} {x : α} (hx : f.ReadsBack x) : readForm f (f.put x) = some x := by
  have h := hx []
  rw [List.append_nil] at h
  rw [readForm, h]

theorem b1_w1 {n : Nat} (h : n < 256) (rest : List Byte) : b1 (w1 n ++ rest) = some (n, rest) := by
  simp [b1, w1, Nat.mod_eq_of_lt h]

theorem b2_w2 {n : Nat} (h : n < 65536) (rest : List Byte) : b2 (w2 n ++ rest) = some (n, rest) := by
  simp [b2, w2]
  omega

theorem formU8_readsBack {n : Nat} (h : fits1 n = true) : formU8.ReadsBack n := fun rest => b1_w1 (of_decide_eq_true h) rest

theorem formU16_readsBack {n : Nat} (h : fits2 n = true) : formU16.ReadsBack n := fun rest =>
  b2_w2 (of_decide_eq_true h) rest

theorem formEmpty_readsBack : formEmpty.ReadsBack () := fun _ => rfl

theorem formFlag_readsBack (b : Bool) : formFlag.ReadsBack b := fun rest => by cases b <;> rfl

theorem formPair_readsBack {α β : Type} {f : Codec α} {g : Codec β} {x : α × β} (hx : f.ReadsBack x.1)
    (hy : g.ReadsBack x.2) : (formPair f g).ReadsBack x := fun rest => by
  have hf := hx (g.put x.2 ++ rest)
  have hg := hy rest
  simp only [formPair, List.append_assoc, bPair, hf, hg, Option.map_some]

theorem formOpt_readsBack {α : Type} {f : Codec α} {o : Option α} (h : ∀ x, o = some x → f.ReadsBack x) :
    (formOpt f).ReadsBack o := fun rest => by
  cases o with
  | none => rfl
  | some x =>
    have hf := h x rfl rest
    have hflag : bFlag (w1 1 ++ (f.put x ++ rest)) = some (true, f.put x ++ rest) := rfl
    simp only [formOpt, wOpt, List.append_assoc, bOpt, hflag, hf, Option.map_some]

theorem formOpt_readsBack_of_fits {f : Codec Nat} {fits : Nat → Bool} (hf : ∀ {n}, fits n = true → f.ReadsBack n)
    {o : Option Nat} (h : fitsOpt fits o = true) : (formOpt f).ReadsBack o :=
  formOpt_readsBack fun n hn => hf (by rwa [hn] at h)

theorem bTimes_flatMap {α : Type} {f : Codec α} {l : List α} (h : ∀ x ∈ l, f.ReadsBack x) (rest : List Byte) :
    bTimes f.get l.length (l.flatMap f.put ++ rest) = some (l, rest) := by
  induction l with
  | nil => rfl
  | cons x l ih =>
    have hhead := h x List.mem_cons_self (l.flatMap f.put ++ rest)
    have htail := ih fun y hy => h y (List.mem_cons_of_mem x hy)
    simp only [List.flatMap_cons, List.length_cons, List.append_assoc, bTimes, hhead, htail, Option.map_some]

theorem formList_readsBack {α : Type} {f : Codec α} {l : List α} (hl : fitsList l = true)
    (h : ∀ x ∈ l, f.ReadsBack x) : (formList f).ReadsBack l := fun rest => by
  have hcount := b1_w1 (of_decide_eq_true hl) (l.flatMap f.put ++ rest)
  simp only [formList, wList, List.append_assoc, bList, hcount, bTimes_flatMap h]

theorem formText_readsBack {t : List Byte} (ht : fitsList t = true) : formText.ReadsBack t := fun rest => by
  have hcount := b1_w1 (of_decide_eq_true ht) (t ++ rest)
  simp [formText, wText, bText, hcount]

theorem formScope_readsBack {x : ScopeArg} (h : x.wf = true) : formScope.ReadsBack x := fun rest => by
  cases x with
  | all => rfl
  | groups m => simp [formScope, putScope, bScope, w1, b1]
  | door a =>
    have ha := b1_w1 (of_decide_eq_true h) rest
    have hcode : b1 (w1 2 ++ (w1 a ++ rest)) = some (2, w1 a ++ rest) := rfl
    simp only [formScope, putScope, List.append_assoc, bScope, hcode, ha, Option.map_some]
  | unknown c =>
    simp only [ScopeArg.wf, Bool.and_eq_true, fits1, decide_eq_true_eq] at h
    obtain ⟨d, rfl⟩ := Nat.exists_eq_add_of_le' h.2
    have hcode := b1_w1 h.1 rest
    simp only [formScope, putScope, bScope, hcode]

theorem formLife_readsBack {x : LifeArg} (h : x.wf = true) : formLife.ReadsBack x := fun rest => by
  cases x with
  | once n =>
    have hn := b1_w1 (of_decide_eq_true h) rest
    have hcode : b1 (w1 0 ++ (w1 n ++ rest)) = some (0, w1 n ++ rest) := rfl
    simp only [formLife, putLife, List.append_assoc, bLife, hcode, hn, Option.map_some]
  | repeats n =>
    have hn := b1_w1 (of_decide_eq_true h) rest
    have hcode : b1 (w1 1 ++ (w1 n ++ rest)) = some (1, w1 n ++ rest) := rfl
    simp only [formLife, putLife, List.append_assoc, bLife, hcode, hn, Option.map_some]
  | standing => rfl
  | unknown c =>
    simp only [LifeArg.wf, Bool.and_eq_true, fits1, decide_eq_true_eq] at h
    obtain ⟨d, rfl⟩ := Nat.exists_eq_add_of_le' h.2
    have hcode := b1_w1 h.1 rest
    simp only [formLife, putLife, bLife, hcode]

theorem formView_readsBack {x : ViewArg} (h : x.wf = true) : formView.ReadsBack x := fun rest => by
  cases x with
  | board p d =>
    simp only [ViewArg.wf, Bool.and_eq_true] at h
    have hpair := formPair_readsBack (x := (p, d)) (formU8_readsBack h.1) (formU8_readsBack h.2) rest
    have hcode : b1 (w1 0 ++ ((w1 p ++ w1 d) ++ rest)) = some (0, (w1 p ++ w1 d) ++ rest) := rfl
    simp only [formPair, formU8] at hpair
    simp only [formView, putView, List.append_assoc] at hpair hcode ⊢
    simp only [bView, hcode, hpair, Option.map_some]
  | door a =>
    have ha := b1_w1 (of_decide_eq_true h) rest
    have hcode : b1 (w1 1 ++ (w1 a ++ rest)) = some (1, w1 a ++ rest) := rfl
    simp only [formView, putView, List.append_assoc, bView, hcode, ha, Option.map_some]
  | spot r =>
    have hr := b1_w1 (of_decide_eq_true h) rest
    have hcode : b1 (w1 2 ++ (w1 r ++ rest)) = some (2, w1 r ++ rest) := rfl
    simp only [formView, putView, List.append_assoc, bView, hcode, hr, Option.map_some]
  | blank => rfl
  | unknown c =>
    simp only [ViewArg.wf, Bool.and_eq_true, fits1, decide_eq_true_eq] at h
    obtain ⟨d, rfl⟩ := Nat.exists_eq_add_of_le' h.2
    have hcode := b1_w1 h.1 rest
    simp only [formView, putView, bView, hcode]

theorem formSetting_readsBack {x : Nat × Nat} (h : settingFits x = true) : formSetting.ReadsBack x := fun rest => by
  obtain ⟨id, v⟩ := x
  simp only [settingFits, Bool.and_eq_true] at h
  obtain ⟨hid, hv⟩ := h
  have hcode := fun r => b1_w1 (of_decide_eq_true hid) r
  simp only [formSetting, putSetting, List.append_assoc, bSetting, hcode]
  split
  · rename_i hwide
    rw [if_pos hwide] at hv
    rw [b2_w2 (of_decide_eq_true hv), Option.map_some]
  · rename_i hwide
    rw [if_neg hwide] at hv
    rw [b1_w1 (of_decide_eq_true hv), Option.map_some]

/-! ### Bodies that read back (section 10.3) -/

theorem formMask_readsBack {p : Port} {n : Nat} (h : maskFits p n = true) : (formMask p).ReadsBack n := by
  cases p with
  | programme => exact formU16_readsBack h
  | _ => exact formU8_readsBack h

theorem formId_readsBack {i g : Nat} (h : (fits1 i && fits1 g) = true) : formId.ReadsBack (i, g) := by
  simp only [Bool.and_eq_true] at h
  exact formPair_readsBack (formU8_readsBack h.1) (formU8_readsBack h.2)

theorem formWordByte_readsBack {m n : Nat} (h : (fits2 m && fits1 n) = true) :
    (formPair formU16 formU8).ReadsBack (m, n) := by
  simp only [Bool.and_eq_true] at h
  exact formPair_readsBack (formU16_readsBack h.1) (formU8_readsBack h.2)

theorem formByteWord_readsBack {m n : Nat} (h : (fits1 m && fits2 n) = true) :
    (formPair formU8 formU16).ReadsBack (m, n) := by
  simp only [Bool.and_eq_true] at h
  exact formPair_readsBack (formU8_readsBack h.1) (formU16_readsBack h.2)

theorem formClear_readsBack {n : Nat} {b : Bool} (h : fits1 n = true) : formClear.ReadsBack (n, b) :=
  formPair_readsBack (formU8_readsBack h) (formFlag_readsBack b)

theorem formSeats_readsBack {k z n : Nat} (h : (fits2 k && fits1 z && fits1 n) = true) :
    formSeats.ReadsBack (k, z, n) := by
  simp only [Bool.and_assoc, Bool.and_eq_true] at h
  obtain ⟨hk, hz, hn⟩ := h
  exact formPair_readsBack (formU16_readsBack hk) (formPair_readsBack (formU8_readsBack hz) (formU8_readsBack hn))

theorem formZoneCount_readsBack {k z n : Nat} (h : (fits2 k && fits1 z && fits2 n) = true) :
    formZoneCount.ReadsBack (k, z, n) := by
  simp only [Bool.and_assoc, Bool.and_eq_true] at h
  obtain ⟨hk, hz, hn⟩ := h
  exact formPair_readsBack (formU16_readsBack hk) (formPair_readsBack (formU8_readsBack hz) (formU16_readsBack hn))

theorem formTitle_readsBack {i r : Nat} {t : List Byte} (h : (fits1 i && fitsList t && fits1 r) = true) :
    formTitle.ReadsBack (i, t, r) := by
  simp only [Bool.and_assoc, Bool.and_eq_true] at h
  obtain ⟨hi, ht, hr⟩ := h
  exact formPair_readsBack (formU8_readsBack hi) (formPair_readsBack (formText_readsBack ht) (formU8_readsBack hr))

theorem formStartLine_readsBack {i a e d : Nat} (h : (fits1 i && fits1 a && fits1 e && fits2 d) = true) :
    formStartLine.ReadsBack (i, a, e, d) := by
  simp only [Bool.and_assoc, Bool.and_eq_true] at h
  obtain ⟨hi, ha, he, hd⟩ := h
  exact formPair_readsBack (formU8_readsBack hi) (formPair_readsBack (formU8_readsBack ha)
    (formPair_readsBack (formU8_readsBack he) (formU16_readsBack hd)))

theorem formSpot_readsBack {k m d : Nat} {t : Option Nat} (h : (fits2 k && fits2 m && fits1 d && fitsOpt fits1 t) = true) :
    formSpot.ReadsBack (k, m, d, t) := by
  simp only [Bool.and_assoc, Bool.and_eq_true] at h
  obtain ⟨hk, hm, hd, ht⟩ := h
  exact formPair_readsBack (formU16_readsBack hk) (formPair_readsBack (formU16_readsBack hm)
    (formPair_readsBack (formU8_readsBack hd) (formOpt_readsBack_of_fits formU8_readsBack ht)))

theorem formReel_readsBack {r k : Nat} {items : List (Nat × Nat)}
    (h : (fits1 r && fitsList items && items.all (fun x => fits2 x.1 && fits1 x.2) && fits1 k) = true) :
    formReel.ReadsBack (r, items, k) := by
  simp only [Bool.and_assoc, Bool.and_eq_true] at h
  obtain ⟨hr, hl, hitems, hk⟩ := h
  exact formPair_readsBack (formU8_readsBack hr) (formPair_readsBack
    (formList_readsBack hl fun x hx => formWordByte_readsBack (List.all_eq_true.mp hitems x hx)) (formU8_readsBack hk))

theorem formChime_readsBack {p : Nat} {ns : List (Nat × Nat)}
    (h : (fits1 p && fitsList ns && ns.all (fun x => fits1 x.1 && fits1 x.2)) = true) : formChime.ReadsBack (p, ns) := by
  simp only [Bool.and_assoc, Bool.and_eq_true] at h
  obtain ⟨hp, hl, hnotes⟩ := h
  exact formPair_readsBack (formU8_readsBack hp)
    (formList_readsBack hl fun x hx => formId_readsBack (List.all_eq_true.mp hnotes x hx))

theorem formSettings_readsBack {l : List (Nat × Nat)} (h : (fitsList l && l.all settingFits) = true) :
    (formList formSetting).ReadsBack l := by
  simp only [Bool.and_eq_true] at h
  exact formList_readsBack h.1 fun x hx => formSetting_readsBack (List.all_eq_true.mp h.2 x hx)

theorem formPanel_readsBack {a g : Nat} {p : Bool} {v : ViewArg} (h : (fits1 a && v.wf && fits1 g) = true) :
    formPanel.ReadsBack (a, p, v, g) := by
  simp only [Bool.and_assoc, Bool.and_eq_true] at h
  obtain ⟨ha, hv, hg⟩ := h
  exact formPair_readsBack (formU8_readsBack ha) (formPair_readsBack (formFlag_readsBack p)
    (formPair_readsBack (formView_readsBack hv) (formU8_readsBack hg)))

theorem formNotice_readsBack {c p : Nat} {sc : ScopeArg} {t : List Byte} {l : LifeArg} {k m : Option Nat}
    (h : (fits1 c && fits1 p && sc.wf && fitsList t && l.wf && fitsOpt fits2 k && fitsOpt fits1 m) = true) :
    formNotice.ReadsBack (c, p, sc, t, l, k, m) := by
  simp only [Bool.and_assoc, Bool.and_eq_true] at h
  obtain ⟨hc, hp, hsc, ht, hl, hk, hm⟩ := h
  exact formPair_readsBack (formU8_readsBack hc) (formPair_readsBack (formU8_readsBack hp)
    (formPair_readsBack (formScope_readsBack hsc) (formPair_readsBack (formText_readsBack ht)
      (formPair_readsBack (formLife_readsBack hl)
        (formPair_readsBack (formOpt_readsBack_of_fits formU16_readsBack hk)
          (formOpt_readsBack_of_fits formU8_readsBack hm))))))

theorem formInitial_readsBack {x : Option Nat × Option Nat} (h1 : fitsOpt fits2 x.1 = true)
    (h2 : fitsOpt fits2 x.2 = true) : formInitial.ReadsBack x :=
  formPair_readsBack (formOpt_readsBack_of_fits formU16_readsBack h1) (formOpt_readsBack_of_fits formU16_readsBack h2)

/-- R14: the sold and withheld counts stand zone by zone, sold first (log 11). -/
theorem formLoad_readsBack {k d a t st r dl : Nat} {caps : Nat × Nat × Nat} {hid o : Bool} {sib : Option Nat}
    {so wi : Option Nat × Option Nat × Option Nat}
    (h : (fits2 k && fits1 d && fits1 a && fits1 t && fits2 st && fits2 r && fits1 dl && fits2 caps.1 && fits2 caps.2.1 &&
      fits2 caps.2.2 && fitsOpt fits2 sib && fitsOpt3 so && fitsOpt3 wi) = true) :
    formLoad.ReadsBack
      (k, d, a, t, st, r, dl, caps, hid, sib, ((so.1, wi.1), (so.2.1, wi.2.1), (so.2.2, wi.2.2)), o) := by
  simp only [fitsOpt3, Bool.and_assoc, Bool.and_eq_true] at h
  obtain ⟨hk, hd, ha, ht, hst, hr, hdl, hc1, hc2, hc3, hsib, hs1, hs2, hs3, hw1, hw2, hw3⟩ := h
  have hcaps : (formPair formU16 (formPair formU16 formU16)).ReadsBack caps :=
    formPair_readsBack (formU16_readsBack hc1) (formPair_readsBack (formU16_readsBack hc2) (formU16_readsBack hc3))
  have hcounts : (formPair formInitial (formPair formInitial formInitial)).ReadsBack
      ((so.1, wi.1), (so.2.1, wi.2.1), (so.2.2, wi.2.2)) :=
    formPair_readsBack (formInitial_readsBack hs1 hw1)
      (formPair_readsBack (formInitial_readsBack hs2 hw2) (formInitial_readsBack hs3 hw3))
  exact formPair_readsBack (formU16_readsBack hk) (formPair_readsBack (formU8_readsBack hd)
    (formPair_readsBack (formU8_readsBack ha) (formPair_readsBack (formU8_readsBack ht)
      (formPair_readsBack (formU16_readsBack hst) (formPair_readsBack (formU16_readsBack hr)
        (formPair_readsBack (formU8_readsBack hdl) (formPair_readsBack hcaps
          (formPair_readsBack (formFlag_readsBack hid)
            (formPair_readsBack (formOpt_readsBack_of_fits formU16_readsBack hsib)
              (formPair_readsBack hcounts (formFlag_readsBack o)))))))))))

theorem formAmend_readsBack {k : Nat} {st r a t : Option Nat} {sib : Option (Option Nat)} {hid : Option Bool}
    (h : (fits2 k && fitsOpt fits2 st && fitsOpt fits2 r && fitsOpt fits1 a && fitsOpt fits1 t &&
      (match sib with | some o => fitsOpt fits2 o | none => true)) = true) :
    formAmend.ReadsBack (k, st, r, a, t, sib, hid) := by
  simp only [Bool.and_assoc, Bool.and_eq_true] at h
  obtain ⟨hk, hst, hr, ha, ht, hsib⟩ := h
  have hsibling : (formOpt (formOpt formU16)).ReadsBack sib := formOpt_readsBack fun o ho => by
    subst ho
    exact formOpt_readsBack_of_fits formU16_readsBack hsib
  exact formPair_readsBack (formU16_readsBack hk)
    (formPair_readsBack (formOpt_readsBack_of_fits formU16_readsBack hst)
      (formPair_readsBack (formOpt_readsBack_of_fits formU16_readsBack hr)
        (formPair_readsBack (formOpt_readsBack_of_fits formU8_readsBack ha)
          (formPair_readsBack (formOpt_readsBack_of_fits formU8_readsBack ht)
            (formPair_readsBack hsibling (formOpt_readsBack fun b _ => formFlag_readsBack b))))))

/-! ### Every request -/

/-- A request is read from a body whose form reads back. -/
theorem request_of_form {α : Type} {f : Codec α} {x : α} (hx : f.ReadsBack x) (g : α → Instr) :
    (readForm f (f.put x)).map g = some (g x) := by
  rw [readForm_put hx, Option.map_some]

/-- Settles O2: each request by the form of its body. -/
theorem requestBodiesReadBack : Obligations.RequestBodiesReadBack := by
  intro i h k b hwf hb
  cases i
  case confirmHold | releaseHold | extendHold | queryHold | listShows | withdrawNotice =>
    cases hb
    unfold parseBody
    exact request_of_form (formId_readsBack hwf) _
  case holdSeats | sellNow | refundSeats =>
    cases hb
    unfold parseBody
    exact request_of_form (formSeats_readsBack hwf) _
  case setCapacity | withhold | unwithhold =>
    cases hb
    unfold parseBody
    exact request_of_form (formZoneCount_readsBack hwf) _
  case queryShow | openSales | cancelShow | removeShow | readShow | removeSpot | readSpot =>
    cases hb
    unfold parseBody
    exact request_of_form (formU16_readsBack hwf) _
  case setPoolSplit | readHold | readBoard | readDoor | clearReel | stopReel | startReel | readReel | readJournal =>
    cases hb
    unfold parseBody
    exact request_of_form (formU8_readsBack hwf) _
  case readNotices | readAlert | readCauses | rollDay | dayClear | readPool | readChime | clearAlert | readHouseLines
      | linkReset | readPolicy | readClock | saveSetup =>
    cases hb
    unfold parseBody
    exact request_of_form formEmpty_readsBack _
  case readPortStatus | readPanel =>
    cases hb
    unfold parseBody
    exact request_of_form (formClear_readsBack hwf) _
  case readSeatStatus =>
    cases hb
    unfold parseBody
    exact request_of_form (formFlag_readsBack _) _
  case postNotice =>
    cases hb
    unfold parseBody
    exact request_of_form (formNotice_readsBack hwf) _
  case setCauseMask =>
    cases hb
    unfold parseBody
    exact request_of_form (formMask_readsBack hwf) _
  case loadShow =>
    cases hb
    unfold parseBody
    exact request_of_form (formLoad_readsBack hwf) _
  case amendShow =>
    cases hb
    unfold parseBody
    exact request_of_form (formAmend_readsBack hwf) _
  case defineTitle =>
    cases hb
    unfold parseBody
    exact request_of_form (formTitle_readsBack hwf) _
  case defineSpot =>
    cases hb
    unfold parseBody
    exact request_of_form (formSpot_readsBack hwf) _
  case buildReel =>
    cases hb
    unfold parseBody
    exact request_of_form (formReel_readsBack hwf) _
  case setChimePattern =>
    cases hb
    unfold parseBody
    exact request_of_form (formChime_readsBack hwf) _
  case setStartLine =>
    cases hb
    unfold parseBody
    exact request_of_form (formStartLine_readsBack hwf) _
  case setAlertLine =>
    cases hb
    unfold parseBody
    exact request_of_form (formByteWord_readsBack hwf) _
  case setPanel =>
    cases hb
    unfold parseBody
    exact request_of_form (formPanel_readsBack hwf) _
  case setPolicy =>
    cases hb
    unfold parseBody
    exact request_of_form (formSettings_readsBack hwf) _
  case setClock =>
    cases hb
    unfold parseBody
    exact request_of_form (formWordByte_readsBack hwf) _
  all_goals cases hb

end Sys2Proof.Machine

/-! ## Hard reset and start-up (O4, O11, O12) -/

namespace Sys2Proof.Machine

/-! ### The blocks on a setup image (R208) -/

/-- What hard reset leaves of each block that an output or a statement reads, whatever the image (R208). -/
theorem ofImage_frame (img : SetupImage) (image : Option SetupImage) :
    (State.ofImage img image).phase = .inReset ∧
    (State.ofImage img image).shows.shows = [] ∧
    (State.ofImage img image).journal = ⟨0, 0, []⟩ ∧
    (State.ofImage img image).link.cond = .idle ∧
    (State.ofImage img image).ports = ⟨.reset, .reset, .reset⟩ ∧
    (State.ofImage img image).store = ⟨.idle, image⟩ := ⟨rfl, rfl, rfl, rfl, rfl, rfl⟩

theorem portAt_of_reset {s : State} (h : s.ports = ⟨.reset, .reset, .reset⟩) (p : Port) : s.portAt p = .reset := by
  rw [portAt_eq, h]
  cases p <;> rfl

/-- The working values after a reset are the image's items (R205). -/
theorem itemsOf_ofImage (img : SetupImage) (image : Option SetupImage) : itemsOf (State.ofImage img image) = img := by
  have hpanels : (img.panels.map Panel.ofConfig).map (·.config) = img.panels := by
    simp [Function.comp_def, Panel.ofConfig]
  have hreels : (img.reels.map Reel.ofSlots).map (·.slots) = img.reels := by
    simp [Function.comp_def, Reel.ofSlots]
  show { img with
    panels := (img.panels.map Panel.ofConfig).map (·.config)
    reels := (img.reels.map Reel.ofSlots).map (·.slots) } = img
  rw [hpanels, hreels]

/-- Settles O4: the reset state is the default image's, of which each law has been proved for any image. -/
theorem resetHasTheLaws : Obligations.ResetHasTheLaws := by
  have hrevisions : RevisionsKept State.reset := revisionsKept_ofConfigs (l := SetupImage.default.panels) rfl rfl
  exact ⟨ofImage_sized default_sized fun i hi => (Option.some_ne_none i hi.symm).elim, hrevisions.journal,
    hrevisions.panels, portsLaw_reset rfl, alertLaw_not_running (x := .inReset) rfl (by decide), seatLaw_ofImage _ _⟩

/-! ### Hard reset (R206, R208) -/

theorem exec_hardReset (s : State) : exec .hardReset s = .next (hardReset s) := rfl

/-- A store operation that had begun to change the image loses it (R206). -/
theorem afterReset_of_changing {x : SetupStore} (h : x.state = .erasing ∨ x.state = .writing) :
    x.afterReset = none := by
  unfold SetupStore.afterReset
  rcases h with h | h <;> rw [h]

theorem afterReset_of_whole {x : SetupStore} (h : x.state = .idle ∨ x.state = .checking) : x.afterReset = x.image := by
  unfold SetupStore.afterReset
  rcases h with h | h <;> rw [h]

/-- While RESET is asserted no attention line is active and the chime line is low (R208). -/
theorem outputs_of_inReset {s : State} (h : s.phase = .inReset) : (∀ p, attention p s = false) ∧ chimeLine s = none :=
  ⟨fun p => by simp [attention, h], if_pos h⟩

/-- Settles O11: RESET holds the outputs, and the blocks stand as on the default image. -/
theorem hardResetStopsThePart : Obligations.HardResetStopsThePart := by
  intro s
  obtain ⟨hphase, hshows, hjournal, hcond, hports, hstore⟩ := ofImage_frame .default s.store.afterReset
  obtain ⟨hattention, hchime⟩ := outputs_of_inReset (s := hardReset s) hphase
  refine ⟨hardReset s, exec_hardReset s, hphase, rfl, congrArg SetupStore.state hstore, fun h => ?_, fun h => ?_,
    hattention, hchime, hcond, hshows, hjournal, portAt_of_reset hports⟩
  · exact (congrArg SetupStore.image hstore).trans (afterReset_of_changing h)
  · exact (congrArg SetupStore.image hstore).trans (afterReset_of_whole h)

/-! ### Start-up (R140, R205, R208) -/

/-- The state steps 1 to 4 of R208 leave, from the image read and its check: the blocks on the items in force, and the
first sample of each start line. -/
def startedFrom (lines : Word) (image : Option SetupImage) (pending : List Instr) : State :=
  let u := State.ofImage (image.getD .default) image
  { u with phase := .starting, storeInvalid := image.isNone, pending := pending,
           house := { u.house with lines := firstSamples lines } }

theorem startUp_eq {s : State} (h : s.phase = .inReset) (lines : Word) (holds : Bool) :
    startUp lines holds s = startedFrom lines (s.store.read holds) s.pending := if_pos h

theorem exec_startUp {s : State} (h : s.phase = .inReset) (lines : Word) (holds : Bool) :
    exec (.startUp lines holds) s = .next (startedFrom lines (s.store.read holds) s.pending) :=
  congrArg Host.Outcome.next (startUp_eq h lines holds)

theorem read_of_holds {x : SetupStore} {i : SetupImage} (h : x.image = some i) : x.read true = some i := h

theorem read_of_invalid {x : SetupStore} {holds : Bool} (h : holds = false ∨ x.image = none) : x.read holds = none := by
  rcases h with rfl | h
  · rfl
  · rw [SetupStore.read, h, ite_self]

/-- The items in force are the image's, or the defaults (R205). -/
theorem itemsOf_startedFrom (lines : Word) (image : Option SetupImage) (pending : List Instr) :
    itemsOf (startedFrom lines image pending) = image.getD .default := itemsOf_ofImage _ image

theorem startedFrom_panels {lines : Word} {image : Option SetupImage} {pending : List Instr} {p : Panel}
    (h : p ∈ (startedFrom lines image pending).link.panels) :
    p.state = if p.config.present then .unknown else .absent := by
  obtain ⟨c, -, rfl⟩ := List.mem_map.mp h
  rfl

/-- Each start line's first sample is its stable level (R140). -/
theorem startedFrom_lineState (lines : Word) (image : Option SetupImage) (pending : List Instr) {i : Nat}
    (hi : i < 16) : (startedFrom lines image pending).lineState i = ⟨lineLevel lines i, 0⟩ := by
  simp [State.lineState, startedFrom, firstSamples, lineLevel, hi]

/-- Settles O12: the image read is the one that holds its check, and the blocks stand on its items. -/
theorem startUpReadsTheImage : Obligations.StartUpReadsTheImage := by
  intro lines holds s hphase
  refine ⟨startedFrom lines (s.store.read holds) s.pending, exec_startUp hphase lines holds, rfl, fun i hh hi => ?_,
    fun hbad => ?_, rfl, rfl, rfl, rfl, rfl, rfl, rfl, fun p hp => startedFrom_panels hp,
    portAt_of_reset rfl, rfl, fun i hi => startedFrom_lineState _ _ _ hi⟩
  · rw [hh, read_of_holds hi]
    exact ⟨itemsOf_startedFrom _ _ _, rfl⟩
  · rw [read_of_invalid hbad]
    exact ⟨itemsOf_startedFrom _ _ _, rfl⟩

end Sys2Proof.Machine

/-! ## The setup store (O60) -/

namespace Sys2Proof.Machine

/-! ### The store's events, each in its state (R206) -/

theorem saveSetup_tested (s : State) : saveSetup s =
    tested [(s.store.state != .idle, .storeBusy)] s (s.withStore ⟨.erasing, none⟩, okWith []) := by
  rw [tested_cons, tested_nil, saveSetup, storeBusy]

theorem exec_storeEraseDone {s : State} (hr : s.phase = .running) (h : s.store.state = .erasing) :
    exec .storeEraseDone s = .next (s.withStore { s.store with state := .writing }) :=
  congrArg Host.Outcome.next ((whenRunning_of_running (f := storeEraseDone) hr).trans (if_pos h))

theorem exec_storeWriteDone {s : State} (hr : s.phase = .running) (h : s.store.state = .writing) :
    exec .storeWriteDone s = .next (s.withStore ⟨.checking, some (itemsOf s)⟩) :=
  congrArg Host.Outcome.next ((whenRunning_of_running (f := storeWriteDone) hr).trans (if_pos h))

theorem exec_storeCheckDone {s : State} (hr : s.phase = .running) (h : s.store.state = .checking) (holds : Bool) :
    exec (.storeCheckDone holds) s = .next (if holds then
      raise .programme .storeDone (s.withStore { s.store with state := .idle })
      else raise .programme .storeFailed (s.withStore ⟨.idle, none⟩)) :=
  congrArg Host.Outcome.next ((whenRunning_of_running (f := storeCheckDone holds) hr).trans (if_pos h))

theorem exec_storeFault {s : State} (hr : s.phase = .running) (h : s.store.state ≠ .idle) :
    exec .storeFault s = .next (raise .programme .storeFailed (s.withStore ⟨.idle, none⟩)) :=
  congrArg Host.Outcome.next ((whenRunning_of_running (f := storeFault) hr).trans (if_pos (bne_iff_ne.mpr h)))

/-- Settles O60: a save begins at an IDLE store, and each event of the store is taken in the state it ends. -/
theorem setupIsSaved : Obligations.SetupIsSaved := by
  refine ⟨fun h s => ?_, fun s hr => ⟨exec_storeEraseDone hr, exec_storeWriteDone hr,
    fun hc => ⟨exec_storeCheckDone hr hc true, exec_storeCheckDone hr hc false⟩, exec_storeFault hr⟩⟩
  refine takenOrRefused_of saveSetup (fun u => u.withStore ⟨.erasing, none⟩) (okWith []) rfl rfl
    (fun q => saveSetup_tested (s.withPorts q)) fun s1 t _ a hx f => ⟨t, ⟨hx, f.answered⟩, f.store, ?_,
      quietly_of a f rfl⟩
  rw [f.blocks, a.blocks]
  rfl

end Sys2Proof.Machine

/-! ## Set Clock (O59) -/

namespace Sys2Proof.Machine

/-! ### The clock handed on (R204): evaluations, windows, notices, beacon -/

/-- The shows and the board once a written clock has been handed to them (R12, R87, R204). -/
def windowsTested (w : State) : State := testWindows (evaluateAll w)

theorem clockSet_eq (w : State) :
    clockSet w = (withdrawWhere (windowClosed (windowsTested w)) (windowsTested w)).setBeacon := rfl

theorem testWindows_framed (w : State) : Framed w (testWindows w) := by
  refine ⟨by simp, ?_, by simp, by simp, OnlyShowCauses.of_forced (publishLines_onlyForced (cancelledToday w) w)⟩
  apply state_eq <;> simp

theorem windowsTested_framed (w : State) : Framed w (windowsTested w) :=
  (evaluateAll_framed w).trans (testWindows_framed (evaluateAll w))

theorem windowsTested_shows (w : State) : (windowsTested w).shows = (evaluateAll w).shows := by simp [windowsTested]

theorem windowsTested_notice (w : State) : (windowsTested w).notice = (evaluateAll w).notice := by simp [windowsTested]

/-- The test of the windows serves every CANCELLED show of today (R87). -/
theorem testWindows_lineServed {w : State} {x : Show} (hx : x ∈ w.shows.shows) (hd : x.day = 0)
    (hc : x.state = .cancelled) : LineServed x.key (testWindows w) := by
  have hm : x.key ∈ cancelledToday w := List.mem_map.mpr ⟨x, List.mem_filter.mpr ⟨hx, by simp [hd, hc]⟩, rfl⟩
  rw [LineServed, testWindows, publishLines_image, if_pos hm]
  exact (computeLine_congr (by simp) x.key).symm

theorem clockSet_shows (w : State) : (clockSet w).shows = (evaluateAll w).shows := by
  rw [clockSet_eq, ← windowsTested_shows]
  simp

theorem clockSet_showKeys (w : State) : (clockSet w).showKeys = w.showKeys :=
  (showKeys_congr (clockSet_shows w)).trans (evaluateKeys_showKeys true w.showKeys w)

theorem clockSet_settled (w : State) : ∀ k ∈ (clockSet w).showKeys, Settled k (clockSet w) := fun k hk =>
  settled_congr (clockSet_shows w) (by rw [(evaluateAll_framed w).policy]; simp)
    (evaluateAll_settled w k (by rwa [← showKeys_congr (clockSet_shows w)]))

theorem clockSet_lineServed {w : State} {x : Show} (hx : x ∈ (clockSet w).shows.shows) (hd : x.day = 0)
    (hc : x.state = .cancelled) : LineServed x.key (clockSet w) := by
  rw [clockSet_shows] at hx
  exact lineServed_congr (s := windowsTested w) (by simp [clockSet_eq]) (by simp [clockSet_eq])
    (testWindows_lineServed hx hd hc)

/-- A written clock is handed on without a change outside the blocks that R204 names. -/
theorem clockSet_blocks (w : State) : clockSet w =
    { w with seat := (clockSet w).seat, shows := (clockSet w).shows, board := (clockSet w).board,
             notice := (clockSet w).notice, journal := (clockSet w).journal, link := (clockSet w).link,
             ports := (clockSet w).ports } := by
  apply state_eq <;> simp

theorem clockSet_table (w : State) :
    (clockSet w).shows = { w.shows with shows := (clockSet w).shows.shows, doors := (clockSet w).shows.doors } := by
  rw [clockSet_shows]
  exact (evaluateAll_framed w).table

theorem setBeacon_showCauses (u : State) : OnlyShowCauses u u.setBeacon := OnlyShowCauses.of_ports rfl

theorem clockSet_causes (w : State) : OnlyShowCauses w (clockSet w) := by
  rw [clockSet_eq]
  have hwithdrawn := framed_withdraw (windowClosed (windowsTested w)) (windowsTested w)
  exact ((windowsTested_framed w).trans hwithdrawn).causes.trans (setBeacon_showCauses _)

/-! ### The notices at a clock set (R128, R129): no life is counted -/

/-- Whether a window is over is read off the shows and the clock. -/
theorem windowOver_of_shows {s t : State} (h : t.shows = s.shows) (n : Notice) : WindowOver t n ↔ WindowOver s n := by
  simp only [WindowOver, h, findShow_congr h]

theorem clockSet_notice (w : State) :
    (clockSet w).notice = (withdrawWhere (windowClosed (windowsTested w)) (windowsTested w)).notice := by
  simp [clockSet_eq]

theorem clockSet_slot (w : State) (i : Nat) : (clockSet w).noticeSlot i =
    (withdrawWhere (windowClosed (windowsTested w)) (windowsTested w)).noticeSlot i :=
  noticeSlot_congr (clockSet_notice w) i

theorem windowOver_clockSet (w : State) (n : Notice) :
    WindowOver (clockSet w) n ↔ windowClosed (windowsTested w) n = true := by
  rw [windowClosed_iff]
  exact windowOver_of_shows (by simp [clockSet_eq]) n

theorem clockSet_thins (w : State) : Thins w.notice (clockSet w).notice := by
  have heval : Thins w.notice (windowsTested w).notice := by
    rw [windowsTested_notice]
    exact evaluateKeys_thins true w.showKeys w
  rw [clockSet_notice]
  exact heval.trans (withdrawWhere_thins (windowClosed (windowsTested w)) (windowsTested w))

/-- No notice of a CANCELLED show stays past the show's window (R129). -/
theorem clockSet_windows {w : State} {i : Nat} {n : Notice} (h : ((clockSet w).noticeSlot i).notice = some n) :
    ¬ WindowOver (clockSet w) n := by
  rw [clockSet_slot] at h
  rw [windowOver_clockSet, withdrawWhere_none h]
  exact Bool.false_ne_true

/-- A notice whose window is not over stays, if its show keeps its state should it be a DELAY notice (R128, R129). -/
theorem clockSet_kept {w : State} (hp : w.shows.shows.Pairwise (fun a b => a.key < b.key)) {i : Nat} {n : Notice}
    (h : (w.noticeSlot i).notice = some n) (hw : ¬ WindowOver (clockSet w) n) (hk : StateKept w (clockSet w) n) :
    (clockSet w).noticeSlot i = w.noticeSlot i := by
  have hnodup : w.showKeys.Nodup := (showKeys_pairwise.mpr hp).imp fun h => Nat.ne_of_lt h
  have heval : (windowsTested w).noticeSlot i = w.noticeSlot i :=
    (noticeSlot_congr (windowsTested_notice w) i).trans
      (evaluateKeys_slot hnodup w h (stateKept_congr (clockSet_shows w) hk))
  rw [windowOver_clockSet, Bool.not_eq_true] at hw
  rw [clockSet_slot, withdrawWhere_kept (by rw [heval, h]) hw, heval]

/-! ### The request -/

theorem setClock_tested (minute second : Nat) (s : State) : setClock minute second s =
    tested [(decide (1439 < minute ∨ 59 < second), .badArgument)] s
      (clockSet (s.withClock ⟨true, minute, second⟩), okWith []) := by
  simp only [setClock, tested_cons, tested_nil, decide_eq_true_eq]

/-- Settles O59: the clock written, and the hand-off of R204 by what each block makes of it. -/
theorem clockIsSet : Obligations.ClockIsSet := by
  intro h minute second s hp
  refine takenOrRefused_of (setClock minute second) (fun u => clockSet (u.withClock ⟨true, minute, second⟩)) (okWith [])
    rfl rfl (fun q => setClock_tested minute second (s.withPorts q)) fun s1 t _ a hx f => ?_
  generalize hset : s1.withClock ⟨true, minute, second⟩ = w at f
  have hpw : w.shows.shows.Pairwise (fun a b => a.key < b.key) := by
    rw [← hset, withClock_shows, a.shows]
    exact hp
  have hpt : t.shows.shows.Pairwise (fun a b => a.key < b.key) := by
    rw [f.shows]
    exact pairwise_of_showKeys (clockSet_showKeys w) hpw
  have hsettled : ∀ k ∈ t.showKeys, Settled k t := fun k hk =>
    settled_congr f.shows f.policy (clockSet_settled w k (by rwa [← showKeys_congr f.shows]))
  have hnotice : w.notice = s.notice := by rw [← hset, ← a.notice]; rfl
  have hslot : ∀ i, w.noticeSlot i = s.noticeSlot i := noticeSlot_congr hnotice
  have hthins : Thins s.notice t.notice := by rw [f.notice, ← hnotice]; exact clockSet_thins w
  have hover : ∀ n, WindowOver t n ↔ WindowOver (clockSet w) n := windowOver_of_shows f.shows
  have hfind : ∀ k, w.findShow k = s.findShow k := fun k => by rw [← hset, ← a.findShow]; rfl
  have hblocks : w = { s with shows := w.shows, ports := w.ports } := by rw [← hset, a.blocks]; rfl
  have hports : w.ports = s1.ports := by rw [← hset]; rfl
  have htable : t.shows = { s.shows with
      shows := t.shows.shows, doors := t.shows.doors, clock := ⟨true, minute, second⟩ } := by
    rw [f.shows, clockSet_table, ← hset, ← a.shows]
    rfl
  refine ⟨t, ⟨hx, f.answered⟩, by rw [htable], settled_all hpt hsettled, fun x hx hd hc => ?_, fun i n hn => ?_,
    hthins, fun i n hn hw hk => ?_, by rw [f.link]; rfl, ?_, by rw [htable], by rw [htable],
    buffersKept_of a f (by simp [hports]), onlyShowCauses_of a f ?_⟩
  · exact lineServed_congr f.shows f.board (clockSet_lineServed (f.shows ▸ hx) hd hc)
  · rw [f.noticeSlot] at hn
    rw [hover]
    exact clockSet_windows hn
  · rw [hover] at hw
    have hkw : StateKept w (clockSet w) n := fun hc k hl => by
      rw [hfind, ← hk hc k hl, f.findShow]
    rw [f.noticeSlot, clockSet_kept hpw (by rw [hslot, hn]) hw hkw, hslot]
  · rw [f.blocks, clockSet_blocks, hblocks]
  · exact (OnlyShowCauses.of_ports hports).trans (clockSet_causes w)

end Sys2Proof.Machine

/-! ## The step by its queue (O1) -/

namespace Sys2Proof.Machine

theorem step_of_pending_cons {s : State} {c : Instr} {rest : List Instr} (h : s.pending = c :: rest) :
    step s = exec c (s.withPending rest) := by
  rw [step, h]

theorem step_of_pending_nil {s : State} (h : s.pending = []) : step s = .next s := by
  rw [step, h]

/-- Settles O1: a queue either has a front command, which is carried out on the rest, or is empty, and the block
idles (log 2). -/
theorem stepRunsTheFrontCommand : Obligations.StepRunsTheFrontCommand :=
  ⟨fun _ _ _ => step_of_pending_cons, fun _ => step_of_pending_nil⟩

end Sys2Proof.Machine
